-- ==== Sys2Proof/Word.lean ====
section
/-! DEFINITION. The word types of the QW48 model, the sparse table, and the types of a register description. -/

namespace Sys2Proof

/-- A 64-bit register or memory word (R3). -/
abbrev Word := BitVec 64

/-- One byte of memory. -/
abbrev Byte := BitVec 8

/-- A 40-bit control address (R19). -/
abbrev Ca := BitVec 40

/-- A 56-bit data address (R24). -/
abbrev DataAddr := BitVec 56

/-- A field number, 0–47 (R10). -/
abbrev FieldNo := Fin 48

/-- A tile site of a field, 0–41 (R12). -/
abbrev SiteNo := Fin 42

/-- A context of a tile, 0–3. -/
abbrev CtxNo := Fin 4

/-- A job domain, 0–3. -/
abbrev JobNo := Fin 4

/-- A physical tile: a tile site of one field (R12). -/
structure Tile where
  field : FieldNo
  site  : SiteNo
  deriving DecidableEq, Repr

/-- The key of a tile in the tables of the state: 42 sites a field. -/
def Tile.key (t : Tile) : Nat := 42 * t.field.val + t.site.val

/-- A sparse table: key and value pairs, keys strictly rising, no value equal to the default of its key.
    What an unlisted key holds is given where the table is read. -/
abbrev Table (α : Type) := List (Nat × α)

/-- Register access codes, Table 0-2 (R4); a reserved field has no description at all. -/
inductive Acc where
  | ro | rw | rws | w1c | wo | rc
  deriving DecidableEq, Repr

/-- One field of a register: its bits, access code, reset value and the codes that are not reserved
    (closed ranges; an empty list allows every code) (R4, R7). -/
structure RegField where
  hi    : Nat
  lo    : Nat
  acc   : Acc
  reset : Nat
  legal : List (Nat × Nat)
  deriving DecidableEq, Repr

/-- What a control address selects, where a write or a read of it does more than its access codes say:
    the rule that the register's chapter gives it. `plain` is every other register. -/
inductive RegTag where
  | plain
  | fldPosition | fldTilemap | fldSitebad | fldSiteuse
  | istore | accWindow
  | mxeCtl | mxeStatus | mxeChkinj | mxeColmask
  | tilCtxcfg | tilCtxstate | tilCtxcmd | seqLc | counter | tilPress
  | vchCfg | vchVec | rowState | vchStatus
  | sfuCtl
  | spdBound | spdEpoch | spdEptab | strProg | strStatus
  | netTrt | netRtree | netMcg | netSlotuse | netJetmask | jetLink | jetSpare | jetSparecmd
  | celStatus | vatCmd | vatStatus | homeStat | caveCtl | cavePt | cavePtcmd | migCmd | migStatus | migFree
  | fetchctl | fetchcmd | fetchstat | fldCal
  | updJseed | updRule | updShard | updSrc
  | spxStatus | spxRing
  | arbCtl | arbCommit | arbStatus | arbReq
  | isoModid | isoSerial | isoTime | isoTimeset | isoTimectl | isoXtree | isoGust | isoHpctl | isoHpstat | gsparecmd
  | rindId | rindDwin | funcjob | queueWord | evq | rindKey | rindReset | fwstat | fwctl | rindPress
  | pwrCtl | domcmd | pwrDom | optgate | optstat | remapcmd | remapstat
  | telSnap | telSnapat | telLanesel | telLanecnt | telLog | telSens
  | scan | dbgChal | dbgResp | dbgUnlock | dbgTctl | dbgFhalt | scrub
  deriving DecidableEq, Repr

/-- A register, or an array of registers of one layout: the byte offset of the first in its block, the
    strides and lengths of its indices (largest stride first), its rule and its fields. -/
structure RegGroup where
  base   : Nat
  dims   : List (Nat × Nat)
  tag    : RegTag
  fields : List RegField
  deriving DecidableEq, Repr

/-- The kinds of site a control address can select (Tables 1-5 and 1-7). -/
inductive SiteKind where
  | tile | fieldCtl | vat | cellar | optical | station
  | rindMgmt | rindHost | edgeCommon | pcie0 | pcie1 | fabric
  deriving DecidableEq, Repr

end Sys2Proof
end

