-- ==== Sys2Proof/Units/Arbiter.lean ====
section
/-! DEFINITION. Arbiter instances (chapter 13). -/

namespace Sys2Proof

/-- The arbiter instances (Table 13-1). -/
inductive ArbInst where
  | sfu (t : Tile)
  | cellar (f : FieldNo)
  | vat (f : FieldNo)
  | host
  | optical (f : FieldNo)
  deriving DecidableEq, Repr

/-- What one requester asks in a period: whether it is raised at the period's start, its demand, the bytes of each of its TLPs
    (host DMA alone), whether the last unit of its demand ends its operation and so lowers its request, and whether it raises its
    request in the period. -/
structure ArbAsk where
  raised : Bool
  demand : Nat
  bytes  : Nat
  lowers : Bool
  again  : Bool
  deriving DecidableEq, Repr

/-- What no register of an instance shows: a window is due to start (`due`), after one that ran its whole length (`whole`); by
    requester, whether it has waited raised and unserved since the window's start, whether its starved event has been recorded
    since it was last served, and the units handed to it that it has not used yet (`grants`). -/
structure ArbSt where
  due    : Bool := true
  whole  : Bool := false
  waited : List Bool := []
  told   : List Bool := []
  grants : List Nat := []
  deriving DecidableEq, Repr

end Sys2Proof
end

