-- ==== Sys2Proof/Units/Num.lean ====
section
/-! DEFINITION. The number types of chapters 2 to 6 and 11: flags, block formats, exact values, records. -/

namespace Sys2Proof

/-- A set of arithmetic flags (R6): bit 0 NX, 1 UF, 2 OV, 3 PZ, 4 DZ, 5 DM, 6 FZI, 7 FZO. -/
abbrev Flags := BitVec 8

/-- The three block formats (R29). -/
inductive Fmt where
  | bs8 | bs4 | bs16
  deriving DecidableEq, Repr

/-- An exact value of a lane: poison, an overflow of a sign, or the number m·2^e (Table 3-6). -/
inductive Num where
  | poison
  | ovf (neg : Bool)
  | fin (m : Int) (e : Int)
  deriving DecidableEq, Repr

/-- One block read by its meaning (R30–R34): per element, an effective mantissa or poison. -/
inductive BlockKind where
  | zero | normal | overflow
  deriving DecidableEq, Repr

/-- An S96 record (Table 5-8): N, anchor Q and the four flags PZ OV UF NX in bits 3 to 0. Poison is N = −2^95. -/
structure S96 where
  n     : Int
  q     : Int
  flags : BitVec 4
  deriving DecidableEq, Repr

/-- The IEEE formats of Table 2-5. -/
inductive Ieee where
  | binary32 | binary16 | bfloat16
  deriving DecidableEq, Repr

/-- A reduction lane: a 96-bit integer and its flags PZ OV UF NX in bits 3 to 0 (R190). -/
structure RedLane where
  n     : Int
  flags : BitVec 4
  deriving DecidableEq, Repr

/-- A reduction packet's body (R190): contributions summed, chunk number, anchor and lanes. -/
structure RedBody where
  tree  : Nat
  cnt   : Nat
  chunk : Nat
  q     : Int
  lanes : List RedLane
  deriving DecidableEq, Repr

end Sys2Proof
end

