-- ==== Sys2Proof/Units/Net.lean ====
section
/-! DEFINITION. The packets of the wafer network and of the fabric (chapters 8, 9 and 14). -/

namespace Sys2Proof

/-- What error fill makes of an entry (R148): blocks of a format, of which the first `nrd` were read, or words. -/
inductive FillKind where
  | blocks (f : Fmt) (nblk nrd : Nat)
  | raw
  deriving DecidableEq, Repr

/-- What a multicast packet carries beside its group: for a multicast read and its response (R162) the generation
    of the read, the offset of its bytes in the entry, the entry's size, parts, fill and predicate, the engine that issued it
    (tile key, engine and context) and the entry's number among those it issued to the group in that generation. A copy that a
    station has made for one member carries the member's number, as does a member's credit.
    DEDUCED: notes/assumptions/127. -/
structure Group where
  group : Nat
  member : Option (Fin 16) := none
  gen   : BitVec 8 := 0
  ofs   : Nat := 0
  size  : Nat := 0
  parts : Nat := 1
  fill  : FillKind := .raw
  pred  : Bool := true
  src   : Option (Nat × Nat × Nat) := none
  num   : Nat := 0
  deriving DecidableEq, Repr

/-- Head-flit fields common to packets (Table 8-2). `mcg` is set in a multicast packet (DFIELD = 0x3E);
    `smod` and `dmod` are the modules of a packet that crosses the fabric (Table 14-2). `port` is the PCIe port of a
    host access or its response (R170). `pte` is the page-table entry under which a Vat or the host agent sends a
    Cave request to its home (DESIGN CHOICE, notes/assumptions/30). `ret` is the final endpoint of a response that crosses the fabric,
    which it carries in ADDR[37:26] (R316). The CRC and the flit counts follow from the rest (R174). -/
structure Head where
  job    : JobNo
  ntag   : BitVec 4
  dfield : Nat
  dsite  : Nat
  dlog   : Bool
  sfield : Nat
  ssite  : Nat
  xm     : Bool
  tag    : Nat
  mcg    : Option Group
  smod   : Nat
  dmod   : Nat
  port   : Option (Fin 2) := none
  pte    : Word := 0
  ret    : Option (Nat × Nat) := none
  deriving DecidableEq, Repr

/-- Status of a response (R177). -/
inductive NStatus where
  | done | addrErr | tagErr
  deriving DecidableEq, Repr

/-- Status of a coherence response (R214). -/
inductive CohSt where
  | done | addrErr | tagErr | retry
  deriving DecidableEq, Repr

/-- Who issues a compare-and-count: logical tile, context and epoch (R154). -/
structure Requester where
  tile  : Nat
  ctx   : Nat
  epoch : Nat
  deriving DecidableEq, Repr

/-- Where a compare-and-count comes from: a unit of the bank's own tile, for a job domain; or a packet, with its operation code (R150, R151). -/
inductive CacSrc where
  | bank (t : Tile) (job : JobNo) (off : BitVec 25)
  | packet (h : Head) (addr : DataAddr) (op : Fin 16)
  deriving DecidableEq, Repr

/-- A coherence request (Table 9-4). -/
inductive CohReq where
  | readS | readX | upgrade | putM | putE | putS | xlat | prec
  deriving DecidableEq, Repr

/-- A coherence response or forward (Table 9-4). -/
inductive CohRsp where
  | data | upgAck | fwdS | fwdX | inv | invAck | fwdAck | putAck | xlatR | tinv | tinvAck | precAck
  deriving DecidableEq, Repr

/-- The line states of a Vat (R208). -/
inductive LineSt where
  | i | s | e | m
  deriving DecidableEq, Repr

/-- The body of a coherence message (R214, Table 9-6): the line, or for a message about a page the page; the status,
    SMASK, KEEP, GRANT, RQF, RQTAG and END; the line's bytes, if they travel with it; and the PTE of an XLATR. -/
structure CohBody where
  line  : Nat
  st    : CohSt := .done
  smask : BitVec 8 := 0
  keep  : Bool := false
  grant : LineSt := .i
  rqf   : Nat := 0
  rqtag : Nat := 0
  fin   : Bool := false
  bytes : Option (List Byte) := none
  pte   : Word := 0
  deriving DecidableEq, Repr

/-- What a packet carries, by KIND (Tables 8-3, R177). `fill` marks read data that is error fill (R148); `nctlReserved` is an
    NCTL packet of a reserved SUB. The records of SUB 0x5 are the events of State.events (DESIGN CHOICE,
    notes/assumptions/128).
    DEDUCED: notes/assumptions/45. -/
inductive Body where
  | rd (addr len : Nat)
  | wr (addr : Nat) (data : List Byte)
  | cac (addr op imm : Nat) (by_ : Requester)
  | regrd (ca : Ca)
  | regwr (ca : Ca) (v : Word)
  | cohq (k : CohReq) (b : CohBody)
  | rdata (st : NStatus) (data : List Byte) (fill : Bool)
  | wack (st : NStatus)
  | cacr (st : NStatus) (cst : Nat) (cmpv : Word)
  | cohp (k : CohRsp) (b : CohBody)
  | red (r : RedBody)
  | bzw (addr : Nat) (data : List Byte)
  | bzack (st : NStatus)
  | tok (ctx : CtxNo) (ty : Byte)
  | epochNotice (tile : Nat) (epoch : BitVec 16)
  | mcCredit (eng : Nat) (ctx : CtxNo) (units : Nat)
  | redCredit (tree : Nat)
  | pathNotice (mask : BitVec 48)
  | nctlReserved (sub : Fin 16)
  | reserved
  deriving DecidableEq, Repr

/-- An event on its way to the Rind's event log (Table 15-13): its code, the job domain and context it names, the
    place that reports it, its detail and the reporting block's time copy. -/
structure Event where
  code   : Nat
  job    : Option Nat
  ctx    : Option Nat
  field  : Nat
  site   : Nat
  detail : Word
  time   : Word
  deriving DecidableEq, Repr

/-- Where a packet is: at its source; at the router of a site it has come down to, by Tile.key; on the mesh at a
    site; at a site it has come down to on its way to another field (R169); at a station; at a spine block; at the
    Rind; in the edge segment. A site, a spine block, the Rind and the edge segment are where packets arrive. -/
inductive Node where
  | source
  | site (key : Nat)
  | mesh (key : Nat)
  | detour (key : Nat)
  | station (f : Nat)
  | spine (f site : Nat)
  | rind
  | edge
  deriving DecidableEq, Repr

/-- The flits of a packet in one input buffer (R181): the node whose buffer it is, whether they lie in its detour buffers (R169),
    the number that orders the packets of a buffer, and for each flit, oldest first, whether it took a credit of the shared pool. -/
structure Hop where
  node   : Node
  detour : Bool
  seq    : Nat
  flits  : List Bool
  deriving DecidableEq, Repr

/-- A link direction (R178, R180): the flits that its two ends have counted, the input key from which each channel's next round
    begins, and the flits of the last 32 cycles in its replay buffer, oldest first. -/
structure LinkSt where
  count  : Nat := 0
  rounds : Table Nat := []
  replay : List (BitVec 1152) := []
  deriving DecidableEq, Repr

/-- A packet in flight (R174): the buffers that hold flits of it, that of its head flit first, and where the flits that have not
    left yet are: at its source, or for a copy of a multicast packet at the station that makes it. `seq` orders the packets of a
    source; `feed` is the number of the packet whose flits a copy still takes, and `copied` the flits
    of this packet that its copies have taken (R187). -/
structure Packet where
  head   : Head
  body   : Body
  origin : Node := .source
  seq    : Nat := 0
  feed   : Option Nat := none
  copied : Nat := 0
  trail  : List Hop := []
  deriving DecidableEq, Repr

/-- Where a packet's head flit is. -/
def Packet.loc (p : Packet) : Node :=
  match p.trail with
  | h :: _ => h.node
  | [] => p.origin

/-- Whether a packet's head flit lies in the detour buffers: it is a detour packet (R169). -/
def Packet.detour (p : Packet) : Bool :=
  match p.trail with
  | h :: _ => h.detour
  | [] => false

end Sys2Proof
end

