-- ==== Sys2Proof/Units/Field.lean ====
section
/-! DEFINITION. The state of one field's shared blocks that no register shows whole: station, Vat, cellar, home
directory and fetch engine (chapters 8, 9, 16 and 17). -/

namespace Sys2Proof

/-! ### Station and router (chapter 8) -/

/-- A reduction slot in use (R192): its chunk, the packets combined so far, their combination, the nodes they came
    from (none for the tile's own contribution), and the tree's job domain. -/
structure RedSlot where
  chunk : Nat
  got   : Nat
  body  : RedBody
  kids  : List (Option Node)
  job   : JobNo
  deriving DecidableEq, Repr

/-- A tracker of a multicast write at its source station (R188): the packet's head, the group and one status for each
    member, none while its completion has not come. -/
structure Tracker where
  head   : Head
  group  : Nat
  status : List (Option NStatus)
  deriving DecidableEq, Repr

/-- A spare switch in progress (R173): the bundle, the lane replaced, and whether JET_SPARECMD or ISO_GSPARECMD
    started it. -/
structure Switch where
  link   : Nat
  dir    : Bool
  bundle : Nat
  lane   : Nat
  cmd    : Bool
  deriving DecidableEq, Repr

/-! ### Vat (R207–R213) -/

/-- What an access asks of a line: a read, a write, a compare-and-count, or a touch of the fetch engine under a
    generation with the calendar entry and line it belongs to. -/
inductive VatOp where
  | read (len : Nat)
  | write (data : List Byte)
  | cac (op imm : Nat) (by_ : Requester)
  | touch (gen : BitVec 8)
  deriving DecidableEq, Repr

/-- A part of an access that lies in one line: the number of its job, its place in the access, its Cave address, its
    operation and the job domain it is checked for. -/
structure VatAccess where
  id   : Nat
  ofs  : Nat
  addr : Nat
  op   : VatOp
  job  : JobNo
  deriving DecidableEq, Repr

/-- An access a Vat has accepted and not answered: its packet, the parts still to come, the data of the others, the
    first status that was not DONE, whether a part met error fill, and the result of a CAC. -/
structure VatJob where
  head  : Head
  body  : Body
  left  : Nat
  parts : List (Nat × List Byte)
  st    : NStatus
  fill  : Bool
  cst   : Nat
  cmpv  : Word
  deriving DecidableEq, Repr

/-- A line held by a Vat (R208): its number, state, dirty sectors, bytes and the words in error (1 correctable,
    2 not), by word of the line; and the page's entry. -/
structure VatLine where
  line  : Nat
  st    : LineSt
  dirty : BitVec 8
  bytes : List Byte
  errs  : Table Nat
  pte   : Word
  deriving DecidableEq, Repr

/-- What a miss entry waits for: its line; M of a line in S; its page's entry; a write-back buffer for the victim of its fill, or
    for its own line, which an access has to fetch again. -/
inductive MissWait where
  | data
  | upgrade
  | xlat
  | victim (b : CohBody)
  | room
  deriving DecidableEq, Repr

/-- A miss entry (R210): its line, the accesses joined to it, the forward slot, what
    it waits for and the entry of its page. -/
structure Miss where
  line : Nat
  accs : List VatAccess
  fwd  : Option (CohRsp × CohBody)
  wait : MissWait
  pte  : Word
  deriving DecidableEq, Repr

/-- A flush in progress (R213): one page or all, and the next set. -/
structure Flush where
  page : Option Nat
  set  : Nat
  deriving DecidableEq, Repr

/-- A Vat. `lines` is keyed by 16·set + way; `jobs` the accesses not yet answered; `plru` holds a set's 15 tree bits; `wb` the write-back buffers;
    `tcache` the translation cache, by set, oldest first; `asked` the pages whose XLAT is outstanding and `held` the
    accesses that wait for a translation; `unc` the uncached accesses outstanding, by tag; `ce` the words corrected (R212). -/
structure Vat where
  lines  : Table (Option VatLine) := []
  jobs   : List (Nat × VatJob) := []
  plru   : Table Nat := []
  miss   : List Miss := []
  pend   : List VatAccess := []
  wb     : List VatLine := []
  tcache : Table (List (Nat × Word)) := []
  asked  : List Nat := []
  held   : List VatAccess := []
  unc    : List (Nat × VatAccess) := []
  tag    : Nat := 0
  flush  : Option Flush := none
  ce     : Nat := 0
  deriving DecidableEq, Repr

/-! ### Home directory (R215–R219) -/

/-- A directory entry: shared by the Vats of a mask, or owned by one. -/
inductive DirSt where
  | shared (vats : BitVec 48)
  | owned (vat : Nat)
  deriving DecidableEq, Repr

structure DirEntry where
  line : Nat
  st   : DirSt
  pte  : Word
  deriving DecidableEq, Repr

/-- What a request asks of a home: a coherence request, or an uncached access. -/
inductive HomeReq where
  | coh (k : CohReq) (b : CohBody)
  | read (addr len : Nat)
  | write (addr : Nat) (data : List Byte)
  | cac (addr op imm : Nat) (by_ : Requester)
  | recall
  deriving DecidableEq, Repr

/-- What a transaction waits for: InvAcks of these Vats; a FwdAck of this Vat; its memory read; its write to memory, after which
    the home answers with a body. -/
inductive TxnWait where
  | acks (vats : List Nat)
  | fwd (vat : Nat) (ex : Bool)
  | mem
  | stored (b : Body)
  deriving DecidableEq, Repr

/-- A transaction slot of a home in use. -/
structure HomeTxn where
  line : Nat
  head : Head
  req  : HomeReq
  pte  : Word
  wait : TxnWait
  deriving DecidableEq, Repr

/-- A home: its directory by set, least recently used entry first; its slots; the requests that wait, in order of
    arrival; and the pages under PREC. -/
structure Home where
  dir     : Table (List DirEntry) := []
  slots   : List HomeTxn := []
  queue   : List (Head × Nat × HomeReq) := []
  recalls : List (Nat × Head × Bool) := []
  deriving DecidableEq, Repr

/-! ### Cellar controller (R198–R200) -/

/-- A direct access not yet answered: its number, its packet's head, whether it is a read of so many bytes, the parts still
    to come and those that have come, and whether one met error fill (R26, R27). -/
structure Direct where
  id    : Nat
  head  : Head
  read  : Option Nat
  left  : Nat
  parts : List (Nat × List Byte)
  fill  : Bool
  deriving DecidableEq, Repr

/-- What a cellar access is for: the memory read or write of a home's transaction on a line; a part of a direct access; the read of
    a page's entry, or its write by a CAVE_PTCMD; line i of a page's move, read or written; no more than its write. -/
inductive CelUse where
  | txn (line : Nat)
  | direct (id ofs : Nat)
  | pte (page : Nat)
  | ptw (page : Nat)
  | copy (i : Nat)
  | copied (i : Nat)
  | posted
  deriving DecidableEq, Repr

/-- An access of one line that waits for its cellar's port: its requester (Table 9-1), where it starts in the cellar, its
    bytes or how many it reads, and the sectors of the line that a write is to change. -/
structure CelOp where
  who   : Nat
  off   : Nat
  len   : Nat
  write : Option (List Byte)
  mask  : BitVec 8 := 255
  use   : CelUse
  deriving DecidableEq, Repr

/-- A cellar's controller: the accesses that wait, in the order it has accepted them; the direct accesses not yet answered and the
    number of the next; the sectors of its fault list (R200); and the line the last read moved. -/
structure Cellar where
  ops    : List CelOp := []
  direct : List Direct := []
  nextId : Nat := 0
  faults : List Nat := []
  out    : List Byte := []
  deriving DecidableEq, Repr

/-! ### Fetch engine (R225–R227) -/

/-- A touch outstanding: its generation and its line. -/
structure Touch where
  gen  : BitVec 8
  line : Nat
  deriving DecidableEq, Repr

/-- The fetch engine of a field: running, the generation, the entry and the line of it to issue next, the entries
    issued and not consumed, the touches outstanding, those the Vat has completed, and whether
    no touch of the generation has been issued yet. -/
structure Fetch where
  running : Bool := false
  gen     : BitVec 8 := 0
  cursor  : Nat := 0
  next    : Nat := 0
  open_   : List Nat := []
  touches : List Touch := []
  done    : List Touch := []
  fresh   : Bool := true
  deriving DecidableEq, Repr

/-! ### The field -/

/-- Stages of a live remap (R403). -/
inductive RemapStage where
  | copy | catchup | cutover
  deriving DecidableEq, Repr

/-- A live remap in progress (R402, R403): the logical tile, the sites, the stage, the catch-up passes made and the
    contexts that were pressed for it. -/
structure Remap where
  tile  : Nat
  old   : SiteNo
  new   : SiteNo
  stage : RemapStage
  pass  : Nat
  deriving DecidableEq, Repr

/-- One scrubber (R396): the line that waits to be written back corrected, with the words found in error. -/
structure Scrubber where
  fix : Option (Nat × List Nat) := none
  deriving DecidableEq, Repr

/-- The shared blocks of a field. `redCred` holds the station's credits towards a tree's parent and `rootOut` the
    results on their way to a sink; `free` the cellar's free ring, oldest first; `lanes` the parity counts of the owned lanes by
    ((27·d + l)·195 + bundle)·17 + lane (R415); `notices` the epoch notices held while the field is in
    TEST (R378). -/
structure FieldSt where
  slots    : Table (Option RedSlot) := []
  redCred  : Table Nat := []
  rootOut  : List (Nat × JobNo × RedBody) := []
  trackers : List Tracker := []
  switches : List Switch := []
  vat      : Vat := {}
  home     : Home := {}
  cellar   : Cellar := {}
  free     : List Nat := []
  fetch    : Fetch := {}
  remap    : Option Remap := none
  celScrub : Scrubber := {}
  vatScrub : Scrubber := {}
  lanes    : Table Nat := []
  notices  : List (Nat × BitVec 16) := []
  deriving DecidableEq, Repr

end Sys2Proof
end

