-- ==== Sys2Proof/Units/Fabric.lean ====
section
/-! DEFINITION. The Isobar fabric (chapter 14): fabric packets, half-ports, engines and module-tree slots. -/

namespace Sys2Proof

/-- A fabric flit (R313): the wafer header in bits [127:0], the fabric extension in [255:128], the payload in [1279:256]. -/
abbrev FabFlit := BitVec 1280

/-- A codeword as a half-port receives it (R305): the 514 message symbols that were sent, the first in the low bits, and the
    places of its 544 symbols that arrived wrong. -/
structure Codeword where
  msg : BitVec 5140
  bad : List (Fin 544)
  deriving DecidableEq, Repr

/-- A packet on the fabric (R313, Table 14-2): its head and body, ADDR as it is carried, HOP, VAL and IGRP, MCNT and DOWN. -/
structure FabPkt where
  head : Head
  body : Body
  addr : Nat
  hop  : Nat := 0
  val  : Bool := false
  igrp : Nat := 0
  mcnt : Nat := 0
  down : Bool := false
  deriving DecidableEq, Repr

/-- Where a packet at an engine came from: the module itself, or a half-port. -/
inductive FabFrom where
  | here
  | port (hp : Nat)
  deriving DecidableEq, Repr

/-- What an engine has settled for a packet: nothing yet, the half-port it leaves by, or that it is discarded. -/
inductive FabTo where
  | open_
  | port (h : Fin 96)
  | discard
  deriving DecidableEq, Repr

/-- A packet that an engine holds: where it came from, the fabric channel whose buffer it is in, its head flit as the
    engine has rewritten it, its flits, how many have arrived, those that lie in the buffer, what is settled for it, and the
    flits that the delivering engine has collected. -/
structure FabIn where
  from_ : FabFrom
  ch    : Nat
  head  : FabFlit
  n     : Nat
  got   : Nat
  flits : List FabFlit
  out   : FabTo := .open_
  kept  : List FabFlit := []
  deriving DecidableEq, Repr

/-- The fields of a frame's control slot (Table 14-1). -/
structure CtlSlot where
  fseq   : BitVec 16
  valid  : BitVec 36
  ackv   : Bool
  nak    : Bool
  ackseq : BitVec 16
  tsv    : Bool
  modv   : Bool
  cred   : List (BitVec 8)
  txmap  : BitVec 16
  rxbad  : BitVec 16
  rcl    : Option (Fin 16)
  role   : BitVec 2
  ttx    : Word
  techo  : Word
  trxe   : Word
  serial : Word
  modid  : BitVec 16
  hp     : BitVec 7
  deriving DecidableEq, Repr

/-- What no register of a half-port shows: the sequence number of the next flit sent, the flits sent and not
    acknowledged, the flits held of each channel in the peer's buffer and its last CRED counts; the next sequence number
    expected, the flits of its own buffer freed in each channel; whether a resend is due, after which number, and how
    often the same flit has been resent; whether a NAK is to be sent; the control slots failed in a row, and those received
    intact in training; the receive
    lanes failed; the lanes that wait for recalibration, and the one under it with its units done and repeats; the symbols of
    the frame being received, as bits and how many, with those lost, and the stripe set that its sender announced for it;
    the input from which each channel's next round begins; the symbol errors of the last 2^20 ns, each a lane and its tick, and the
    tick of each lane's last recalibration (R328); TTX of the last intact frame and its arrival; how many flits at the end of the
    replay buffer no frame has carried since they came or were to be sent again; the lanes that the peer's last control slot
    allows, and the stripe set that the last frame sent announced; and that frame, slot by slot (R306–R308). -/
structure HpSt where
  txSeq  : BitVec 16 := 0
  replay : List (BitVec 16 × FabFlit) := []
  used   : List Nat := List.replicate 20 0
  cred   : List (BitVec 8) := List.replicate 20 0
  rxSeq  : BitVec 16 := 0
  freed  : List Nat := List.replicate 20 0
  resend : Option (BitVec 16) := none
  again  : Nat := 0
  nak    : Bool := false
  failed : Nat := 0
  intact : Nat := 0
  rxBad  : BitVec 16 := 0
  recalQ : List (Fin 16) := []
  recal  : Option (Fin 16 × Nat × Nat) := none
  rxBits : Nat := 0
  rxLost : Nat := 0
  rxLen  : Nat := 0
  rxMap  : BitVec 16 := 0xFFFF
  rounds : Table Nat := []
  errs   : List (Nat × Nat) := []
  calAt  : Table Nat := []
  echo   : Option (Word × Word) := none
  toSend : Nat := 0
  allow  : BitVec 16 := 0xFFFF
  told   : BitVec 16 := 0xFFFF
  sent   : List FabFlit := []
  deriving DecidableEq, Repr

/-- What a slot of a cross-module tree holds: packets being combined, a sum sent to the parent, or a result. -/
inductive XStage where
  | gather | sent | result
  deriving DecidableEq, Repr

/-- A slot of a cross-module tree (R322): its chunk, the packets combined, their sum and MCNT, and its stage. -/
structure XSlot where
  chunk : Nat
  got   : Nat
  body  : RedBody
  mcnt  : Nat
  job   : JobNo
  stage : XStage
  deriving DecidableEq, Repr

/-- What an engine has last been told of a half-port (R330): whether it is UP and the flits held in each channel. -/
structure HpView where
  up   : Bool := false
  used : List Nat := List.replicate 20 0
  deriving DecidableEq, Repr

/-- An optical engine: the packets it holds, its rotating counter of groups, its module-tree slots by 16·entry + slot,
    its view of every half-port, the switches of gust-link lanes in progress, and the bundles of gust links whose spare is
    in use (link, direction, bundle). -/
structure EngSt where
  inbox    : List FabIn := []
  rotor    : Nat := 1023
  xslots   : Table (Option XSlot) := []
  view     : Table HpView := []
  switches : List Switch := []
  spared   : List (Nat × Bool × Nat) := []
  deriving DecidableEq, Repr

/-- Fabric time (R332): the sum of 2θ over the interval, how many, the nanoseconds still to be slewed, and the counts
    since the last nanosecond slewed. -/
structure TimeSt where
  sum   : Int := 0
  count : Nat := 0
  slew  : Int := 0
  phase : Nat := 0
  deriving DecidableEq, Repr

/-- A packet at an engine: the n-th in flight on the wafer network, or the n-th that the engine holds. -/
inductive FabSrc where
  | spine (n : Nat)
  | inbox (n : Nat)
  deriving DecidableEq, Repr

end Sys2Proof
end

