-- ==== Sys2Proof/Units/Rind.lean ====
section
/-! DEFINITION. The state of the Rind, the edge and the optical engines that no register shows whole (chapters 9 and
14 to 18). -/

namespace Sys2Proof

/-! ### The host agent and the translation agent (chapter 9) -/

/-- What a PCIe operation is for: a memory read of a host home's line, the write of an uncached access on one, and the write-back of
    sectors of one; the answer of a host direct access, by its number and the part's place in it; the read of a page's entry, or its
    write by a CAVE_PTCMD; line i of a page's move, read or written; no more than its write; and, for a descriptor of queue q, its
    fetch, a line of an H2D copy, a line of a D2H copy and the zero-length read that ends one. -/
inductive HostUse where
  | line (line : Nat)
  | store (line : Nat)
  | wb (line : Nat)
  | direct (id ofs : Nat)
  | pte (page : Nat)
  | ptw (page : Nat)
  | copy (i : Nat)
  | copied (i : Nat)
  | posted
  | desc (q id : Nat)
  | h2d (q id : Nat)
  | d2h (q id : Nat)
  | zero (q id : Nat)
  deriving DecidableEq, Repr

/-- A PCIe operation of the host agent: a read of len bytes or a write. -/
structure HostOp where
  iova  : Nat
  len   : Nat
  write : Option (List Byte)
  use   : HostUse
  job   : JobNo
  deriving DecidableEq, Repr

/-- What is done to a page: a move to a new entry, a CAVE_PTCMD write of one, or a CAVE_PTCMD read. -/
inductive MoveKind where
  | move (auto : Bool)
  | ptWrite
  | ptRead
  deriving DecidableEq, Repr

/-- The step of Table 9-9 that a move is at: its entry being read; TINVAcks awaited; PRECAck awaited; copying, with the lines read so far,
    those not written yet and the lines written; the new entry of a CAVE_PTCMD write being stored; its last TINVAcks; done. -/
inductive MoveStep where
  | ask
  | tinv (left : List Nat)
  | prec
  | copy (next : Nat) (out : List Nat) (written : Nat)
  | store
  | last (left : List Nat)
  | done
  deriving DecidableEq, Repr

/-- A move or a page-table command in progress: its page, its command (in the layout of MIG_CMD), the entry
    before and after, its step, and how many XLATs of the page had arrived before it (R205). -/
structure Move where
  page : Nat
  kind : MoveKind
  cmd  : Word
  old  : Word
  new  : Word
  step : MoveStep
  ahead : Nat := 0
  deriving DecidableEq, Repr

/-- A queued move, in the layout of MIG_CMD. -/
structure MoveReq where
  word : Word
  auto : Bool
  deriving DecidableEq, Repr

/-- The host agent. `calls` holds the host's Cave accesses not yet answered, each with whether it waits for its page's entry, and
    `direct` the host direct accesses not yet answered; `xlat` holds the XLATs not yet answered, in order of arrival; `ops` the operations that wait for
    the host-DMA arbiter and `reads` the reads outstanding, by tag with the port each went out on; `last` the page of
    the last move; `ptes` the pages whose entry is being read, and `asks` the MIG_CMD writes and promotions that wait for one. -/
structure Agent where
  home    : Home := {}
  tcache  : Table (List (Nat × Word)) := []
  xlat    : List (Head × Nat) := []
  calls   : List (Bool × Head × Body) := []
  direct  : List Direct := []
  nextId  : Nat := 0
  ops     : List HostOp := []
  reads   : List (Nat × Nat × HostOp) := []
  move    : Option Move := none
  last    : Nat := 0
  moves   : List MoveReq := []
  ptcmd   : Option Move := none
  ptes    : List Nat := []
  asks    : List MoveReq := []
  deriving DecidableEq, Repr

end Sys2Proof
end

