-- ==== Sys2Proof/Units/Host.lean ====
section
/-! DEFINITION. The state of the Rind and the edge that no register shows whole: host functions, queues, loads, resets, firmware,
power, debug, the sideband and the control connector (chapters 15 to 19). -/

namespace Sys2Proof

/-- A PCIe function (Table 15-1): 0 the PF, 1 to 4 the VFs, 5 the companion function. -/
abbrev Func := Fin 6

/-- A store with a scrubber (R396). -/
inductive ScrubUnit where
  | tile (t : Tile)
  | vat (f : FieldNo)
  | cellar (f : FieldNo)
  deriving DecidableEq, Repr

/-- A queue of the Rind. -/
abbrev QueueNo := Fin 256

/-- What the module sends on a PCIe port: a read request or a write, with the function whose Requester ID it carries, an MSI-X
    message, or a completion of a request with a tag: successful with its bytes, Unsupported Request or Completer Abort. -/
inductive Tlp where
  | read (func tag iova len : Nat)
  | write (func iova : Nat) (data : List Byte)
  | msix (func vec : Nat) (addr data : Word)
  | cpl (func tag : Nat) (data : List Byte)
  | cplUr (func tag : Nat)
  | cplCa (func tag : Nat)
  deriving DecidableEq, Repr

/-- A copy in progress (R350): the bytes moved, the bytes of the line in flight, and whether a write of it used
    port 1 and whether it met error fill. -/
structure Copy where
  moved : Nat := 0
  line  : Nat := 0
  port1 : Bool := false
  fill  : Bool := false
  deriving DecidableEq, Repr

/-- Where a fetched descriptor stands: its fetch outstanding; waiting to start; a copy; the zero-length read that
    ends a copy, with its status and the bytes moved; a load, a firmware write or a reset in progress; or done, with STATUS, RESULT and DETAIL. -/
inductive DescSt where
  | fetch
  | wait
  | copy (c : Copy)
  | flush (status moved : Nat)
  | load
  | fwload
  | reset
  | done (status : Nat) (result detail : Word)
  deriving DecidableEq, Repr

/-- A descriptor fetched and incomplete: its number, its eight words, SQHEAD after its fetch, and where it stands (R348). -/
structure Desc where
  id    : Nat
  words : List Word
  head  : Nat
  st    : DescSt
  deriving DecidableEq, Repr

/-- A queue beside its registers: the last SQTAIL, the descriptors fetched and incomplete in order, the CQ entries written since its
    last message and the tick at which the oldest was written, and whether a message is due at once (R348, R354). -/
structure QueueSt where
  tail   : Nat := 0
  descs  : List Desc := []
  since  : Nat := 0
  oldest : Nat := 0
  now    : Bool := false
  deriving DecidableEq, Repr

/-- What a request of the Rind on the wafer network is for: a part of a host access, or a line of a copy of a queue. -/
inductive RindUse where
  | bar (id ofs : Nat)
  | copy (q id : Nat)
  deriving DecidableEq, Repr

/-- A host read through a data window that waits for its parts: its number, its function and tag, its length, the parts still to
    come, those that have come, and whether one met address-error status (R343). -/
structure BarJob where
  id    : Nat
  func  : Nat
  tag   : Nat
  len   : Nat
  left  : Nat
  parts : List (Nat × List Byte)
  bad   : Bool
  deriving DecidableEq, Repr

/-- A record of an image, decoded (R358): its section and byte offset, and the control address or, in a SCRATCH record, the
    scratchpad offset it writes from, with its data. -/
structure ImgRec where
  sect : Nat
  pos  : Nat
  type : Nat
  field : Nat
  unit : Nat
  spine : Bool
  block : Nat
  ofs  : Nat
  data : List Byte
  deriving DecidableEq, Repr

/-- The LOAD in progress after its pass 1 (R362): its queue, the digest, what it claims: its records and the contexts it writes,
    each by 4·(tile key) + context; IMAGEID; and the digest of pass 2 once its sections have been applied. -/
structure LoadSt where
  q      : Nat
  digest : List Byte
  recs   : List ImgRec
  ctxs   : List Nat
  id     : Word
  again  : Option (List Byte) := none
  deriving DecidableEq, Repr

/-- A reset requested and not yet complete (R365, R366): its word in the layout of RIND_RESET, whether it has been
    performed, and the queue whose RESET descriptor asked for it. -/
structure ResetReq where
  word : Word
  did  : Bool := false
  q    : Option Nat := none
  deriving DecidableEq, Repr

/-- The firmware (R368, R369): RIND_FWSTAT and the slots' security versions, plus 1, once they differ from the flash as shipped,
    the slot that a cold reset starts, whether the core restarts and the trial firmware has reported ready, and the tick at which it last
    did either. -/
structure FwSt where
  stat    : Option Word := none
  svn     : Table Nat := []
  back    : Bool := false
  restart : Bool := false
  ready   : Bool := false
  since   : Nat := 0
  deriving DecidableEq, Repr

/-- Power (chapter 16). `held` the domains whose THAW has HOLD; `queue` the queued THAWs; `rampAt` the tick at which the last ramp began; `samples` the
    last 100 samples (mV, 0.1 A, W), newest first; `capAge` the samples since L last changed; `therm` the thermal levels by field, `warm` the fields above TWARN and
    `cool` the readings below the lower edge since the last step; `clock` the settings at which fields run, and
    `stopped` those whose clock is stopped; `training` the engines whose gust links calibrate; `frozen` whether PD49 was
    frozen by command (R386). -/
structure PowerSt where
  held    : List Nat := []
  queue   : List Nat := []
  rampAt  : Option Nat := none
  samples : List (Nat × Nat × Nat) := []
  capAge  : Nat := 100
  therm   : Table Nat := []
  warm    : List Nat := []
  cool    : Table Nat := []
  clock   : Table Nat := []
  stopped : List Nat := []
  training : List Nat := []
  frozen  : Bool := false
  deriving DecidableEq, Repr

/-- Pins and ports (R372, R430–R435): main power in range, power-good, the alert of an input loss, RESET# held low, the
    straps as sampled, and each port's link. -/
structure PinSt where
  standby : Bool := true
  main    : Bool := false
  pwrgd   : Bool := false
  alert   : Bool := false
  reset   : Bool := false
  straps  : BitVec 3 := 7
  link0   : Bool := false
  link1   : Bool := false
  deriving DecidableEq, Repr

/-- The configuration space that a rule names (R337, R345, R354, R366): VF Enable, the functions in D3hot, and the
    MSI-X tables, a word of 4 bytes by 4·(1,024·function + vector) + word with the mask bit inverted, and the pending bits by
    1,024·function + vector.
    DESIGN CHOICE: notes/assumptions/117. -/
structure PcieSt where
  vfEnable : Bool := false
  d3hot    : List Nat := []
  msix     : Table (BitVec 32) := []
  pba      : List Nat := []
  deriving DecidableEq, Repr

/-- The debug unlock (R422): the number of the nonce shown, DBG_RESP, the verification in progress (whether
    it will succeed, and the level asked), and the lockout. -/
structure UnlockSt where
  nonce  : Nat := 0
  resp   : Table Word := []
  verify : Option (Bool × Nat) := none
  locked : Bool := false
  lockedAt : Nat := 0
  deriving DecidableEq, Repr

/-- An answer on the sideband (R419, R420). -/
inductive SideAns where
  | eid (e : Byte)
  | uuid (b : List Byte)
  | version (w : Word)
  | types (l : List Nat)
  | commands (l : List Nat)
  | tid (t : Byte)
  | pdr (id : Nat) (kind next : Nat)
  | reading (v : Nat)
  | states (l : List Nat)
  | done
  | unsupported
  | event (sensor value : Nat)
  deriving DecidableEq, Repr

/-- The sideband (R419, R420): its endpoint ID, the event receiver, the answers it has sent, newest last, and the sensor events
    not yet acknowledged with the times each has been sent. -/
structure SideSt where
  eid      : Byte := 0
  receiver : Option Byte := none
  sent     : List SideAns := []
  events   : List (Nat × Nat × Nat) := []
  deriving DecidableEq, Repr

/-- The test port (R421): its instruction, the result of the last DBGACC access, and the boundary register's preloaded
    and driven values. -/
structure JtagSt where
  ir     : Byte := 1
  dr     : BitVec 112 := 0
  latch  : List Bool := []
  driven : Bool := false
  deriving DecidableEq, Repr

/-- The Rind and the edge. `ticks` counts nanoseconds since power-on; `tlps` what the module has sent on each
    port, oldest first; `txns` its requests on the network by tag; `bars` the host reads not yet answered; `nextId` the number of the next of
    these and of the next descriptor; `load`, `resets` and `fw` as above; `press` the press
    of a job domain in progress: the contexts (4·key + context) still pressing and whether one failed; `armed` the TEL_ blocks
    armed for a snapshot; `answer` the value the last register read returned;
    `peaks` the sensors whose PEAK holds a reading since it was last read (R416). -/
structure RindSt where
  ticks   : Nat := 0
  tlps    : List (Nat × Tlp) := []
  txns    : Table (Option RindUse) := []
  bars    : List BarJob := []
  nextId  : Nat := 0
  queues  : Table QueueSt := []
  load    : Option LoadSt := none
  resets  : List ResetReq := []
  revoked : List Nat := []
  fw      : FwSt := {}
  power   : PowerSt := {}
  pins    : PinSt := {}
  pcie    : PcieSt := {}
  unlock  : UnlockSt := {}
  side    : SideSt := {}
  jtag    : JtagSt := {}
  press   : Option (List Nat × Bool) := none
  armed   : List Nat := []
  answer  : Word := 0
  peaks   : List Nat := []
  deriving DecidableEq, Repr

end Sys2Proof
end

