-- ==== Sys2Proof/Units/Sparse.lean ====
section
/-! DEFINITION. The sparse engine's command in progress (chapter 12). -/

namespace Sys2Proof

/-- What a piece of source data is: mantissas or exponent bytes of blocks of a format, or words. -/
inductive PieceKind where
  | mant (f : Fmt)
  | scale (f : Fmt)
  | raw
  deriving DecidableEq, Repr

/-- Where a row of source data goes: its mantissas (or words) and its exponent bytes, each an offset of the tile's
    scratchpad, or for SELECT a place in the source. -/
structure RowPlace where
  data  : Nat
  scale : Nat := 0
  deriving DecidableEq, Repr

/-- A piece of source data to be read, within one line: its address, length and kind, and where its bytes go: so far
    into their part of a row's place. -/
structure Piece where
  addr : Nat
  len  : Nat
  kind : PieceKind
  dst  : RowPlace
  ofs  : Nat
  deriving DecidableEq, Repr

/-- A sparse command in progress: its context, record and place in the ring; whether its pieces are known, those still
    to be read and those outstanding, by number; the data to be written and the error fill
    that takes the place of some of it; the counts and marks of its result word;
    the bucket in hand and whether its free word was missed; and whether it may complete. -/
structure SpxCmd where
  ctx     : Fin 4
  words   : List Word
  rec_    : Nat
  planned : Bool := false
  pieces  : List Piece := []
  waiting : List (Nat × Piece) := []
  out     : List (Nat × List Byte) := []
  lost    : List (Nat × List Byte) := []
  oor     : Nat := 0
  dsc     : Nat := 0
  dup     : Nat := 0
  nout    : Nat := 0
  pz      : Bool := false
  full    : Bool := false
  addrErr : Bool := false
  cmdErr  : Bool := false
  overlap : Bool := false
  told    : Bool := false
  bucket  : Nat := 0
  owned   : Bool := false
  missed  : Bool := false
  ready   : Bool := false
  deriving DecidableEq, Repr

/-- The sparse engine: its command, the context it last served and the next number of a piece.
    DESIGN CHOICE: notes/assumptions/6. -/
structure SpxSt where
  cmd  : Option SpxCmd := none
  last : Fin 4 := 3
  next : Nat := 0
  deriving DecidableEq, Repr

end Sys2Proof
end

