-- ==== Sys2Proof/Units/Update.lean ====
section
/-! DEFINITION. The update unit's work in progress (chapter 11). -/

namespace Sys2Proof

/-- A leaf's round in progress: its anchor, the chunks it has injected, the sum of squares and whether a contribution
    was poison (R257). -/
structure SrcSt where
  anchor : Int := 0
  pos    : Nat := 0
  sumsq  : Nat := 0
  poison : Bool := false
  deriving DecidableEq, Repr

/-- A matrix in BS16: rows of blocks, each its exponent byte and 32 mantissas. -/
abbrev QMat := List (List (Nat × List Int))

/-- What a sink does after its step's reduced gradient: its blocks one by one; the factors of family 2 one by one; the
    masters of families 1 and 2 one by one; the wait for the anchor write. -/
inductive SinkPhase where
  | blocks | factors | apply | anchor
  deriving DecidableEq, Repr

/-- A sink's step in progress: the round and the chunks of it taken; the narrowed lanes, and those of the statistics
    chunk; the bias corrections; the phase and its next block, with the parts of that block read; the master blocks
    after the update; the blocks kept for the matrix work and its result with the factors to write back; the anchor of the next
    step, and the tag of the anchor word's write. `fresh` until the first settle of a valid entry. -/
structure SinkSt where
  round  : Nat := 0
  pos    : Nat := 0
  lanes  : List RedLane := []
  stats  : List RedLane := []
  c1     : Num := .fin 0 0
  c2     : Num := .fin 0 0
  phase  : SinkPhase := .blocks
  block  : Nat := 0
  asked  : Bool := false
  got    : List (Nat × Option (List Byte)) := []
  master : List (Nat × List Int) := []
  held   : List (Nat × List Int) := []
  held2  : List (Nat × List Int) := []
  result : Option (List (List Num)) := none
  next   : Int := 0
  tag    : Option Nat := none
  fresh  : Bool := true
  deriving DecidableEq, Repr

end Sys2Proof
end

