-- ==== Sys2Proof/Units/Tile.lean ====
section
/-! DEFINITION. The state of one tile that no register shows whole: contexts, queues, engines and their work in
progress (chapters 3 to 7). -/

namespace Sys2Proof

/-- An entry of a stream queue: data bytes with a row predicate, or a control token (R159, R160). A unit tells
    entries apart by size alone. -/
inductive Entry where
  | data (bytes : List Byte) (pred : Bool)
  | token (ty : Byte)
  deriving DecidableEq, Repr

/-- A reserved place of a stream queue (R160): the units it holds, the parts still to come, the entry's size, the
    parts that have come by byte offset, and whether one of them was error fill. A place reserved by MRX learns its
    size with its first part. -/
structure Reserved where
  id        : Nat
  units     : Nat
  missing   : Nat
  size      : Nat
  parts     : List (Nat × List Byte)
  fill      : FillKind
  bad       : Bool
  pred      : Bool
  multicast : Option (Nat × Nat)
  deriving DecidableEq, Repr

/-- A place in a stream queue: an entry, or a reservation that becomes one when its last part has come. -/
inductive Place where
  | ready (e : Entry)
  | reserved (r : Reserved)
  deriving DecidableEq, Repr

/-- A stream program in progress: its number, next instruction, parameter and registers, the tag of the CAC whose
    response it awaits, and whether it is asleep under WAITN, and the reservations an MRX has made (R157, R158, R162). -/
structure StreamRun where
  prog    : Nat
  ip      : Nat
  par     : Nat
  ix      : List Nat := [0, 0, 0, 0]
  cn      : List Nat := [0, 0, 0, 0]
  plim    : Nat := 0xFFFFFF
  cmpv    : Word := 0
  cacTag  : Option Nat := none
  sleep   : Bool := false
  mrxDone : Nat := 0
  deriving DecidableEq, Repr

/-- One engine's state for one context (R157, R160, R161): its queue and the tokens that wait to be placed in it, the
    programs in progress and queued, the generation tag, the last CAC status, the discarded responses, the next
    place's number, the held scale line with its bytes (R159), the module register of SETM, the engine that the last MRX
    returns its credits to (tile key, engine, context and units), and by group the multicast entries issued and the places
    reserved for them in this generation (R162). `kept` holds the program registers as the last program left them or a
    scan wrote them (R401). -/
structure StreamCtx where
  queue     : List Place := []
  waiting   : List Byte := []
  run       : Option StreamRun := none
  queued    : Option (Nat × Nat) := none
  gen       : BitVec 8 := 0
  cst       : Nat := 0
  disc      : Nat := 0
  nextId    : Nat := 0
  scaleLine : Option (Nat × List Byte) := none
  dest      : Nat := 0
  mrx       : Option (Nat × Nat × Nat × Nat) := none
  issued    : Table Nat := []
  reserved  : Table Nat := []
  kept      : StreamRun := ⟨0, 0, 0, [0, 0, 0, 0], [0, 0, 0, 0], 0xFFFFFF, 0, none, false, 0⟩
  deriving DecidableEq, Repr

/-- The cycle that an engine is in: the context it serves, the control instructions it has executed, and whether it has executed
    an access instruction (R157). -/
structure EngCycle where
  ctx      : CtxNo := 3
  controls : Nat := 0
  access   : Bool := false
  deriving DecidableEq, Repr

/-- A multicast read outstanding at its issuing tile: engine, context, generation, group, entry number and the parts whose
    response has not been replicated (R161, R162). -/
structure McRead where
  eng   : Nat
  ctx   : Nat
  gen   : BitVec 8
  group : Nat
  num   : Nat
  parts : Nat
  deriving DecidableEq, Repr

/-- What an outstanding transaction of a tile is for: a part of a queue entry, a write, a CAC of a stream
    program, an access of the update unit (the read of a part of shard k's block, a write of its step, or an access of its
    settle), or an access of the sparse engine. -/
inductive TxnKind where
  | entry (eng ctx gen id ofs : Nat)
  | write (ctx : Nat)
  | cac (eng ctx : Nat)
  | upd (k part : Nat)
  | updWrite (k : Nat)
  | updWord (k : Nat)
  | spx (part : Nat)
  | stale
  deriving DecidableEq, Repr

/-- What a waiting context waits for: a WAIT condition (with the cycles left of a timed one) or a BRTOK test. -/
inductive Waiting where
  | no
  | cond (c left : Nat)
  | brtok (src : Nat) (ty : Byte) (target : Nat)
  deriving DecidableEq, Repr

/-- Context states (Table 12). -/
inductive CtxState where
  | empty | stopped | running | stopping | ended | fault
  deriving DecidableEq, Repr

/-- How a STOPPING context ends (R99). -/
inductive StopTo where
  | stopped | ended | fault
  deriving DecidableEq, Repr

/-- One context of a tile (R99). `held` counts the consecutive cycles it has held or idle-waited as the current context;
    `seen` names the stream-in queues its hold on whose head has been recorded (R98). -/
structure Ctx where
  state  : CtxState := .empty
  goal   : StopTo := .stopped
  pc     : BitVec 13 := 0
  wait   : Waiting := .no
  tokens : List Byte := []
  cause  : Nat := 0xF
  held   : Nat := 0
  yield  : Bool := false
  seen   : List Nat := []
  deriving DecidableEq, Repr

/-- A matrix descriptor as copied by a run, with the overrides applied (Table 3-2, R92). -/
structure RunDesc where
  ctx     : CtxNo
  fmt     : Fmt
  acc     : Bool
  bank    : Nat
  rowbase : Nat
  nrow    : Nat
  klen    : Nat
  cmsel   : Nat
  nprob   : Nat
  pstep   : Nat
  rpred   : Bool
  cpred   : Bool
  deriving DecidableEq, Repr

/-- The run in progress: its descriptor, problem and row, and whether the problem's swap has been made (R52). -/
structure Run where
  desc    : RunDesc
  prob    : Nat := 0
  row     : Nat := 0
  swapped : Bool := false
  deriving DecidableEq, Repr

/-- A weight buffer: the weight rows shifted in so far (each the bytes of its entry), the lane mask that came
    with the tile, and the check entries formed as rows arrive (R58, R68). -/
structure WeightBuf where
  rows  : List (List Byte) := []
  mask  : Option (List Byte) := none
  check : List Int := []
  deriving DecidableEq, Repr

/-- What befalls one presented row: the number of its presentations that mismatch by a fault, the block of the mismatch
    (R69, R70), the lanes of its element row whose stored bits an upset has changed (R72), and the rows behind it in the
    pipeline when a mismatch is found (R70). -/
structure RowFault where
  mism   : Nat
  block  : Fin 16
  upsets : List (Fin 256)
  behind : Fin 10 := 0
  deriving DecidableEq, Repr

/-- The matrix engine (chapter 3). `active` says which of the two buffers is active; `inject` is the block and the
    count of an injection in progress (R73); `hold` is the cycles left of the hold of a retry (R70); `replay` is the replay
    buffer: the last 10 rows presented, oldest first, each with its predicate, of which the last `redo` are discarded and wait
    to be presented again (R70, R71). -/
structure Matrix where
  run    : Option Run := none
  queued : Option RunDesc := none
  buf0   : WeightBuf := {}
  buf1   : WeightBuf := {}
  active : Bool := false
  halted : Bool := false
  inject : Nat × Nat := (0, 0)
  hold   : Nat := 0
  replay : List (List Byte × Bool) := []
  redo   : Nat := 0
  deriving DecidableEq, Repr

/-- A chain invocation: its context, configuration, first row and rows; and, once it starts, the copied configuration
    words, the loop counter, seed and step number of its dither and the mode of its special functions (R107, R127). -/
structure Invocation where
  ctx    : CtxNo
  cfg    : Fin 16
  row    : Nat
  nrows  : Nat
  words  : List Word := []
  lcIdx  : Nat := 0
  seed   : Word := 0
  step   : Nat := 0
  velhal : Bool := false
  deriving DecidableEq, Repr

/-- One evaluation that met a coefficient of bad parity (R141): stage 1–8, lane (0 for a row register) and the segment. -/
structure ParityErr where
  stage : Nat
  lane  : Fin 256
  seg   : Fin 192
  deriving DecidableEq, Repr

/-- The vector chain (chapter 5): the invocation in progress with the preload entries and rows it has read, the
    entries computed and not yet placed with the context each goes to, the queued invocation, and the stages of this
    invocation whose unsupported function has been reported (Table 6-8). -/
structure Chain where
  run     : Option Invocation := none
  loaded  : Nat := 0
  done    : Nat := 0
  out     : List (CtxNo × Entry) := []
  queued  : Option Invocation := none
  lastRow : Nat := 0
  unsup   : List Nat := []
  deriving DecidableEq, Repr

/-- A debug halt (R423, R424): why, the bundles left to a stepped context, whether its last has issued, and whether the
    next issue passes its breakpoint. -/
structure Debug where
  halted  : Bool := false
  cause   : Nat := 0
  stepCtx : Nat := 0
  left    : Nat := 0
  due     : Bool := false
  pass    : Bool := false
  deriving DecidableEq, Repr

/-- What an access does at a bank: it reads some bytes, writes some, or is a remote CAC, with its packet's head (R147). -/
inductive BankOp where
  | read (len : Nat)
  | write (data : List Byte)
  | cac (h : Head) (op : Fin 16) (imm : BitVec 32) (who : Requester)
  deriving DecidableEq, Repr

/-- The bytes that a bank operation reaches. -/
def BankOp.len : BankOp → Nat
  | .read n => n
  | .write d => d.length
  | .cac _ _ _ _ => 8

/-- An access that wants a scratchpad bank (R147): its requester in the order of R147 (0 LDLC, 1 network, 2
    stream-out, 3 stream-in A, 4 stream-in B, 5 scrub), the job domain its bounds are checked against (none for an
    access that no bounds check), its place in one line, what it does, and the bytes of the same access in the lines before and
    after it. -/
structure BankReq where
  who    : Fin 6
  job    : Option JobNo
  off    : BitVec 25
  op     : BankOp
  before : Nat := 0
  after  : Nat := 0
  deriving DecidableEq, Repr

/-- Matrix slot: RUN (Table 4-6). -/
structure RunSlot where
  desc   : Fin 8
  rofs   : Bool
  rofslc : Fin 8
  bankx  : Bool
  deriving DecidableEq, Repr

/-- Vector slot: CHAIN (Table 4-7). -/
structure ChainSlot where
  cfg    : Fin 16
  row    : BitVec 10
  nrows  : Nat
  rofs   : Bool
  rofslc : Fin 8
  deriving DecidableEq, Repr

/-- Where a TOK goes (Table 4-9). -/
inductive TokDest where
  | tile | group | own
  deriving DecidableEq, Repr

/-- Network slot: TOK (Table 4-9). -/
structure TokSlot where
  ty    : Byte
  dest  : TokDest
  ctx   : CtxNo
  dlc   : Fin 8
  dofs  : Bool
  num   : BitVec 12
  deriving DecidableEq, Repr

/-- A scheduled action that falls due in a cycle (R81), with what befalls it: a weight-buffer swap, a row, a queued
    run or invocation starting, a preload read, a chain row, an entry placed. -/
inductive Due where
  | swap
  | row (fault : RowFault)
  | runStart
  | invStart
  | preload
  | chainRow (upsets : List (Fin 256)) (errs : List ParityErr)
  | place
  deriving DecidableEq, Repr

/-- One tile. `ctxs` is keyed by context, `eng` by 4·engine + context; `current` is the current context and
    `switching` says that this is a switch cycle (R100, R101); `lend`
    is the holder, the lender and whether it is the chain that is lent (R102); `ownToks` holds the tokens sent to this tile in
    its last cycle, each with its context, type and sender's job domain (R95); `txns` holds the outstanding
    transactions by tag; `mcCredit` the multicast credits by ((4·engine + context)·4,096 + group)·16 + member and `mcReads` the multicast
    reads outstanding (R161, R162); `served` the cycle of each engine (R157);
    `owed` the fields (and 48 for the Rind) that have yet to apply the tile's last epoch notice (R153);
    `marks` the lines written while the tile is being moved, `moving` (R403);
    `redSlots` the router's reduction slots by 16·entry + slot (R192);
    `sinkIn` the tree results handed to the update unit, in order (R194); `srcs` and `sinks` its entries' work,
    `chunkNext` the next chunk number to inject on a tree and `sinkNext` the next one to take from it; `returned` the statistics that the update unit has returned (R251); `spx` the sparse engine;
    `gated` the site gate (R381); `bankOut` the data that the last bank access delivered. -/
structure TileSt where
  ctxs      : Table Ctx := []
  eng       : Table StreamCtx := []
  current   : Option CtxNo := none
  switching : Bool := false
  lend      : Option (CtxNo × CtxNo × Bool) := none
  ownToks   : List (CtxNo × Byte × Nat) := []
  mxe       : Matrix := {}
  chain     : Chain := {}
  dbg       : Debug := {}
  txns      : Table (Option TxnKind) := []
  nextTag   : Nat := 0
  mcCredit  : Table Nat := []
  mcReads   : List McRead := []
  served    : Table EngCycle := []
  owed      : List Nat := []
  gated     : Bool := true
  bankOut   : List Byte := []
  marks     : Table Bool := []
  moving    : Bool := false
  redSlots  : Table (Option RedSlot) := []
  sinkIn    : List (JobNo × RedBody) := []
  srcs      : Table SrcSt := []
  sinks     : Table SinkSt := []
  chunkNext : Table Nat := []
  sinkNext  : Table Nat := []
  returned  : List S96 := []
  spx       : SpxSt := {}
  scrub     : Scrubber := {}
  deriving DecidableEq, Repr

end Sys2Proof
end

