-- ==== Sys2Proof/Syntax.lean ====
section
/-! DEFINITION. The commands of the module: one constructor for each row of the opcode table, with the operands that
the sender or the environment gives it. -/

namespace Sys2Proof

inductive Instr where
  /-- REGISTER_WRITE (R4). A write to a register field that has no row of its own stores, clears or ignores the
  value by its access code, and a reserved code is refused with a configuration-error event. -/
  | registerWrite (ca : Ca) (v : Word)
  /-- REGISTER_READ_CLEAR (R5). A full-width read of a register with RC fields returns their values and then
  clears them, unless an event sets them in the same cycle. -/
  | registerReadClear (ca : Ca)
  /-- TILEMAP_WRITE (R17). A write to FLD_TILEMAP_t is applied, or is rejected if it names a used or bad site or
  the tile holds a loaded context. -/
  | tilemapWrite (ca : Ca) (v : Word)
  /-- SITEBAD_WRITE (R17). A write to FLD_SITEBAD is applied, or is rejected if it marks a site that is in use.
  -/
  | sitebadWrite (ca : Ca) (v : Word)
  /-- BROADCAST_WRITE (R23). A write with field code 0x3F is applied by every field that is REDUCED or FULL as
  it passes that field's station, and skipped by the others. -/
  | broadcastWrite (ca : Ca) (v : Word)
  /-- NOP (R87). A sequencer NOP does nothing. -/
  | nop (t : Tile)
  /-- SETLC (R87). SETLC loads an immediate into a loop counter, taking effect at the end of the cycle. -/
  | setlc (t : Tile) (n : Fin 8) (imm : BitVec 24)
  /-- DJNZ (R87). DJNZ decrements a loop counter and branches if the new value is not zero. -/
  | djnz (t : Tile) (n : Fin 8) (target : BitVec 13)
  /-- JMP (R87). JMP branches to an absolute bundle index. -/
  | jmp (t : Tile) (target : BitVec 13)
  /-- BRZ (R87). BRZ branches if a loop counter is zero, leaving it unchanged. -/
  | brz (t : Tile) (n : Fin 8) (target : BitVec 13)
  /-- ADDLC (R87). ADDLC adds an immediate to a loop counter modulo 2^24. -/
  | addlc (t : Tile) (n : Fin 8) (imm : BitVec 24)
  /-- LDLC (R88). LDLC loads a loop counter from a scratchpad word of the tile, leaving it unchanged and setting
  LDERR on a bounds or uncorrectable error. -/
  | ldlc (t : Tile) (n : Fin 8) (word : BitVec 22)
  /-- BRTOK (R89). BRTOK tests the head of a token or data queue, removing a matching token and branching,
  falling through on data or another type, or waiting while the queue is empty. -/
  | brtok (t : Tile) (src : Fin 3) (ty : Byte) (target : BitVec 13)
  /-- BRTOK_RETEST (R89). A BRTOK waiting on an empty queue decides its test in the cycle the queue is no longer
  empty. -/
  | brtokRetest (t : Tile)
  /-- WAIT (R90). WAIT stops bundle issue until its condition holds while the context keeps advancing. -/
  | wait (t : Tile) (cond : Fin 8) (n : BitVec 20)
  /-- WAIT_CONDITION_MET (R90). The next bundle after a WAIT issues in the first advancing cycle at whose start
  the condition holds, or N + 1 cycles after a timed WAIT. -/
  | waitConditionMet (t : Tile)
  /-- YIELD (R87). YIELD permits a context switch as if THRESH had been met. -/
  | yield (t : Tile)
  /-- NOTIFY (R87). NOTIFY posts a host event giving tile, context and CODE. -/
  | notify (t : Tile) (code : BitVec 16)
  /-- END (R99). END ends the context, which passes through STOPPING to ENDED, and posts a completion event. -/
  | endCtx (t : Tile) (code : BitVec 16)
  /-- BUNDLE_ISSUE (R82). In a cycle in which the current context can perform every scheduled action due, those
  actions take place and the next bundle issues, otherwise the context holds. -/
  | bundleIssue (t : Tile) (due : List Due) (since : Nat)
  /-- CONTEXT_CHOICE (R100). At the start of each cycle the sequencer chooses the current context from lender,
  priority, threshold and yield rules. -/
  | contextChoice (t : Tile) (adv : BitVec 4)
  /-- ISTORE_WRITE (R80). A window write to the instruction store is stored, or rejected if it lies in the
  region of a RUNNING or STOPPING context. -/
  | istoreWrite (ca : Ca) (v : Word)
  /-- CTXCFG_WRITE (R99). A write to TIL_CTXCFG_c is accepted only in EMPTY or STOPPED with BASE not above
  LIMIT, and not clearing INFONLY while a ring is valid. -/
  | ctxcfgWrite (ca : Ca) (v : Word)
  /-- LOOP_COUNTER_WRITE (R99). A write to SEQ_LC_c_n is accepted only while the context is STOPPED. -/
  | loopCounterWrite (ca : Ca) (v : Word)
  /-- START (R99). The START command sets PC to STARTPC, clears loop counters, token queue and context counters,
  latches the step number and makes the context RUNNING. -/
  | start (t : Tile) (c : CtxNo) (pc : BitVec 13)
  /-- STOP (R99). The STOP command moves a RUNNING context to STOPPING at once. -/
  | stop (t : Tile) (c : CtxNo)
  /-- RESUME (R99). The RESUME command makes a STOPPED context RUNNING from its PC. -/
  | resume (t : Tile) (c : CtxNo)
  /-- UNLOAD (R99). The UNLOAD command empties the context's queues, ends its stream programs, advances its
  generation tags, abandons its sparse command and makes it EMPTY. -/
  | unload (t : Tile) (c : CtxNo)
  /-- CONTEXT_STOP_COMPLETE (R99). A STOPPING context with no run, invocation or stream-out transfer left enters
  STOPPED, ENDED or FAULT. -/
  | contextStopComplete (t : Tile) (c : CtxNo)
  /-- COUNTER_WRITE (R106). A write to a context or telemetry counter takes effect at the end of the cycle after
  that cycle's count. -/
  | counterWrite (ca : Ca) (v : Word)
  /-- COUNTER_WRAP (R106). A counter passing from 2^48 − 1 to 0 sets WRAP and increments WRAPS. -/
  | counterWrap (ca : Ca) (n : Fin 43)
  /-- RUN (R92). A matrix-slot RUN copies a descriptor with its overrides and starts or queues the run, or holds
  with MXQ when both places are taken. -/
  | run (t : Tile) (k : RunSlot)
  /-- RUN_START (R443). A run starts in the advancing cycle after its issuing bundle, or a queued run starts
  after the last row of the run before it is presented. -/
  | runStart (t : Tile)
  /-- WEIGHT_LOAD (R58). A weight tile is shifted into the shadow buffer one array row per cycle from stream-in
  B, with its check column computed, until the shadow is full. -/
  | weightLoad (t : Tile)
  /-- WEIGHT_SWAP (R58). At its scheduled cycle the swap makes the shadow buffer active, waiting with cause INB
  if the shadow is not yet full. -/
  | weightSwap (t : Tile)
  /-- ROW_PASS (R62). An activation row is presented and its pass computes block products, aligns them and
  writes each unmasked lane's accumulator element through the pipeline. -/
  | rowPass (t : Tile) (fault : RowFault)
  /-- CLRHALT (R71). A write of CLRHALT restarts a halted engine, which re-presents the discarded rows and
  resumes issue 10 cycles later. -/
  | clrhalt (t : Tile)
  /-- CHECK_INJECT (R73). A write to MXE_CHKINJ while debug is unlocked corrupts the compare of a block for the
  next COUNT unmasked rows. -/
  | checkInject (t : Tile) (block count : Fin 16)
  /-- CHECK_INJECT_CANCEL (R73). A write to MXE_CHKINJ with COUNT = 0 cancels an injection in progress. -/
  | checkInjectCancel (t : Tile)
  /-- ACC_WINDOW_WRITE (R64). A control-window write to an accumulator element stores it with a new residue
  through port S. `portS` says that the chain or a stream engine takes the port in this cycle (R74). -/
  | accWindowWrite (t : Tile) (row : Fin 1024) (lane : Fin 256) (v : Word) (collide portS : Bool)
  /-- ACC_WINDOW_READ (R72). A control-window read of an accumulator element checks its residue and returns
  poison on a mismatch. `portS` says that the chain or a stream engine takes the port in this cycle (R74). -/
  | accWindowRead (t : Tile) (row : Fin 1024) (lane : Fin 256) (upset portS : Bool)
  /-- CHAIN (R93). A vector-slot CHAIN starts or queues an invocation of a configuration over NROWS rows, or
  holds with VCQ when both places are taken. -/
  | chain (t : Tile) (k : ChainSlot)
  /-- INVOCATION_START (R130). An invocation starts reading preload entries and rows when the chain is free, or
  when its queued conditions on the earlier invocation are met. -/
  | invocationStart (t : Tile)
  /-- PRELOAD_READ (R112). A preload entry is taken from the side queue and stored in V0 or V1, one per
  advancing cycle. -/
  | preloadRead (t : Tile)
  /-- CHAIN_ROW (R107). A row is read through port S with its side entry and passes through the configured
  stages. -/
  | chainRow (t : Tile) (upsets : List (Fin 256)) (errs : List ParityErr)
  /-- CHAIN_ENTRY_PLACE (R125). A row's data entry, records and flag word are placed in the stream-out queue D
  cycles after its read, holding with cause OUT while the queue is full. -/
  | chainEntryPlace (t : Tile)
  /-- CHAIN_CONFIG_WRITE (R110). A write to a chain configuration word or lane vector is accepted only while the
  context is EMPTY or STOPPED. -/
  | chainConfigWrite (ca : Ca) (v : Word)
  /-- ROWSTATE_WRITE (R123). A window write to a row-state entry is stored unless a chain update of it occurs in
  the same cycle, when it is lost with HAZ. -/
  | rowstateWrite (ca : Ca) (v : Word) (collide : Bool)
  /-- VMODE_WRITE (R142). A write to SFU_CTL that changes a context's Velhal bit is accepted only while that
  context is EMPTY or STOPPED. -/
  | vmodeWrite (ca : Ca) (v : Word)
  /-- BANK_ACCESS (R147). Accesses that want a scratchpad bank are granted one per cycle in fixed priority and
  performed with SECDED correction. -/
  | bankAccess (t : Tile) (upsets : List (BitVec 25 × Nat)) (reqs : List BankReq)
  /-- SPD_BOUND_WRITE (R149). A write to SPD_BOUND_j is rejected while a context of that domain is RUNNING or
  STOPPING. -/
  | spdBoundWrite (ca : Ca) (v : Word)
  /-- CNT (R150). CNT adds IMM to the count of a word atomically and returns DONE. -/
  | cnt (src : CacSrc) (imm : BitVec 32) (who : Requester)
  /-- CNTLT (R150). CNTLT increments the count if it is below IMM, returning DONE or MISS. -/
  | cntlt (src : CacSrc) (imm : BitVec 32) (who : Requester)
  /-- CEQ (R150). CEQ increments the count if it equals IMM, returning DONE or MISS. -/
  | ceq (src : CacSrc) (imm : BitVec 32) (who : Requester)
  /-- SEMDN (R150). SEMDN subtracts IMM if the count is at least IMM, returning DONE or MISS. -/
  | semdn (src : CacSrc) (imm : BitVec 32) (who : Requester)
  /-- LACQ (R154). LACQ acquires, re-enters, breaks a stale lock or misses, by the cases of the lock table. -/
  | lacq (src : CacSrc) (imm : BitVec 32) (who : Requester)
  /-- LREL (R154). LREL releases one level of a lock held by the requester, or reports BROKEN or MISS. -/
  | lrel (src : CacSrc) (imm : BitVec 32) (who : Requester)
  /-- LRST (R150). LRST sets the word to zero, freeing the lock. -/
  | lrst (src : CacSrc) (imm : BitVec 32) (who : Requester)
  /-- EPOCH_NOTICE (R153). An epoch notice updates a field's copies of a tile's epoch, or is held in a field
  still loading its copies. -/
  | epochNotice (dest : Option FieldNo) (tile : Fin 1920) (epoch : BitVec 16)
  /-- STREAM_PROGRAM_WRITE (R155). A write to the stream-program store is accepted only while the context is
  EMPTY or STOPPED. -/
  | streamProgramWrite (ca : Ca) (v : Word)
  /-- STREAM_START (R94). A stream-slot START passes a parameter to a program and starts it in the next cycle or
  queues it. -/
  | streamStart (t : Tile) (e : Fin 3) (prog : Fin 16) (psrc : Bool) (plc : Fin 8) (param : BitVec 20)
  /-- STREAM_STOP (R94). A stream-slot STOP ends the program in progress without EOS and starts its queued
  program. -/
  | streamStop (t : Tile) (e : Fin 3)
  /-- NEWGEN (R161). NEWGEN advances the generation tag, empties a stream-in queue and places a GEN token,
  holding with STQ while reads of the new tag are outstanding. -/
  | newgen (t : Tile) (e : Fin 3)
  /-- TOK (R95). A network-slot TOK sends a control token on VC-B, holding with OUT without credit and not
  sending to an unmapped tile. -/
  | tok (t : Tile) (k : TokSlot) (since : Nat)
  /-- QUEUED_PROGRAM_START (R157). A queued stream program starts in the cycle after the program in progress
  ends, stops or faults. -/
  | queuedProgramStart (t : Tile) (e : Fin 3) (c : CtxNo)
  /-- STREAM_END (R157). The stream instruction END completes the program and a stream-in engine places EOS. -/
  | streamEnd (t : Tile) (e : Fin 3) (c : CtxNo)
  /-- IXSET (R158). IXSET loads an index register from an immediate, optionally plus the parameter. -/
  | ixset (t : Tile) (e : Fin 3) (c : CtxNo)
  /-- IXADD (R158). IXADD adds a signed immediate to an index register. -/
  | ixadd (t : Tile) (e : Fin 3) (c : CtxNo)
  /-- IXLD (R158). IXLD loads an index register from CMPV after the last CAC response arrives. -/
  | ixld (t : Tile) (e : Fin 3) (c : CtxNo)
  /-- SETC (R158). SETC loads a counter register from an immediate, optionally plus the parameter. -/
  | setc (t : Tile) (e : Fin 3) (c : CtxNo)
  /-- STREAM_DJNZ (R158). The stream DJNZ decrements a counter register and branches if it is not zero. -/
  | streamDjnz (t : Tile) (e : Fin 3) (c : CtxNo)
  /-- STREAM_JMP (R158). The stream JMP branches to an instruction index. -/
  | streamJmp (t : Tile) (e : Fin 3) (c : CtxNo)
  /-- BRS (R158). BRS branches if the last CAC status equals CODE. -/
  | brs (t : Tile) (e : Fin 3) (c : CtxNo)
  /-- ROW (R159). ROW reads or writes one block-format row entry through a descriptor, honouring the predicate
  and the held scale line. -/
  | row (t : Tile) (e : Fin 3) (c : CtxNo)
  /-- LINE (R158). LINE reads or writes LEN bytes at a RAW descriptor address. -/
  | line (t : Tile) (e : Fin 3) (c : CtxNo)
  /-- STREAM_CAC (R157). The stream CAC issues a compare-and-count on a word once the previous CAC of the
  program has its response. -/
  | streamCac (t : Tile) (e : Fin 3) (c : CtxNo)
  /-- ACCX_SPILL (R163). A stream-out ACCX moves an accumulator element row to the tile's scratchpad through
  four port S slots. `portS` says that the chain takes the port in this cycle (R74). -/
  | accxSpill (t : Tile) (c : CtxNo) (upsets : List (Fin 256)) (portS : Bool)
  /-- ACCX_FILL (R163). A stream-in ACCX moves a scratchpad row into an accumulator element row, recomputing
  residues. `portS` says that the chain takes the port in this cycle (R74). -/
  | accxFill (t : Tile) (e : Fin 2) (c : CtxNo) (lost : List (Fin 256)) (portS : Bool)
  /-- PLIM (R158). PLIM sets the predicate limit from an immediate, CMPV or the parameter. -/
  | plim (t : Tile) (e : Fin 3) (c : CtxNo)
  /-- MASKN (R158). MASKN places a 32-byte lane mask with the first n lanes set. -/
  | maskn (t : Tile) (e : Fin 2) (c : CtxNo)
  /-- STREAM_TOK (R158). The stream TOK places a software token in the data queue. -/
  | streamTok (t : Tile) (e : Fin 2) (c : CtxNo)
  /-- WAITN (R158). WAITN makes the program issue nothing for N cycles. -/
  | waitn (t : Tile) (e : Fin 3) (c : CtxNo)
  /-- WAITN_EXPIRE (R158). The program resumes issuing when the N cycles of a WAITN have passed. -/
  | waitnExpire (t : Tile) (e : Fin 3) (c : CtxNo)
  /-- MRX (R162). MRX reserves multicast entries and returns credits to the issuing engine on VC-B. -/
  | mrx (t : Tile) (e : Fin 2) (c : CtxNo) (src : Tile) (srcEng : Fin 2) (srcCtx : CtxNo) (group : BitVec 12)
  /-- SETM (R158). SETM sets the program's destination module register from an immediate or CMPV. -/
  | setm (t : Tile) (e : Fin 3) (c : CtxNo)
  /-- MULTICAST_READ (R162). A stream-in ROW or LINE with MC = 1 issues one read when every member has a credit
  and delivers the entry to every member. -/
  | multicastRead (t : Tile) (e : Fin 2) (c : CtxNo)
  /-- MULTICAST_WRITE (R162). A stream-out ROW or LINE with MC = 1 writes its entry once for delivery to every
  member's scratchpad. -/
  | multicastWrite (t : Tile) (c : CtxNo)
  /-- BREEZE_TRANSFER (R164). A stream-out LINE with BRZ = 1 writes 8–64 bytes as one single-flit VC-B packet.
  -/
  | breezeTransfer (t : Tile) (c : CtxNo) (since : Nat)
  /-- STREAM_RESPONSE (R161). A read response arriving for a stream-in queue completes its reserved entry, or is
  discarded if its generation tag is old. -/
  | streamResponse (t : Tile) (tag : BitVec 10) (st : NStatus) (data : List Byte) (fill : Bool)
  /-- ENGINE_TOKEN_PLACE (R160). An EOS, GEN or PRESS token placed by a stream-in engine waits for a free entry
  and unit and is placed in the first cycle they are free. -/
  | engineTokenPlace (t : Tile) (e : Fin 2) (c : CtxNo)
  /-- MULTICAST_CREDIT (R162). A multicast credit notice arriving on VC-B raises the issuing engine's credit
  count for that member. -/
  | multicastCredit (h : Head) (e : Fin 2) (c : CtxNo) (units : BitVec 8)
  /-- PACKET_FORWARD (R168). A router or station forwards a packet by drop, express, mesh, spine or edge link
  towards its destination. -/
  | packetForward (n k : Nat)
  /-- RD (R176). A read request arriving at its endpoint is served and answered with RDATA carrying its status.
  -/
  | rd (h : Head) (addr : DataAddr) (len : Fin 2049)
  /-- WR (R176). A write request arriving at its endpoint is performed and answered with WACK. -/
  | wr (h : Head) (addr : DataAddr) (data : List Byte)
  /-- REGRD (R176). A register-read packet reads a control address and returns the value. -/
  | regrd (h : Head) (ca : Ca)
  /-- REGWR (R176). A register-write packet writes 8 bytes to a control address. -/
  | regwr (h : Head) (ca : Ca) (v : Word)
  /-- RDATA (R176). Read data arriving at the requester completes its reserved entry or request. -/
  | rdata (h : Head) (st : NStatus) (data : List Byte) (fill : Bool)
  /-- WACK (R176). A write acknowledgement arriving at the sender is counted towards its fences. -/
  | wack (h : Head) (st : NStatus)
  /-- CACR (R176). A CAC response returns CMPV and CST to the issuing unit. -/
  | cacr (h : Head) (st : NStatus) (cst : Fin 4) (cmpv : Word)
  /-- BZW (R164). A breeze write arriving at a scratchpad is written at priority 2 and acknowledged on VC-B. -/
  | bzw (h : Head) (addr : DataAddr) (data : List Byte)
  /-- BZACK (R176). A breeze acknowledgement arriving at the sender is counted like any write acknowledgement.
  -/
  | bzack (h : Head) (st : NStatus)
  /-- TOKEN_ARRIVE (R97). A control token arriving at a context is placed in its token queue, or dropped and
  counted for an EMPTY context, a domain mismatch or a full queue. -/
  | tokenArrive (h : Head) (ctx : CtxNo) (ty : Byte)
  /-- FLIT_REPLAY (R178). A flit that fails its CRC is discarded with the flits after it and the sender replays
  from it on a negative acknowledgement. -/
  | flitReplay (f : FieldNo) (site : Option SiteNo) (link : Option (Fin 27)) (fails : BitVec 8) (n k : Nat)
  /-- PATH_NOTICE (R179). A path notice from the station updates a tile's NET_JETMASK. -/
  | pathNotice (t : Tile) (mask : BitVec 48)
  /-- LANE_PARITY_THRESHOLD (R173). A lane whose parity errors reach LTHRESH in a window starts an automatic
  spare switch, or records a new-defect event if the spare is in use. -/
  | laneParityThreshold (f : FieldNo) (link : Fin 27) (dir : Bool) (bundle : Fin 195) (lane : Fin 17) (errs : BitVec 16)
  /-- SPARECMD (R173). A write to JET_SPARECMD starts the replacement of a lane by its bundle's spare, or is
  rejected while busy or if the spare is used. -/
  | sparecmd (ca : Ca) (v : Word)
  /-- SPARE_SWITCH_COMPLETE (R173). When the spare has trained, both ends switch to it at one flit boundary. -/
  | spareSwitchComplete (f : FieldNo) (gust : Bool) (n : Nat)
  /-- RED (R192). A reduction packet arriving at a node is combined into its chunk's slot, or dropped if the
  tree entry is not valid. -/
  | red (h : Head) (r : RedBody) (resid : List (Fin 10))
  /-- REDUCTION_RESULT_SEND (R192). Two cycles after a slot completes its result goes to the parent or root
  sink, the slot is freed and credits go to the children. -/
  | reductionResultSend (f : FieldNo) (site : Option SiteNo) (tree : BitVec 12) (slot : Fin 16)
  /-- REDUCTION_CREDIT (R193). A reduction credit arriving at a child raises its credit count towards its
  parent. -/
  | reductionCredit (f : FieldNo) (site : Option SiteNo) (tree : BitVec 12)
  /-- ROOT_SINK (R194). A root result is checked against LEAVES and delivered to a ring with an optional token,
  to an update unit or to the optical engine. -/
  | rootSink (f : FieldNo) (n : Nat)
  /-- TREE_ENTRY_WRITE (R196). A write to a tree entry is rejected if setting VALID exceeds the slot pool or
  clearing it finds an occupied slot. -/
  | treeEntryWrite (ca : Ca) (v : Word)
  /-- MULTICAST_REPLICATE (R187). A multicast packet is replicated along its tree when every branch has a
  credit, or stopped at the source if its group is invalid or of another job. -/
  | multicastReplicate (n : Nat)
  /-- MULTICAST_WACK (R188). When every member of a multicast write has completed, the source station returns
  one WACK with the first non-DONE status. -/
  | multicastWack (f : FieldNo) (n : Nat)
  /-- CELLAR_ACCESS (R198). A cellar-port grant moves one line between controller and stack, retrying CRC
  failures and delivering error fill on uncorrectable errors. -/
  | cellarAccess (f : FieldNo) (who : Fin 5) (crc : Nat) (bad : BitVec 8) (upsets : List (Fin 64 × Fin 3))
  /-- VAT_READ (R209). A Cave read at a Vat returns data on a hit or sends ReadS on a miss. -/
  | vatRead (f : FieldNo) (h : Head) (addr : BitVec 54) (len : Fin 2049)
  /-- VAT_WRITE (R209). A Cave write or CAC at a Vat is performed in M, upgrading or reading for ownership
  first, and acknowledged only then. -/
  | vatWrite (f : FieldNo) (h : Head) (addr : BitVec 54) (data : List Byte) (cac : Option (Nat × Nat × Requester))
  /-- MISS_ALLOCATE (R210). A pending miss granted by the Vat-fill arbiter takes a miss entry and sends its
  coherence request. -/
  | missAllocate (f : FieldNo) (who : Fin 3)
  /-- READS (R217). A ReadS at a home is served from memory or by FwdS to the owner. -/
  | reads (h : Head) (b : CohBody)
  /-- READX (R217). A ReadX at a home is served after invalidating sharers or by FwdX to the owner. -/
  | readx (h : Head) (b : CohBody)
  /-- UPGRADE (R217). An Upgrade at a home invalidates the other sharers and grants M, or acts as ReadX. -/
  | upgrade (h : Head) (b : CohBody)
  /-- PUTM (R219). A PutM at a home writes its dirty sectors if current and is always answered PutAck. -/
  | putm (h : Head) (b : CohBody)
  /-- PUTE (R219). A PutE at a home removes the owner if current and is answered PutAck. -/
  | pute (h : Head) (b : CohBody)
  /-- PUTS (R219). A PutS at a home removes the sharer if current and is answered PutAck. -/
  | puts (h : Head) (b : CohBody)
  /-- XLAT (R205). A translation request at the Rind is answered with XLATR, or held while the page's entry has
  MIG = 1. -/
  | xlat (h : Head) (b : CohBody)
  /-- PREC (R222). A page recall at the old home recalls every line of the page and answers later requests
  RETRY, or with END = 1 resumes normal service. -/
  | prec (h : Head) (b : CohBody)
  /-- DATA (R209). A Data message installs the line at the requesting Vat in its granted state and performs the
  waiting accesses. -/
  | data (f : FieldNo) (h : Head) (b : CohBody)
  /-- UPGACK (R209). An UpgAck grants M to a Vat holding S, which performs its waiting write. -/
  | upgack (f : FieldNo) (h : Head) (b : CohBody)
  /-- FWDS (R218). A FwdS makes the owning Vat send a shared copy to the requester, take S and send FwdAck. -/
  | fwds (f : FieldNo) (h : Head) (b : CohBody)
  /-- FWDX (R218). A FwdX makes the owning Vat pass ownership with its dirty mask, take I and send FwdAck. -/
  | fwdx (f : FieldNo) (h : Head) (b : CohBody)
  /-- INV (R218). An Inv makes a Vat drop the line and always answer InvAck. -/
  | inv (f : FieldNo) (h : Head) (b : CohBody)
  /-- INVACK (R217). An InvAck at a home counts towards completing the transaction that sent the Inv. -/
  | invack (h : Head) (b : CohBody)
  /-- FWDACK (R218). A FwdAck at a home completes a forward, writing any attached dirty sectors. -/
  | fwdack (h : Head) (b : CohBody)
  /-- PUTACK (R211). A PutAck frees the Vat's write-back buffer. -/
  | putack (f : FieldNo) (h : Head) (b : CohBody)
  /-- XLATR (R205). A translation response installs a PTE in the requester's translation cache. -/
  | xlatr (h : Head) (b : CohBody)
  /-- TINV (R205). A TINV makes a Vat drop its translation of a page and answer TINVAck. -/
  | tinv (f : FieldNo) (h : Head) (b : CohBody)
  /-- TINVACK (R205). A TINVAck at the Rind counts towards completing an invalidation of a page's translations.
  -/
  | tinvack (h : Head) (b : CohBody)
  /-- PRECACK (R222). A PRECAck tells the migration engine that no Vat holds a line of the page. -/
  | precack (h : Head) (b : CohBody)
  /-- DIRECTORY_RECALL (R215). A request needing an entry in a full directory set waits while the home recalls
  the least recently used entry. -/
  | directoryRecall (n : Fin 49)
  /-- FLUSH_ALL (R213). VAT_CMD OP 0b01 writes back every dirty line and invalidates every line, set by set. -/
  | flushAll (f : FieldNo)
  /-- FLUSH_PAGE (R213). VAT_CMD OP 0b10 writes back and invalidates the lines of one page. -/
  | flushPage (f : FieldNo)
  /-- FLUSH_DONE (R213). When a flush has passed every set, VAT_CMD.BUSY clears. -/
  | flushDone (f : FieldNo)
  /-- CAVE_ENABLE_WRITE (R204). A write to CAVE_CTL.EN is rejected on a bad page-table base or size, or when
  clearing while Cave lines or requests remain. -/
  | caveEnableWrite (ca : Ca) (v : Word)
  /-- PT_WRITE (R204). CAVE_PTCMD OP 0b01 recalls the page's Vat copies, writes the new entry and invalidates
  cached translations. -/
  | ptWrite (ca : Ca) (v : Word)
  /-- PT_READ (R204). CAVE_PTCMD OP 0b10 reads a page-table entry into CAVE_PTDATA. -/
  | ptRead (ca : Ca) (v : Word)
  /-- PT_COMMAND_DONE (R204). When a page-table command has completed its steps, CAVE_PTCMD.BUSY clears. -/
  | ptCommandDone
  /-- MOVE (R222). MIG_CMD OP move queues a page move, or is rejected for an invalid or migrating page or a full
  queue. -/
  | move (ca : Ca) (v : Word)
  /-- MIGRATION_MOVE (R222). The migration engine takes the next queued move and runs its nine steps from PTE
  lock to end of recall. -/
  | migrationMove
  /-- FREE_RING_PUSH (R223). A write to MIG_FREE pushes a frame onto the cellar's free ring, or is rejected when
  it is full. -/
  | freeRingPush (ca : Ca) (v : Word)
  /-- AUTO_PROMOTION (R224). A host-page access counter reaching HOT queues a promotion to a cellar and is reset
  to 0. -/
  | autoPromotion (page : BitVec 24)
  /-- COUNTER_DECAY (R224). Every DECAY × 2^20 cycles every access counter of a home is halved. -/
  | counterDecay (n : Fin 49)
  /-- HOST_MEMORY_OPERATION (R220). The host agent performs a line read or dirty-sector writes for a host-tier
  page as PCIe requests. -/
  | hostMemoryOperation (n : Nat)
  /-- PCIE_COMPLETION (R220). A PCIe completion arriving for a device read delivers its data, or error fill on
  error or poison. -/
  | pcieCompletion (port : Fin 2) (tag : Nat) (data : Option (List Byte))
  /-- COMPLETION_TIMEOUT (R338). A device read that receives no completion by the port's Completion Timeout is
  handled as a completion with error status. -/
  | completionTimeout (port : Fin 2) (tag : Nat)
  /-- FETCH_START (R225). FLD_FETCHCMD START makes the fetch engine issue touches from a calendar entry. -/
  | fetchStart (ca : Ca) (v : Word)
  /-- FETCH_STOP (R225). FLD_FETCHCMD STOP stops the fetch engine issuing touches. -/
  | fetchStop (ca : Ca) (v : Word)
  /-- CANCEL (R227). FLD_FETCHCMD CANCEL stops issuing, advances FGEN, clears consumption and sets the cursor.
  -/
  | cancel (ca : Ca) (v : Word)
  /-- TOUCH (R225). The fetch engine issues one touch per cycle within an entry while LEAD and a free fetch
  token allow. -/
  | touch (f : FieldNo)
  /-- TOUCH_COMPLETE (R226). A touch completes at the Vat, returning its fetch token, counted LATE if its
  generation is old. -/
  | touchComplete (f : FieldNo)
  /-- SOURCE_POLL (R259). Every POLL × 64 cycles a source entry reads its ready word and anchor word and starts
  a round when both allow. -/
  | sourcePoll (t : Tile) (k : Fin 16)
  /-- CHUNK_INJECT (R257). A leaf injects the next chunk of a round under its reduction credits, and after the
  last performs SEMDN on the ready word. -/
  | chunkInject (t : Tile) (k : Fin 16) (resid : List (Fin 10))
  /-- SINK_CHUNK (R260). A sink takes a tree result in chunk order, adds it into its sum region and narrows the
  final total. -/
  | sinkChunk (t : Tile) (k : Fin 16) (resid : List (Fin 10))
  /-- BLOCK_UPDATE (R268). A sink applies the family-0 adaptive rule to a good block when its operands are
  present and writes master, moments and working copy. -/
  | blockUpdate (t : Tile) (k : Fin 16)
  /-- ORTHOGONALISE (R269). After its last block, a family-1 shard orthogonalises the momentum matrix on the
  array and applies it. -/
  | orthogonalise (t : Tile) (k : Fin 16)
  /-- PRECONDITION (R270). A family-2 shard updates its Kronecker factors, forms their inverse fourth roots on
  the array and applies the preconditioned step. -/
  | precondition (t : Tile) (k : Fin 16)
  /-- SHARD_SETTLE (R267). After its step's Cave writes are acknowledged, a sink exchanges the digest, computes
  the next anchor, multicasts the anchor word, advances STEP and counts completion. -/
  | shardSettle (t : Tile) (k : Fin 16)
  /-- SHARD_ENTRY_WRITE (R277). A write to a shard or source entry, seed or rule is rejected unless the entries
  concerned are invalid or idle and the geometry is allowed. -/
  | shardEntryWrite (ca : Ca) (v : Word)
  /-- RING_POLL (R282). Every POLL × 16 cycles the sparse engine reads the head record of valid rings and takes
  the next non-empty command in cyclic order. -/
  | ringPoll (t : Tile)
  /-- SELECT (R287). SELECT writes, in ascending order, the columns whose scores exceed the threshold in some
  row. -/
  | select (t : Tile)
  /-- GATHER_ROWS (R288). GATHER in ROWS mode copies SPAN source rows per kept index to consecutive destination
  rows. -/
  | gatherRows (t : Tile)
  /-- GATHER_BLOCKS (R288). GATHER in BLOCKS mode copies the named blocks of each source row, padded with zero
  blocks to NPAD. -/
  | gatherBlocks (t : Tile)
  /-- INTERSECT (R290). MERGE INTERSECT writes the indices kept in both lists. -/
  | intersect (t : Tile)
  /-- UNION (R290). MERGE UNION writes the indices kept in either list. -/
  | union (t : Tile)
  /-- ANDNOT (R290). MERGE ANDNOT writes the indices kept in A but not in B. -/
  | andnot (t : Tile)
  /-- BUCKET (R292). BUCKET gathers activation blocks bucket by bucket into staging slots under a free-word
  semaphore. -/
  | bucket (t : Tile)
  /-- BUCKET_FREE_RETRY (R292). A BUCKET whose free-word SEMDN missed repeats it after POLL × 16 cycles. -/
  | bucketFreeRetry (t : Tile)
  /-- COMMAND_COMPLETE (R285). A sparse command writes its data, its result word, clears word 0 of its record
  and counts its done word. -/
  | commandComplete (t : Tile)
  /-- SPARSE_RING_WRITE (R282). A write to SPX_RING_c is rejected if it sets VALID for a non-inference context,
  a running context or a ring beyond the scratchpad. -/
  | sparseRingWrite (ca : Ca) (v : Word)
  /-- ARBITER_PERIOD (R297). At each period start an arbiter ranks its raised requesters, hands out units and
  grants, ends or pre-empts the owner. -/
  | arbiterPeriod (inst : ArbInst) (asks : List ArbAsk)
  /-- WINDOW_START (R296). At each window start every credit counter is loaded with its live weight. -/
  | windowStart (inst : ArbInst)
  /-- COMMIT (R300). ARB_COMMIT.COMMIT copies every shadow into the live settings at the end of the cycle, or is
  refused for a bad window. -/
  | commit (inst : ArbInst) (refill : Bool)
  /-- REFILL (R300). ARB_COMMIT.REFILL makes the next period the first of a new window. -/
  | refill (inst : ArbInst)
  /-- FRAME (R307). A received frame's control slot updates acknowledgements, credits, stripe set, identity and
  times, and its flit slots are accepted in sequence. -/
  | frame (h : Fin 96) (cws : List Codeword)
  /-- FLIT_RESEND (R308). On a NAK or lost slot the sender resends from the flit after ACKSEQ from its replay
  buffer. -/
  | flitResend (h : Fin 96)
  /-- FABRIC_ROUTE (R317). An engine routes a packet for another module to a half-port by its tables and
  credits. -/
  | fabricRoute (e : FieldNo) (src : FabSrc)
  /-- FABRIC_DELIVERY (R316). The delivering engine checks the end-to-end CRC and passes a packet for its module
  through its field's spine port. -/
  | fabricDelivery (e : FieldNo) (n : Nat)
  /-- XTREE_COMBINE (R322). A RED packet at an engine is combined into its module-tree slot, and a completed
  slot of a non-root node is sent to the parent. -/
  | xtreeCombine (e : FieldNo) (src : FabSrc) (resid : List (Fin 10))
  /-- XTREE_RESULT (R323). A completed root chunk or DOWN result is handled in chunk order: sent to the
  children, delivered to the local sink and its slot freed. -/
  | xtreeResult (e : FieldNo) (k : Fin 512) (down : Option Nat)
  /-- SIGNAL_DETECT (R326). Light on all four receive fibres moves a training half-port from SIGNAL to LANE. -/
  | signalDetect (h : Fin 96)
  /-- LANE_LOCK (R326). When every lane has locked or failed and enough are locked, the half-port moves to
  ALIGN. -/
  | laneLock (h : Fin 96) (locked : BitVec 16)
  /-- ALIGN_COMPLETE (R326). When lanes are deskewed, codewords locked and three intact control slots received,
  the half-port moves to IDENT. -/
  | alignComplete (h : Fin 96)
  /-- IDENT_TO_UP (R327). A half-port in IDENT passes to UP when IDs, roles, ENABLE and the expected module
  agree. -/
  | identToUp (h : Fin 96)
  /-- TRAINING_TIMEOUT (R326). A training step that exceeds its limit returns the half-port to SIGNAL and counts
  RETRAIN. -/
  | trainingTimeout (h : Fin 96)
  /-- ROLE_WRITE (R329). A write of ROLE restarts half-port training at SIGNAL, or stops it with ROLE off. -/
  | roleWrite (ca : Ca) (v : Word)
  /-- MODID_WRITE (R311). A write to ISO_MODID sets the module ID, or is rejected while any half-port is UP. -/
  | modidWrite (ca : Ca) (v : Word)
  /-- RECALIBRATION_START (R328). A lane whose symbol errors exceed LTHR or whose RECALINT has passed is queued
  for recalibration. -/
  | recalibrationStart (h : Fin 96) (lane : Fin 16)
  /-- RECALIBRATION (R328). A receive lane is recalibrated in 24 lane-time units, rejoining the stripe set or
  being failed with a new-defect event. -/
  | recalibration (h : Fin 96) (errs : Nat)
  /-- STATUS_NOTICE (R330). Every 64 cycles and on any state change, an engine sends its half-ports' state and
  credits to every other engine. -/
  | statusNotice (f : FieldNo)
  /-- TIME_ADJUST (R332). At the end of every 2^20 ns a non-root module steps or slews its fabric time by the
  mean offset from its parent. -/
  | timeAdjust
  /-- TIMESET (R333). A write to ISO_TIMESET sets the root's fabric time, or is rejected on a non-root module.
  -/
  | timeset (ca : Ca) (v : Word)
  /-- TIMECTL_WRITE (R331). A write that changes ROOT or PARENT in ISO_TIMECTL clears LOCKED. -/
  | timectlWrite (ca : Ca) (v : Word)
  /-- BAR0_WRITE (R341). An aligned 8-byte BAR0 write reaches its window or the aperture's control address, and
  any other size is discarded with an event. -/
  | bar0Write (func : Func) (off : BitVec 26) (data : List Byte)
  /-- BAR0_READ (R341). A naturally aligned BAR0 read returns bytes of one register, and a misaligned or long
  read completes with Completer Abort. -/
  | bar0Read (func : Func) (tag : Nat) (off : BitVec 26) (len : Fin 4097)
  /-- BAR2_ACCESS (R343). A BAR2 access goes through its 4 GiB window to a data address in the function's job
  domain. -/
  | bar2Access (func : Func) (tag : Nat) (off : BitVec 36) (write : Option (List Byte)) (len : Fin 4097)
  /-- DATA_WINDOW_WRITE (R344). A write setting EN in a VF data window is rejected unless it names the Cave or a
  logical scratchpad window. -/
  | dataWindowWrite (ca : Ca) (v : Word)
  /-- FUNCJOB_WRITE (R345). A write to RIND_FUNCJOB is accepted only with VF Enable 0 and no enabled queues, and
  not giving two VFs one domain. -/
  | funcjobWrite (ca : Ca) (v : Word)
  /-- QUEUE_CONFIG_WRITE (R346). A write to RIND_Q_q configures or enables a queue, or clearing EN makes it
  drain, with rejections for bad state or codes. -/
  | queueConfigWrite (ca : Ca) (v : Word)
  /-- QUEUE_DRAINED (R346). When a draining queue's fetched descriptors complete, its STATE becomes disabled. -/
  | queueDrained (q : QueueNo)
  /-- SQ_DOORBELL (R347). A write of SQTAIL to a queue's doorbell lets descriptors be fetched, or puts the queue
  in error if out of range. -/
  | sqDoorbell (q : QueueNo) (func : Func) (size : Fin 9) (v : BitVec 16)
  /-- CQ_DOORBELL (R347). A write of CQHEAD frees completion entries, or puts the queue in error if it passes
  CQTAIL. -/
  | cqDoorbell (q : QueueNo) (func : Func) (size : Fin 9) (v : BitVec 16)
  /-- DESCRIPTOR_FETCH (R348). The device fetches the next descriptor of a queue while SQHEAD differs from
  SQTAIL and fewer than 32 are incomplete. -/
  | descriptorFetch (q : QueueNo)
  /-- DESC_NOP (R349). A NOP descriptor completes at once. -/
  | descNop (q : QueueNo)
  /-- H2D (R350). An H2D descriptor copies bytes from host memory to a data address in lines. -/
  | h2d (q : QueueNo)
  /-- D2H (R350). A D2H descriptor copies bytes from a data address to host memory in lines. -/
  | d2h (q : QueueNo)
  /-- DESC_REGWR (R349). A REGWR descriptor writes VALUE to a control address as a BAR0 write would. -/
  | descRegwr (q : QueueNo)
  /-- DESC_REGRD (R349). A REGRD descriptor reads a control address into the completion's RESULT. -/
  | descRegrd (q : QueueNo)
  /-- LOAD (R362). A LOAD descriptor verifies a Cheorser image in pass 1, claims its targets, applies it in pass
  2 and leaves its contexts STOPPED at their entry points. -/
  | load (q : QueueNo) (img : List Byte) (fail : Option (Nat × Bool))
  /-- FWLOAD (R368). An FWLOAD descriptor writes and verifies a firmware package in the inactive slot and marks
  it valid. -/
  | fwload (q : QueueNo) (pkg : List Byte) (fail : Option Nat)
  /-- DESC_RESET (R365). A RESET descriptor performs the reset that its VALUE names and completes when it is
  done. -/
  | descReset (q : QueueNo)
  /-- COMPLETION_WRITE (R348). A completion entry is written to the CQ in SQ order once the CQ has room. -/
  | completionWrite (q : QueueNo)
  /-- MSIX_MESSAGE (R354). A queue sends its MSI-X vector after ICNT entries, after ITIME µs, or on a completion
  with IRQ = 1. -/
  | msixMessage (q : QueueNo)
  /-- EVENT_RECORD (R417). An event reaching the Rind is given the next LOGSEQ and written into the event log.
  -/
  | eventRecord
  /-- EVQ_WRITE (R352). A write to RIND_EVQ naming a queue of another domain's function is rejected. -/
  | evqWrite (ca : Ca) (v : Word)
  /-- REVOKE (R361). A write of REVOKE revokes a key slot, or is rejected if no firmware key would remain. -/
  | revoke (k : Fin 4)
  /-- MODULE_RESET (R405). A module reset clears or keeps state as the module column of the reset table states.
  -/
  | moduleReset
  /-- FIELD_RESET (R405). A field reset clears the field's contexts, tile registers, tree entries and fetch
  engine and advances its tiles' epochs. -/
  | fieldReset
  /-- TILE_RESET (R405). A tile reset empties its contexts, resets its registers and advances its epoch. -/
  | tileReset
  /-- CONTEXT_RESET (R405). A context reset empties one context and resets the registers it indexes. -/
  | contextReset
  /-- JOB_DOMAIN_RESET (R405). A job-domain reset empties the domain's contexts, invalidates its tree, update
  and sparse entries and cancels its fetch engines. -/
  | jobDomainReset
  /-- RESET_DONE (R365). When a reset completes, BUSY clears, a reset-done event is recorded and a RESET
  descriptor completes. -/
  | resetDone
  /-- FUNCTION_LEVEL_RESET (R366). A Function Level Reset disables its queues without completions, clears its
  windows and, for a VF, resets its job domain. -/
  | functionLevelReset (func : Func)
  /-- PERST (R366). PERST# on port 0 acts as a PF Function Level Reset and resets the port, and on port 1 resets
  only the companion function and link. -/
  | perst (port : Fin 2)
  /-- VF_ENABLE_CLEAR (R366). Clearing VF Enable acts on each enabled VF as its Function Level Reset. -/
  | vfEnableClear (set : Bool)
  /-- D3HOT_TRANSITION (R337). A transition of a function to D3hot is refused while any of its queues is
  enabled. -/
  | d3hotTransition (func : Func) (hot : Bool)
  /-- SWITCH (R369). A write of SWITCH restarts the management core from the other slot on trial, or is
  rejected. -/
  | switch
  /-- CONFIRM (R369). A write of CONFIRM clears TRIAL, makes the running slot the boot slot and raises SVNFLOOR.
  -/
  | confirm
  /-- FIRMWARE_READY (R369). The trial firmware reports ready, starting the 60 s wait for CONFIRM. -/
  | firmwareReady
  /-- FIRMWARE_REVERT (R369). Trial firmware not ready within 2 s, or not confirmed within 60 s of ready, makes
  the core restart from the previous slot. -/
  | firmwareRevert
  /-- STANDBY_APPLY (R372). Application of standby power brings up PD0 and starts the starter firmware. -/
  | standbyApply (straps : BitVec 3)
  /-- MAIN_POWER_IN_RANGE (R372). After main power has stayed in range for 20 ms, the Rind ramps PD49, starts
  the ports and drives power-good high. -/
  | mainPowerInRange
  /-- THAW (R373). A THAW command starts a field's ramp, or queues or rejects it under the dependency and
  spacing rules. -/
  | thaw (dom : Fin 64) (hold : Bool)
  /-- QUEUED_THAW_START (R377). A queued THAW starts its ramp 2 ms after the previous ramp began. -/
  | queuedThawStart
  /-- RAMP_END (R373). When the rail is at 0.72 V and the PLL locked, the field enters TEST. -/
  | rampEnd (f : FieldNo)
  /-- TEST_END (R373). When BIST, self-test and epoch loading are done, the field enters REDUCED, held or
  starting calibration and training. -/
  | testEnd (f : FieldNo) (bad : BitVec 42)
  /-- STAGE_FAILED (R373). A thaw stage that exceeds its bound or fails its test puts the field in FAILED. -/
  | stageFailed (f : FieldNo)
  /-- CONTINUE (R376). A CONTINUE command clears HELD and starts calibration and cellar training, or is rejected
  for a field not held. -/
  | continue (dom : Fin 64)
  /-- LINK_CALIBRATION_END (R375). Calibration of an express link ends with it INSERVICE or FAILED. -/
  | linkCalibrationEnd (f : FieldNo) (link : Fin 14) (good : Bool)
  /-- CELLAR_TRAINING_END (R201). Cellar training ends with CEL_STATUS.STATE READY or FAILED. -/
  | cellarTrainingEnd (f : FieldNo) (good : Bool)
  /-- FIELD_FULL (R375). The cycle after calibration and cellar training are both complete, the field becomes
  FULL and switches its clock to FREQ. -/
  | fieldFull (f : FieldNo)
  /-- SETFREQ (R379). A SETFREQ command changes a field's frequency at once if FULL, or on entry into FULL, and
  1.10 GHz is rejected without CAPEN. -/
  | setfreq (dom : Fin 64) (freq : Fin 4)
  /-- CLOCK_RESTART (R379). After the PLL relocks, the field restarts its clock at the new setting. -/
  | clockRestart (f : FieldNo)
  /-- FREEZE (R385). A FREEZE command starts a field's write-back, recall and path removal in FREEZING, or
  freezes PD49, or is rejected. -/
  | freeze (dom : Fin 64)
  /-- FREEZE_DONE (R385). When FREEZING completes, the rail is removed and the field becomes OFF. -/
  | freezeDone (f : FieldNo)
  /-- FREEZE_OVERRUN (R385). A field that cannot complete FREEZING within 5 ms is frozen as in an emergency
  freeze. -/
  | freezeOverrun (f : FieldNo)
  /-- POWER_SAMPLE (R382). Every 10 µs the Rind samples input power and raises the cap level by 4 on a sample
  above the fast limit or over-current. -/
  | powerSample (mv ia e12 : BitVec 16)
  /-- CAP_ADJUST (R382). Every 100 µs the Rind raises or lowers the cap level from the mean input power. -/
  | capAdjust
  /-- THERMAL_READ (R383). Every 100 µs a field's junction reading raises warnings and the thermal level, or
  lowers the level. -/
  | thermalRead (f : FieldNo)
  /-- INPUT_LOSS (R384). Input voltage below 46 V, or above 59 V, for 100 µs removes every field and PD49, drops
  power-good and asserts ALERT#. -/
  | inputLoss (mv : BitVec 16)
  /-- STANDBY_LOSS (R430). Loss of the 12 V input removes every domain at once and loses all state. -/
  | standbyLoss
  /-- PWR_CTL_WRITE (R28). A write to PWR_CTL sets the cap and thresholds, and clearing CAPEN is rejected while
  any field runs at 1.10 GHz. -/
  | pwrCtlWrite (ca : Ca) (v : Word)
  /-- OPTGATE_WRITE (R387). A write to EDGE_OPTGATE powers engines and calibrates their gust links, and clearing
  a bit is rejected while any half-port has a role. -/
  | optgateWrite (ca : Ca) (v : Word)
  /-- SITE_GATE (R381). An idle tile site is site-gated again after 1,024 cycles without an access. -/
  | siteGate (t : Tile)
  /-- GSPARECMD (R391). A write to ISO_GSPARECMD replaces a gust-link lane by its bundle's spare. -/
  | gsparecmd (f : FieldNo) (link : Fin 32) (dir : Bool) (bundle : Byte) (lane : Fin 16)
  /-- SCRUB_LINE (R396). Every 2^INTERVAL cycles a scrubber offers its next line for reading and counts its
  errors. -/
  | scrubLine (u : ScrubUnit) (ups : List (Fin 64 × Bool))
  /-- SCRUB_WRITEBACK (R396). A line read with correctable errors is written back corrected in the next slot the
  scrubber wins. -/
  | scrubWriteback (u : ScrubUnit)
  /-- SCRUB_STARVED (R397). A scrubber that has waited 2^20 cycles for one line records a starved event. -/
  | scrubStarved (u : ScrubUnit)
  /-- PRESS (R398). A write to TIL_PRESS stops a context's stream-in programs and places PRESS tokens after
  their reserved entries. -/
  | press (t : Tile) (mask : BitVec 4)
  /-- PRESS_COMPLETE (R399). When a pressed context's queues and work are empty and it waits, it becomes STOPPED
  with PRESSED set. -/
  | pressComplete (t : Tile) (c : CtxNo)
  /-- PRESS_TIMEOUT (R399). A press not complete within LIM × 1,024 cycles sets FAILED and records a
  context-fault event. -/
  | pressTimeout (t : Tile) (c : CtxNo)
  /-- JOB_PRESS (R400). A write of GO to RIND_PRESS presses every running context of a domain and stops its
  fetch engines. -/
  | jobPress (job : JobNo)
  /-- JOB_PRESS_DONE (R400). When every press of a job press has completed or failed, BUSY clears and STATUS
  reports the outcome. -/
  | jobPressDone
  /-- REMAP (R402). A write to FLD_REMAPCMD starts moving a logical tile to a new site, or is rejected. -/
  | remap (f : FieldNo) (k : Fin 64) (site : Fin 64)
  /-- REMAP_COPY_DONE (R403). When every line has been moved once, the remap enters CATCHUP. -/
  | remapCopyDone (f : FieldNo) (lines : Fin 193)
  /-- REMAP_CATCHUP_PASS (R403). A catch-up pass moves the marked lines again and enters CUTOVER, repeats, or
  FAILED after 16 passes. -/
  | remapCatchupPass (f : FieldNo) (lines : Fin 193)
  /-- REMAP_CUTOVER (R403). With packets held, the last lines move, the tile map and tree entries are rewritten
  in one cycle and held packets are released. -/
  | remapCutover (f : FieldNo)
  /-- SNAPSHOT (R414). A write to TEL_SNAP copies every counter of the block and its time copy at the end of the
  cycle. -/
  | snapshot (ca : Ca)
  /-- SNAPSHOT_ARM (R414). A write to TEL_SNAPAT arms every powered TEL_ block for a snapshot at a fabric time,
  or disarms them. -/
  | snapshotArm (t : Word)
  /-- ARMED_SNAPSHOT (R414). An armed block takes its snapshot in the first cycle whose time copy reaches the
  armed time. -/
  | armedSnapshot (ca : Ca)
  /-- TIME_COPY_SET (R413). Every 2^20 ns the Rind sets each field's time copy from ISO_TIME. -/
  | timeCopySet
  /-- LANE_COUNT_CLEAR (R415). A write of CLR to TEL_LANESEL clears the selected bundle's lane counts. -/
  | laneCountClear (f : FieldNo) (link : Fin 32) (dir : Bool) (bundle : Byte)
  /-- SENSOR_UPDATE (R416). At its interval a sensor takes a new reading and updates its peak. -/
  | sensorUpdate (place : Option FieldNo) (n : Fin 12) (v : BitVec 16)
  /-- SET_ENDPOINT_ID (R419). The MCTP Set Endpoint ID command sets the sideband endpoint ID. -/
  | setEndpointId (e : Byte)
  /-- GET_ENDPOINT_ID (R419). The MCTP Get Endpoint ID command returns the endpoint ID. -/
  | getEndpointId
  /-- GET_ENDPOINT_UUID (R419). The MCTP Get Endpoint UUID command returns the endpoint UUID. -/
  | getEndpointUuid
  /-- GET_MCTP_VERSION_SUPPORT (R419). The MCTP Get MCTP Version Support command returns the supported versions.
  -/
  | getMctpVersionSupport
  /-- GET_MESSAGE_TYPE_SUPPORT (R419). The MCTP Get Message Type Support command returns the supported message
  types. -/
  | getMessageTypeSupport
  /-- GETTID (R419). The PLDM GetTID command returns the terminus ID. -/
  | gettid
  /-- GETPLDMVERSION (R419). The PLDM GetPLDMVersion command returns a supported version. -/
  | getpldmversion (ty : Byte)
  /-- GETPLDMTYPES (R419). The PLDM GetPLDMTypes command returns the supported PLDM types. -/
  | getpldmtypes
  /-- GETPLDMCOMMANDS (R419). The PLDM GetPLDMCommands command returns the supported commands of a type. -/
  | getpldmcommands (ty : Byte)
  /-- GETPDR (R420). The PLDM GetPDR command returns records of the sensor repository. -/
  | getpdr (n : Byte)
  /-- GETSENSORREADING (R420). The PLDM GetSensorReading command returns a numeric sensor's latest sample. -/
  | getsensorreading (id : BitVec 16)
  /-- GETSTATESENSORREADINGS (R420). The PLDM GetStateSensorReadings command returns domain states. -/
  | getstatesensorreadings (id : BitVec 16)
  /-- SETEVENTRECEIVER (R420). The PLDM SetEventReceiver command names the receiver of sensor events. -/
  | seteventreceiver (e : Byte)
  /-- PLATFORMEVENTMESSAGE (R420). The module sends a sensor event to the receiver once per threshold crossing
  or input loss. -/
  | platformeventmessage (acked : Bool)
  /-- EVENT_MESSAGE_RETRY (R420). An unacknowledged sensor event is sent again after 1 s, up to three times,
  then dropped. -/
  | eventMessageRetry (acked : Bool)
  /-- EXTEST (R421). The JTAG EXTEST instruction drives and samples the boundary register while main power is
  absent. -/
  | extest (cells : List Bool)
  /-- IDCODE (R421). The JTAG IDCODE instruction selects the identification register. -/
  | idcode
  /-- SAMPLE_PRELOAD (R421). The JTAG SAMPLE/PRELOAD instruction samples or preloads the boundary register. -/
  | samplePreload (cells : List Bool)
  /-- DBGACC (R421). The JTAG DBGACC instruction performs a control-address read or write at Update-DR as the
  debug level permits. -/
  | dbgacc (op : Fin 4) (ca : Ca) (data : Word)
  /-- BYPASS (R421). The JTAG BYPASS instruction selects the one-bit bypass register. -/
  | bypass
  /-- DEBUG_UNLOCK (R422). A write of GO to DBG_UNLOCK starts verifying the signed response against the
  challenge, or is rejected while busy or locked out. -/
  | debugUnlock (req : Fin 4)
  /-- UNLOCK_VERIFY_DONE (R422). Verification of an unlock response raises the debug level or counts a refusal.
  -/
  | unlockVerifyDone
  /-- UNLOCK_LOCKOUT_END (R422). 60 s after a third consecutive refusal, GO is accepted again. -/
  | unlockLockoutEnd
  /-- RELOCK (R422). A write of RELOCK returns debug to locked, releases halted tiles and cancels check
  injections. -/
  | relock
  /-- HALT (R423). A write of HALT to DBG_TCTL halts the tile at the first cycle outside a retry hold. -/
  | halt (t : Tile)
  /-- DEBUG_RESUME (R424). A write of RESUME to DBG_TCTL leaves the halt, stepping one context STEP bundles if
  STEP is not 0. -/
  | debugResume (t : Tile) (ctx : CtxNo) (step : BitVec 16)
  /-- STEP_COMPLETE (R424). When the stepped context has issued its n bundles, the tile halts with CAUSE step.
  -/
  | stepComplete (t : Tile)
  /-- BREAKPOINT (R424). A context about to issue the bundle at an enabled breakpoint PC halts the tile before
  it issues. -/
  | breakpoint (t : Tile)
  /-- FIELD_HALT (R424). A write to DBG_FHALT halts every selected site of the field in one cycle. -/
  | fieldHalt (f : FieldNo) (sites : BitVec 42)
  /-- FIELD_RESUME (R424). A write to DBG_FHALT with bit 63 resumes every halted site of the field. -/
  | fieldResume (f : FieldNo)
  /-- SCAN_WRITE (R401). A write into a tile state item is accepted only while its contexts are EMPTY or pressed
  and its unit idle. -/
  | scanWrite (ca : Ca) (v : Word)
  /-- RESET_PIN (R433). RESET# held low for at least 10 µs is a cold reset, holding the core and removing every
  other domain until it rises. -/
  | resetPin
  /-- RESET_PIN_RELEASE (R433). When RESET# rises, the core starts from its slot, the straps are sampled and
  power-on follows. -/
  | resetPinRelease (straps : BitVec 3)
  /-- GUST_CALIBRATION_END (R387). Calibration of the gust links of a newly powered engine ends, setting its
  EDGE_OPTSTAT bit or recording a link-failure event for a link that failed. -/
  | gustCalibrationEnd (f : FieldNo) (failed : List (Fin 14))
  /-- PCIE_LINK_DOWN (R355). A PCIe port's link goes down, so traffic chosen for that port moves to the other
  port, and requests with both ports down are handled as completion timeouts. -/
  | pcieLinkDown (port : Fin 2)
  /-- PCIE_LINK_UP (R355). A PCIe port's link comes up, so RIND_PORTSEL can again send traffic on it and the
  module can give service under R388. -/
  | pcieLinkUp (port : Fin 2)
  /-- LOCKED_LANE_LOSS (R329). A receive lane of a half-port loses its clock-recovery lock, and if the locked
  lanes fall below MINLANES the half-port enters FAILED. -/
  | lockedLaneLoss (h : Fin 96) (lane : Fin 16)
  deriving DecidableEq, Repr

end Sys2Proof
end

