-- ==== Sys2Proof/Decode.lean ====
section
/-! DEFINITION. The commands that a word spells by the opcode table's bits. No row of the table gives bits: the block
takes its commands as they are (DESIGN CHOICE, notes/assumptions/1). -/

namespace Sys2Proof

/-- The command that a word of nbits bits spells: none, for the table gives no row any bits. -/
def decodeTableWord (_nbits _w : Nat) : Option Instr := none

end Sys2Proof
end

