-- ==== Sys2Proof/Machine/Formats.lean ====
section
/-! DEFINITION. Exact arithmetic and the number formats: rounding (R42), the block formats (R29–R39), IEEE import and
export (R40–R45), W48 (R63–R65, R109), S96 (R119, R120) and requantisation (R126, R127). -/

namespace Sys2Proof

/-- Mantissa width w (Table 2-1). -/
def Fmt.w : Fmt → Nat
  | .bs4 => 4
  | .bs8 => 8
  | .bs16 => 16

end Sys2Proof

namespace Sys2Proof.Machine

/-! Flag bits (R6). -/
def fNX : Flags := 1
def fUF : Flags := 2
def fOV : Flags := 4
def fPZ : Flags := 8
def fDZ : Flags := 16
def fDM : Flags := 32
def fFZI : Flags := 64
def fFZO : Flags := 128

/-- a · 2^−k rounded to an integer, ties to even (rne_shift of R42). -/
def rneShift (a : Nat) (k : Int) : Nat :=
  match k with
  | .negSucc n => a <<< (n + 1)
  | .ofNat 0 => a
  | .ofNat (n + 1) =>
    let q := a >>> (n + 1)
    let r := a - q <<< (n + 1)
    let h := 1 <<< n
    if r > h ∨ (r = h ∧ q % 2 = 1) then q + 1 else q

/-- Whether a right shift by k drops a bit that is 1. -/
def lostBits (a : Nat) (k : Int) : Bool :=
  match k with
  | .negSucc _ => false
  | .ofNat n => a % (1 <<< n) != 0

/-- The sign of an integer applied to a magnitude. -/
def withSign (neg : Bool) (q : Nat) : Int := if neg then -(q : Int) else q

/-- m·2^−k rounded to an integer, ties to even on the magnitude. -/
def rneInt (m : Int) (k : Int) : Int := withSign (m < 0) (rneShift m.natAbs k)

/-- A value of n bits read as two's complement. -/
def signed (n v : Nat) : Int :=
  let x := v % (1 <<< n)
  if x < 1 <<< (n - 1) then x else (x : Int) - (1 <<< n : Nat)

/-- The n-bit two's-complement code of an integer. -/
def unsigned (n : Nat) (i : Int) : Nat := (i % ((1 <<< n : Nat) : Int)).toNat

/-- floor(log2 |m·2^e|) for m ≠ 0. -/
def floorLog2 (m : Int) (e : Int) : Int := (Nat.log2 m.natAbs : Int) + e

/-! ### Bytes and words -/

/-- A natural number from little-endian bytes (R1). -/
def ofBytes : List Byte → Nat
  | [] => 0
  | b :: bs => b.toNat + 256 * ofBytes bs

/-- The low n bytes of a number, little-endian. -/
def toBytes : Nat → Nat → List Byte
  | 0, _ => []
  | n + 1, v => BitVec.ofNat 8 v :: toBytes n (v / 256)

/-- A list cut into pieces of n elements, k pieces. -/
def chunks {α : Type} (n : Nat) : Nat → List α → List (List α)
  | 0, _ => []
  | k + 1, l => l.take n :: chunks n k (l.drop n)

/-- The bits [hi:lo] of a word (R1). -/
def bits (w : Word) (hi lo : Nat) : Nat := (w.toNat >>> lo) % (1 <<< (hi - lo + 1))

/-- A word with v in bits [hi:lo] and its other bits kept. -/
def setBits (w : Word) (hi lo v : Nat) : Word :=
  let m : Word := BitVec.ofNat 64 ((1 <<< (hi - lo + 1) - 1) <<< lo)
  (w &&& ~~~m) ||| (BitVec.ofNat 64 (v <<< lo) &&& m)

/-! ### Block formats -/

/-- The format a FMT field of two bits names; RAW is none (Table 7-6). -/
def fmtOf : Nat → Option Fmt
  | 0 => some .bs8
  | 1 => some .bs4
  | 2 => some .bs16
  | _ => none

/-- Mantissa bytes of a block of 32 elements: 4w (Table 2-1). -/
def blockBytes (f : Fmt) : Nat := 4 * f.w

/-- The 32 mantissas of a block (R37). -/
def mantissas (f : Fmt) (bs : List Byte) : List Int :=
  match f with
  | .bs8 => bs.map fun b => signed 8 b.toNat
  | .bs4 => bs.flatMap fun b => [signed 4 (b.toNat % 16), signed 4 (b.toNat / 16)]
  | .bs16 => (chunks 2 32 bs).map fun p => signed 16 (ofBytes p)

/-- The bytes of 32 mantissas (R37). -/
def packMantissas (f : Fmt) (ms : List Int) : List Byte :=
  match f with
  | .bs8 => ms.map fun m => BitVec.ofNat 8 (unsigned 8 m)
  | .bs4 => (chunks 2 16 ms).map fun p => BitVec.ofNat 8 (unsigned 4 (p.getD 0 0) + 16 * unsigned 4 (p.getD 1 0))
  | .bs16 => ms.flatMap fun m => toBytes 2 (unsigned 16 m)

/-- The poison mantissa −2^(w−1) (R29). -/
def poisonMant (f : Fmt) : Int := -((1 <<< (f.w - 1) : Nat) : Int)

/-- The kind of block an exponent byte names (Table 2-2). -/
def blockKind (e : Nat) : BlockKind := if e = 0 then .zero else if e = 255 then .overflow else .normal

/-- The value of an element of a block (R31–R34). -/
def elemValue (f : Fmt) (e : Nat) (m : Int) : Num :=
  if m = poisonMant f then .poison
  else match blockKind e with
    | .zero => .fin 0 0
    | .overflow => .ovf (m < 0)
    | .normal => .fin m ((e : Int) - 127 - (f.w - 2 : Nat))

/-- The effective mantissa of an element inside KLEN (R61). -/
def effMant (f : Fmt) (e : Nat) (m : Int) : Int :=
  if m = poisonMant f then 0
  else match blockKind e with
    | .zero => 0
    | .overflow => if m < 0 then -1 else 1
    | .normal => m

/-- A block widened from a narrower format (R36). -/
def widenMant (f g : Fmt) (m : Int) : Int :=
  if m = poisonMant f then poisonMant g else m * ((1 <<< (g.w - f.w) : Nat) : Int)

/-! ### IEEE conversion (R40–R45) -/

/-- p, the exponent width and the bias of an IEEE format (Table 2-5). -/
def ieeeShape : Ieee → Nat × Nat × Int
  | .binary32 => (24, 8, 127)
  | .binary16 => (11, 5, 15)
  | .bfloat16 => (8, 8, 127)

/-- A source element classified (Table 2-6). -/
inductive ImportClass where
  | nan | inf (neg : Bool) | zero (neg sub : Bool) | fin (neg : Bool) (e : Int) (sig : Nat)
  deriving DecidableEq, Repr

def classify (f : Ieee) (bits : Nat) : ImportClass :=
  let (p, ew, bias) := ieeeShape f
  let frac := bits % (1 <<< (p - 1))
  let ex := bits >>> (p - 1) % (1 <<< ew)
  let neg := bits >>> (p - 1 + ew) % 2 = 1
  if ex = 1 <<< ew - 1 then (if frac = 0 then .inf neg else .nan)
  else if ex = 0 then .zero neg (frac ≠ 0)
  else .fin neg ((ex : Int) - bias) (1 <<< (p - 1) + frac)

/-- The sign bit of a classified source. -/
def ImportClass.neg : ImportClass → Bool
  | .nan => false
  | .inf n => n
  | .zero n _ => n
  | .fin n _ _ => n

/-- The flags of Table 2-6. -/
def classFlags : ImportClass → Flags
  | .nan => fPZ
  | .inf _ => fOV
  | .zero _ true => fFZI ||| fNX
  | _ => 0

/-- One lane's rounded mantissa at exponent byte eb, with whether it was exact. -/
def importLane (p w : Nat) (eb : Int) : ImportClass → Nat × Bool
  | .fin _ e sig =>
    let k := (p : Int) - (w - 1 : Nat) + (eb - 127 - e)
    (rneShift sig k, !lostBits sig k)
  | _ => (0, true)

/-- Import of one block of 32 source elements (R42): exponent byte, mantissas and lane flags. -/
def importBlock (src : Ieee) (f : Fmt) (xs : List Nat) : Nat × List (Int × Flags) :=
  let p := (ieeeShape src).1
  let w := f.w
  let cs := xs.map (classify src)
  let top : Nat := 1 <<< (w - 1)
  if cs.any (fun c => match c with | .inf _ => true | _ => false) then
    (255, cs.map fun c => match c with
      | .nan => (poisonMant f, fPZ)
      | .fin n _ _ => (if n then -1 else 1, fOV ||| fNX)
      | c => (if c.neg then -1 else 1, fOV ||| classFlags c))
  else
    let es := cs.filterMap fun c => match c with | .fin _ e _ => some e | _ => none
    match es with
    | [] => (0, cs.map fun c => match c with | .nan => (poisonMant f, fPZ) | c => (0, classFlags c))
    | e0 :: rest =>
      let emax := rest.foldl max e0
      let eb0 := emax + 127
      let carry := cs.any fun c => (importLane p w eb0 c).1 = top
      let eb := if carry && eb0 ≠ 254 then eb0 + 1 else eb0
      (eb.toNat, cs.map fun c => match c with
        | .nan => (poisonMant f, fPZ)
        | .fin n _ _ =>
          let (q, exact) := importLane p w eb c
          if q = top then (withSign n (top - 1), fOV ||| fNX)
          else (withSign n q, if exact then 0 else if q = 0 then fNX ||| fUF else fNX)
        | c => (0, classFlags c))

/-- Export of one element to an IEEE format (R44, Table 2-7). -/
def exportElem (f : Fmt) (dst : Ieee) (eb : Nat) (m : Int) : Nat × Flags :=
  let (p, ew, bias) := ieeeShape dst
  let sgn (neg : Bool) : Nat := if neg then 1 <<< (p - 1 + ew) else 0
  let inf := (1 <<< ew - 1) <<< (p - 1)
  let emin := 1 - bias
  if m = poisonMant f then (inf + 1 <<< (p - 2) + 1, fPZ)
  else if eb = 255 then (sgn (m < 0) + inf, fOV)
  else if eb = 0 ∨ m = 0 then (0, 0)
  else
    let a := m.natAbs
    let t : Int := (eb : Int) - 127 - (f.w - 2 : Nat)
    let len := Nat.log2 a + 1
    let k := len - p
    let q0 := rneShift a k
    let inexact := lostBits a k
    let (q, t) := if q0 = 1 <<< p then (q0 / 2, t + k + 1) else (q0, t + k)
    let ee : Int := (Nat.log2 q : Int) + t
    if ee > bias then (sgn (m < 0) + inf - 1, fOV ||| fNX)
    else if ee < emin then (sgn (m < 0), fFZO ||| fNX)
    else
      let sig := q <<< (p - 1 - Nat.log2 q)
      (sgn (m < 0) + (ee + bias).toNat <<< (p - 1) + (sig - 1 <<< (p - 1)), if inexact then fNX else 0)

/-! ### W48 (R63–R65, R109) -/

/-- The exponent X and mantissa A of a canonical element (R63). -/
structure W48 where
  a : Int
  x : Nat
  deriving DecidableEq, Repr

/-- A word of the element layout read by its kind (Tables 3-6, 3-7). -/
def w48Value (w : Word) : Num :=
  let a := signed 48 (bits w 63 16)
  let x := bits w 15 6
  if a = -(2 ^ 47 : Int) then .poison
  else if x = 0 then .fin 0 0
  else if x = 1023 then .ovf (a < 0)
  else .fin a ((x : Int) - 557)

/-- The element flag bits PZ OV UF NX of a word, as flags (R64). -/
def w48Flags (w : Word) : Flags := BitVec.ofNat 8 (bits w 5 2)

/-- An exact value rounded to W48 (R65 from "if S = 0" on; R109): the canonical value and the flags raised. -/
def roundW48 (m e : Int) : Num × Flags :=
  if m = 0 then (.fin 0 0, 0)
  else
    let l := floorLog2 m e
    let x2 := max (l + 511) 1
    let k := (x2 - 557) - e
    let a := rneShift m.natAbs k
    let inexact := lostBits m.natAbs k
    let (a, x2) := if a = 2 ^ 47 then (2 ^ 46, x2 + 1) else (a, x2)
    if x2 > 1022 then (.ovf (m < 0), fOV ||| fNX)
    else if a = 0 then (.fin 0 0, fUF ||| fNX)
    else (.fin (withSign (m < 0) a) (x2 - 557), if inexact then fNX else 0)

/-- The canonical word of a value already rounded to W48, with element flag bits (R63, R64). -/
def w48Word (v : Num) (fl : Flags) : Word :=
  let fb := (fl.toNat % 16) <<< 2
  match v with
  | .poison => BitVec.ofNat 64 ((2 ^ 47) <<< 16 + fb)
  | .ovf neg => BitVec.ofNat 64 ((unsigned 48 (if neg then -1 else 1)) <<< 16 + 1023 <<< 6 + fb)
  | .fin m e => if m = 0 then BitVec.ofNat 64 fb
    else BitVec.ofNat 64 ((unsigned 48 m) <<< 16 + (e + 557).toNat <<< 6 + fb)

/-- A value re-read in canonical form: its normalised mantissa and exponent (R63). -/
def canonW48 (v : Num) : Num :=
  match v with
  | .fin m e => (roundW48 m e).1
  | v => v

/-- The residue modulo 127 of an element's mantissa (R64). -/
def w48Residue (w : Word) : Nat := (signed 48 (bits w 63 16) % 127).toNat

/-- The poison element as an accumulator read delivers it on a residue mismatch (R72). -/
def residPoison : Word := 0x8000000000000020

/-! ### S96 (R119–R120) -/

/-- The poison code of an S96 record or of a reduction lane: −2^95. -/
def s96Poison : Int := -(2 ^ 95)

/-- The contribution of one source to a record with anchor q (R120): the integer and the flags. -/
def s96Contribution (q : Int) (v : Num) : Int × Flags :=
  match v with
  | .poison => (0, fPZ)
  | .ovf neg => (withSign neg (2 ^ 87 - 1), fOV)
  | .fin m e =>
    let k := q - e
    let a := rneShift m.natAbs k
    if a > 2 ^ 87 - 1 then (withSign (m < 0) (2 ^ 87 - 1), fOV ||| fNX)
    else (withSign (m < 0) a, if lostBits m.natAbs k then (if a = 0 then fNX ||| fUF else fNX) else 0)

/-- The square of a value, exact (the source of RSSQ, R120). -/
def sqNum : Num → Num
  | .poison => .poison
  | .ovf _ => .ovf false
  | .fin m e => .fin (m * m) (2 * e)

/-- The record of the unmasked sources, with each lane's contribution flags (R120). -/
def s96Record (q : Int) (vs : List (Num × Bool)) : S96 × List Flags :=
  let cs := vs.map fun (v, u) => if u then s96Contribution q v else (0, 0)
  let fl := cs.foldl (fun f c => f ||| c.2) (0 : Flags)
  let poisoned := vs.any fun (v, u) => u && v == .poison
  (⟨if poisoned then s96Poison else cs.foldl (fun n c => n + c.1) 0, q, fl.truncate 4⟩, cs.map (·.2))

/-- The two words of a record (Table 5-8), low word first. -/
def s96Words (r : S96) : Word × Word :=
  let n := unsigned 96 r.n
  (BitVec.ofNat 64 n, BitVec.ofNat 64 (n >>> 64 + (unsigned 16 r.q) <<< 32 + r.flags.toNat <<< 48))

/-- A record read from its two words. -/
def s96OfWords (lo hi : Word) : S96 :=
  ⟨signed 96 (lo.toNat + (hi.toNat % (1 <<< 32)) <<< 64), signed 16 (bits hi 47 32), BitVec.ofNat 4 (bits hi 51 48)⟩

/-- The value of a record before rounding (R119). -/
def s96Value (r : S96) : Num := if r.n = s96Poison then .poison else .fin r.n r.q

/-- A record rounded to W48. -/
def s96ToW48 (r : S96) : Num :=
  match s96Value r with
  | .fin m e => (roundW48 m e).1
  | v => v

/-! ### Requantisation (R126, R127) -/

/-- The rounding of a scaled magnitude a·2^−k: to nearest even, or stochastic with the 16-bit dither d (R127).
    The answer says whether a bit was lost. -/
def roundLane (sr : Bool) (d : Nat) (a : Nat) (k : Int) : Nat × Bool :=
  if sr then
    match k with
    | .negSucc n => (a <<< (n + 1), false)
    | .ofNat n =>
      let q0 := a >>> n
      let f16 := ((a - q0 <<< n) <<< 16) >>> n
      (if f16 + d ≥ 65536 then q0 + 1 else q0, lostBits a k)
  else (rneShift a k, lostBits a k)

/-- Whether an unmasked lane is finite and not zero. -/
def finNonzero : Num × Bool → Bool
  | (.fin m _, true) => m ≠ 0
  | _ => false

/-- One block of 32 lanes requantised to BSw (R126): exponent byte, mantissas and lane flags. Each lane is its
    value and its mask bit; d gives the dither of a lane. -/
def requantBlock (f : Fmt) (sr : Bool) (d : List Nat) (vs : List (Num × Bool)) : Nat × List (Int × Flags) :=
  let w := f.w
  let top : Nat := 1 <<< (w - 1)
  let lanes := vs.zip (d ++ List.replicate 32 0)
  if vs.any (fun (v, u) => u && (match v with | .ovf _ => true | _ => false)) then
    (255, vs.map fun (v, u) =>
      if !u then (1, 0)
      else match v with
        | .poison => (poisonMant f, fPZ)
        | .ovf n => (if n then -1 else 1, fOV)
        | .fin m _ => (if m < 0 then -1 else 1, if m ≠ 0 then fOV ||| fNX else fOV))
  else if !vs.any finNonzero then
    (0, vs.map fun (v, u) => if u && v == .poison then (poisonMant f, fPZ) else (0, 0))
  else
    let l := vs.foldl (fun acc p => if finNonzero p then
      (match p.1 with | .fin m e => max acc (floorLog2 m e) | _ => acc) else acc) (-100000 : Int)
    let eb0 : Int := min (max (l + 127) 1) 254
    let lane (eb : Int) (p : (Num × Bool) × Nat) : Nat × Bool :=
      match p.1.1 with
      | .fin m e => roundLane sr p.2 m.natAbs (-(e + ((w - 2 : Nat) : Int) + 127 - eb))
      | _ => (0, false)
    let carry := lanes.any fun p => finNonzero p.1 && (lane eb0 p).1 = top
    let eb := if carry && eb0 < 254 then eb0 + 1 else eb0
    let out := lanes.map fun p =>
      if !p.1.2 then ((0 : Int), (0 : Flags))
      else match p.1.1 with
        | .poison => (poisonMant f, fPZ)
        | .fin m _ =>
          if m = 0 then (0, 0)
          else
            let (q, lost) := lane eb p
            if q ≥ top then (withSign (m < 0) (top - 1), fOV ||| fNX)
            else (withSign (m < 0) q, if lost then (if q = 0 then fNX ||| fUF else fNX) else 0)
        | .ovf _ => (0, 0)
    (if out.all (fun o => o.1 = 0) then 0 else eb.toNat, out)

/-! ### The dither generator (R272) -/

/-- mix of R272. -/
def ditherMix (z : Word) : Word :=
  let z := (z ^^^ (z >>> 30)) * 0xBF58476D1CE4E5B9
  let z := (z ^^^ (z >>> 27)) * 0x94D049BB133111EB
  z ^^^ (z >>> 31)

/-- The 16-bit dither of a seed, step number, tensor ID and element index (R272). -/
def dither (seed : Word) (step tid idx : Nat) : Nat :=
  let z := ditherMix (seed ^^^ (BitVec.ofNat 64 (step % 2 ^ 32) * 0x9E3779B97F4A7C15))
  let z := z ^^^ BitVec.ofNat 64 ((tid % 2 ^ 16) <<< 40) ^^^ BitVec.ofNat 64 (idx % 2 ^ 40)
  bits (ditherMix (z ^^^ 0xD1B54A32D192ED03)) 63 48

end Sys2Proof.Machine
end

