-- ==== Sys2Proof/Machine/Table.lean ====
section
/-! DEFINITION. Reading and writing the sparse tables of the state in their one canonical form. -/

namespace Sys2Proof.Machine

/-- The value a table holds at a key; `d` is what an unlisted key holds. -/
def tget {α : Type} (d : α) : Table α → Nat → α
  | [], _ => d
  | (k', v) :: t, k => if k' = k then v else tget d t k

/-- A table without the entries of one key. -/
def terase {α : Type} : Table α → Nat → Table α
  | [], _ => []
  | (k', v) :: t, k => if k' = k then terase t k else (k', v) :: terase t k

/-- A pair put in front of the first larger key. -/
def tinsert {α : Type} (k : Nat) (v : α) : Table α → Table α
  | [] => [(k, v)]
  | (k', v') :: t => if k < k' then (k, v) :: (k', v') :: t else (k', v') :: tinsert k v t

/-- Write one key. Writing the default removes the entry, so equal contents are equal data. -/
def tset {α : Type} [DecidableEq α] (d : α) (t : Table α) (k : Nat) (v : α) : Table α :=
  if v = d then terase t k else tinsert k v (terase t k)

/-- A table with the keys that satisfy `p` back at their defaults. -/
def tclear {α : Type} (p : Nat → Bool) : Table α → Table α
  | [] => []
  | (k, v) :: t => if p k then tclear p t else (k, v) :: tclear p t

/-- Keys strictly rising from a bound, and no entry equal to the default of its key. -/
def twfFrom {α : Type} [DecidableEq α] (d : Nat → α) : Nat → Table α → Bool
  | _, [] => true
  | b, (k, v) :: t => decide (b ≤ k) && decide (v ≠ d k) && twfFrom d (k + 1) t

/-- The canonical form of a table. -/
def twf {α : Type} [DecidableEq α] (d : Nat → α) (t : Table α) : Bool := twfFrom d 0 t

end Sys2Proof.Machine
end

