-- ==== Sys2Proof/Machine/Regs.lean ====
section
/-! DEFINITION. The register map: every register of every block (chapters 1 to 18), with the bits, access code,
reset value and reserved codes of each field, and the decoding of a control address (R3, R4, R19–R21). -/

namespace Sys2Proof.Machine

/-- Registers of one block of Tables 1-6 and 1-7. -/
def tilRegs : List RegGroup := [
  -- TIL_CTXCFG_c
  ⟨0x100, [(8, 4)], .tilCtxcfg, [⟨63, 56, .rw, 0, []⟩, ⟨44, 32, .rw, 8191, []⟩, ⟨28, 16, .rw, 0, []⟩, ⟨7, 7, .rw, 0, []⟩, ⟨5, 4, .rw, 0, []⟩, ⟨1, 0, .rw, 0, []⟩]⟩,
  -- TIL_CTXSTATE_c
  ⟨0x120, [(8, 4)], .tilCtxstate, [⟨31, 29, .ro, 0, []⟩, ⟨28, 28, .ro, 0, []⟩, ⟨27, 24, .ro, 15, []⟩, ⟨20, 16, .ro, 0, []⟩, ⟨12, 0, .ro, 0, []⟩]⟩,
  -- TIL_CTXCMD_c
  ⟨0x140, [(8, 4)], .tilCtxcmd, [⟨18, 16, .wo, 0, []⟩, ⟨12, 0, .wo, 0, []⟩]⟩,
  -- TIL_PRESS
  ⟨0x180, [], .tilPress, [⟨63, 60, .ro, 0, []⟩, ⟨59, 56, .w1c, 0, []⟩, ⟨55, 52, .ro, 0, []⟩, ⟨23, 8, .rw, 1000, [(1, 65535)]⟩, ⟨3, 0, .wo, 0, []⟩]⟩]

/-- Registers of one block of Tables 1-6 and 1-7. -/
def seqRegs : List RegGroup := [
  -- SEQ_SWCTL
  ⟨0x0, [], .plain, [⟨8, 8, .rw, 1, []⟩, ⟨7, 0, .rw, 0, []⟩]⟩,
  -- SEQ_FLAGS
  ⟨0x8, [], .plain, [⟨8, 8, .w1c, 0, []⟩, ⟨7, 7, .w1c, 0, []⟩, ⟨6, 6, .w1c, 0, []⟩, ⟨5, 5, .w1c, 0, []⟩, ⟨4, 4, .w1c, 0, []⟩, ⟨3, 3, .w1c, 0, []⟩, ⟨2, 2, .w1c, 0, []⟩, ⟨1, 1, .w1c, 0, []⟩, ⟨0, 0, .w1c, 0, []⟩]⟩,
  -- SEQ_LC_c_n
  ⟨0x100, [(64, 4), (8, 8)], .seqLc, [⟨23, 0, .rw, 0, []⟩]⟩,
  -- SEQ_CYC_c, SEQ_ADV_c, SEQ_WAIT_c
  ⟨0x200, [(128, 4), (8, 3)], .counter, [⟨63, 63, .w1c, 0, []⟩, ⟨62, 55, .rw, 0, []⟩, ⟨47, 0, .rw, 0, []⟩]⟩,
  -- SEQ_STALL_c_k
  ⟨0x240, [(128, 4), (8, 8)], .counter, [⟨63, 63, .w1c, 0, []⟩, ⟨62, 55, .rw, 0, []⟩, ⟨47, 0, .rw, 0, []⟩]⟩]

/-- Registers of one block of Tables 1-6 and 1-7. -/
def mxeRegs : List RegGroup := [
  -- MXE_CTL
  ⟨0x0, [], .mxeCtl, [⟨11, 8, .rw, 2, [(0, 7)]⟩, ⟨4, 4, .wo, 0, []⟩, ⟨0, 0, .rw, 1, []⟩]⟩,
  -- MXE_STATUS
  ⟨0x8, [], .mxeStatus, [⟨31, 30, .ro, 0, []⟩, ⟨29, 29, .ro, 0, []⟩, ⟨28, 28, .ro, 0, []⟩, ⟨27, 26, .ro, 0, []⟩, ⟨25, 25, .ro, 0, []⟩, ⟨24, 24, .ro, 0, []⟩, ⟨23, 16, .ro, 0, []⟩, ⟨9, 0, .ro, 0, []⟩]⟩,
  -- MXE_FLAGS
  ⟨0x10, [], .plain, [⟨11, 11, .w1c, 0, []⟩, ⟨10, 10, .w1c, 0, []⟩, ⟨9, 9, .w1c, 0, []⟩, ⟨8, 8, .w1c, 0, []⟩, ⟨7, 7, .w1c, 0, []⟩, ⟨6, 6, .w1c, 0, []⟩, ⟨3, 3, .w1c, 0, []⟩, ⟨2, 2, .w1c, 0, []⟩, ⟨1, 1, .w1c, 0, []⟩, ⟨0, 0, .w1c, 0, []⟩]⟩,
  -- MXE_CHKLOG
  ⟨0x18, [], .plain, [⟨63, 32, .rc, 0, []⟩, ⟨31, 16, .rc, 0, []⟩, ⟨3, 0, .ro, 0, []⟩]⟩,
  -- MXE_CHKINJ
  ⟨0x20, [], .mxeChkinj, [⟨7, 4, .wo, 0, []⟩, ⟨3, 0, .wo, 0, []⟩]⟩,
  -- MXE_LANEFLAG_g
  ⟨0x100, [(8, 16)], .plain, [⟨63, 0, .w1c, 0, []⟩]⟩,
  -- MXE_ACCBND_c
  ⟨0x300, [(8, 4)], .plain, [⟨25, 16, .rw, 1023, []⟩, ⟨9, 0, .rw, 0, []⟩]⟩,
  -- MXE_DESC_c_d
  ⟨0x1000, [(64, 4), (8, 8)], .plain, [⟨63, 62, .rw, 0, [(0, 2)]⟩, ⟨61, 61, .rw, 0, []⟩, ⟨60, 60, .rw, 0, []⟩, ⟨59, 51, .rw, 0, []⟩, ⟨50, 41, .rw, 256, [(1, 512)]⟩, ⟨40, 31, .rw, 256, [(1, 512)]⟩, ⟨30, 29, .rw, 0, []⟩, ⟨28, 21, .rw, 1, []⟩, ⟨20, 12, .rw, 0, []⟩, ⟨11, 11, .rw, 0, []⟩, ⟨10, 10, .rw, 0, []⟩]⟩,
  -- MXE_COLMASK_c_n word v
  ⟨0x2000, [(128, 4), (32, 4), (8, 4)], .mxeColmask, [⟨63, 0, .rw, 18446744073709551615, []⟩]⟩]

/-- Registers of one block of Tables 1-6 and 1-7. -/
def vchRegs : List RegGroup := [
  -- VCH_STATUS
  ⟨0x0, [], .vchStatus, [⟨31, 30, .ro, 0, []⟩, ⟨29, 29, .ro, 0, []⟩, ⟨28, 28, .ro, 0, []⟩, ⟨27, 24, .ro, 0, []⟩, ⟨9, 0, .ro, 0, []⟩]⟩,
  -- VCH_FLAGS
  ⟨0x8, [], .plain, [⟨11, 11, .w1c, 0, []⟩, ⟨10, 10, .w1c, 0, []⟩, ⟨9, 9, .w1c, 0, []⟩, ⟨8, 8, .w1c, 0, []⟩, ⟨5, 5, .w1c, 0, []⟩, ⟨4, 4, .w1c, 0, []⟩, ⟨3, 3, .w1c, 0, []⟩, ⟨2, 2, .w1c, 0, []⟩, ⟨1, 1, .w1c, 0, []⟩, ⟨0, 0, .w1c, 0, []⟩]⟩,
  -- VCH_LANEFLAG_g
  ⟨0x100, [(8, 32)], .plain, [⟨61, 56, .w1c, 0, []⟩, ⟨53, 48, .w1c, 0, []⟩, ⟨45, 40, .w1c, 0, []⟩, ⟨37, 32, .w1c, 0, []⟩, ⟨29, 24, .w1c, 0, []⟩, ⟨21, 16, .w1c, 0, []⟩, ⟨13, 8, .w1c, 0, []⟩, ⟨5, 0, .w1c, 0, []⟩]⟩,
  -- VCH_CFG_c_g_0, header word
  ⟨0x1000, [(2048, 4), (128, 16)], .vchCfg, [⟨63, 60, .rw, 0, [(0, 8)]⟩, ⟨59, 58, .rw, 0, [(0, 2)]⟩, ⟨57, 55, .rw, 0, []⟩, ⟨54, 54, .rw, 0, []⟩, ⟨53, 52, .rw, 0, []⟩, ⟨51, 51, .rw, 0, []⟩, ⟨50, 49, .rw, 0, []⟩]⟩,
  -- VCH_CFG_c_g_w, stage words 1-8
  ⟨0x1008, [(2048, 4), (128, 16), (8, 8)], .vchCfg, [⟨63, 59, .rw, 0, [(0, 0x13)]⟩, ⟨58, 57, .rw, 0, [(0, 2)]⟩, ⟨56, 53, .rw, 0, [(0, 14)]⟩, ⟨52, 49, .rw, 0, [(0, 14)]⟩, ⟨48, 48, .rw, 0, []⟩, ⟨47, 32, .rw, 0, []⟩]⟩,
  -- VCH_CFG_c_g_9, output word
  ⟨0x1048, [(2048, 4), (128, 16)], .vchCfg, [⟨63, 61, .rw, 0, [(0, 4)]⟩, ⟨60, 60, .rw, 0, []⟩, ⟨59, 59, .rw, 0, []⟩, ⟨58, 58, .rw, 0, []⟩, ⟨57, 55, .rw, 0, []⟩, ⟨47, 32, .rw, 0, []⟩, ⟨31, 0, .rw, 0, []⟩]⟩,
  -- VCH_CFG_c_g_w, constants K0-K3 (words 10-13)
  ⟨0x1050, [(2048, 4), (128, 16), (8, 4)], .vchCfg, [⟨63, 6, .rw, 0, []⟩]⟩,
  -- VCH_CFG_c_g_w, words 14-15
  ⟨0x1070, [(2048, 4), (128, 16), (8, 2)], .vchCfg, []⟩,
  -- VCH_VEC_c_v_l
  ⟨0x4000, [(4096, 4), (2048, 2), (8, 256)], .vchVec, [⟨63, 16, .rw, 0, []⟩, ⟨15, 6, .rw, 0, []⟩]⟩,
  -- VCH_ROWSTATE_g word 0
  ⟨0x8000, [(32, 1024)], .rowState, [⟨63, 6, .rw, 0, []⟩]⟩,
  -- VCH_ROWSTATE_g word 1
  ⟨0x8008, [(32, 1024)], .rowState, [⟨0, 0, .rw, 0, []⟩]⟩,
  -- VCH_ROWSTATE_g word 2
  ⟨0x8010, [(32, 1024)], .rowState, [⟨63, 0, .rw, 0, []⟩]⟩,
  -- VCH_ROWSTATE_g word 3
  ⟨0x8018, [(32, 1024)], .rowState, [⟨51, 0, .rw, 0, []⟩]⟩]

/-- Registers of one block of Tables 1-6 and 1-7. -/
def sfuRegs : List RegGroup := [
  -- SFU_CTL
  ⟨0x0, [], .sfuCtl, [⟨3, 0, .rw, 0, []⟩]⟩,
  -- SFU_FLAGS
  ⟨0x8, [], .plain, [⟨1, 1, .w1c, 0, []⟩, ⟨0, 0, .w1c, 0, []⟩]⟩,
  -- SFU_PARLOG
  ⟨0x10, [], .plain, [⟨47, 32, .rc, 0, []⟩, ⟨17, 16, .ro, 0, []⟩, ⟨15, 8, .ro, 0, []⟩, ⟨7, 0, .ro, 0, []⟩]⟩]

/-- Registers of one block of Tables 1-6 and 1-7. -/
def spdRegs : List RegGroup := [
  -- SPD_FLAGS
  ⟨0x0, [], .plain, [⟨3, 3, .w1c, 0, []⟩, ⟨2, 2, .w1c, 0, []⟩, ⟨1, 1, .w1c, 0, []⟩, ⟨0, 0, .w1c, 0, []⟩]⟩,
  -- SPD_ECCLOG
  ⟨0x8, [], .plain, [⟨63, 48, .rc, 0, []⟩, ⟨47, 32, .rc, 0, []⟩, ⟨15, 0, .ro, 0, []⟩]⟩,
  -- SPD_EPOCH
  ⟨0x10, [], .spdEpoch, [⟨15, 0, .ro, 0, []⟩]⟩,
  -- SPD_SCRUB
  ⟨0x18, [], .scrub, [⟨63, 63, .rw, 1, []⟩, ⟨60, 56, .rw, 0, []⟩, ⟨55, 48, .rc, 0, []⟩, ⟨47, 32, .ro, 0, []⟩, ⟨25, 0, .ro, 0, []⟩]⟩,
  -- SPD_BOUND_j
  ⟨0x100, [(8, 4)], .spdBound, [⟨47, 32, .rw, 0, [(0, 49151)]⟩, ⟨15, 0, .rw, 0, [(0, 49151)]⟩]⟩,
  -- SPD_EPTAB_t
  ⟨0x1000, [(8, 1920)], .spdEptab, [⟨15, 0, .ro, 0, []⟩]⟩]

/-- Registers of one block of Tables 1-6 and 1-7. -/
def strRegs : List RegGroup := [
  -- STR_FLAGS
  ⟨0x0, [], .plain, [⟨4, 4, .w1c, 0, []⟩, ⟨3, 3, .w1c, 0, []⟩, ⟨2, 2, .w1c, 0, []⟩, ⟨1, 1, .w1c, 0, []⟩, ⟨0, 0, .w1c, 0, []⟩]⟩,
  -- STR_STATUS_e_c
  ⟨0x100, [(32, 3), (8, 4)], .strStatus, [⟨63, 56, .ro, 0, []⟩, ⟨55, 48, .ro, 0, []⟩, ⟨47, 46, .ro, 0, []⟩, ⟨45, 45, .ro, 0, []⟩, ⟨44, 44, .ro, 0, []⟩, ⟨43, 40, .ro, 0, []⟩, ⟨39, 35, .ro, 0, []⟩, ⟨29, 24, .ro, 0, []⟩, ⟨23, 15, .ro, 0, []⟩]⟩,
  -- STR_PROG_e_c_p_w
  ⟨0x10000, [(16384, 3), (4096, 4), (256, 16), (8, 32)], .strProg, [⟨63, 0, .rw, 0, []⟩]⟩]

/-- Registers of one block of Tables 1-6 and 1-7. -/
def netTileRegs : List RegGroup := [
  -- NET_JOBTAG
  ⟨0x0, [], .plain, [⟨15, 12, .rw, 0, []⟩, ⟨11, 8, .rw, 0, []⟩, ⟨7, 4, .rw, 0, []⟩, ⟨3, 0, .rw, 0, []⟩]⟩,
  -- NET_FLAGS
  ⟨0x8, [], .plain, [⟨8, 8, .w1c, 0, []⟩, ⟨7, 7, .w1c, 0, []⟩, ⟨6, 6, .w1c, 0, []⟩, ⟨5, 5, .w1c, 0, []⟩, ⟨4, 4, .w1c, 0, []⟩, ⟨3, 3, .w1c, 0, []⟩, ⟨2, 2, .w1c, 0, []⟩, ⟨1, 1, .w1c, 0, []⟩, ⟨0, 0, .w1c, 0, []⟩]⟩,
  -- NET_SLOTUSE
  ⟨0x18, [], .netSlotuse, [⟨9, 0, .ro, 0, []⟩]⟩,
  -- NET_JETMASK
  ⟨0x10, [], .netJetmask, [⟨47, 0, .ro, 0, []⟩]⟩,
  -- NET_TRT_i word 0
  ⟨0x100, [(16, 64)], .netTrt, [⟨63, 63, .rw, 0, []⟩, ⟨59, 58, .rw, 0, []⟩, ⟨57, 46, .rw, 0, []⟩, ⟨45, 43, .rw, 1, [(1, 5)]⟩, ⟨42, 40, .rw, 0, [(0, 4)]⟩, ⟨38, 36, .rw, 0, [(0, 4)]⟩, ⟨34, 32, .rw, 0, [(0, 4)]⟩]⟩,
  -- NET_TRT_i word 1
  ⟨0x108, [(16, 64)], .plain, [⟨4, 0, .ro, 0, []⟩]⟩]

/-- Registers of one block of Tables 1-6 and 1-7. -/
def netStationRegs : List RegGroup := [
  -- NET_JOBTAG
  ⟨0x0, [], .plain, [⟨15, 12, .rw, 0, []⟩, ⟨11, 8, .rw, 0, []⟩, ⟨7, 4, .rw, 0, []⟩, ⟨3, 0, .rw, 0, []⟩]⟩,
  -- NET_FLAGS
  ⟨0x8, [], .plain, [⟨8, 8, .w1c, 0, []⟩, ⟨7, 7, .w1c, 0, []⟩, ⟨6, 6, .w1c, 0, []⟩, ⟨5, 5, .w1c, 0, []⟩, ⟨4, 4, .w1c, 0, []⟩, ⟨3, 3, .w1c, 0, []⟩, ⟨2, 2, .w1c, 0, []⟩, ⟨1, 1, .w1c, 0, []⟩, ⟨0, 0, .w1c, 0, []⟩]⟩,
  -- NET_SLOTUSE
  ⟨0x18, [], .netSlotuse, [⟨9, 0, .ro, 0, []⟩]⟩,
  -- NET_RTREE_k word 0
  ⟨0x10000, [(16, 4096)], .netRtree, [⟨63, 63, .rw, 0, []⟩, ⟨59, 58, .rw, 0, []⟩, ⟨57, 52, .rw, 1, [(1, 53)]⟩, ⟨51, 46, .rw, 63, [(0, 5), (8, 15), (63, 63)]⟩, ⟨45, 43, .rw, 0, [(0, 4)]⟩, ⟨42, 40, .rw, 0, [(0, 4)]⟩, ⟨39, 27, .rw, 1, [(1, 8191)]⟩, ⟨26, 25, .rw, 0, [(0, 2)]⟩, ⟨24, 19, .rw, 0, [(0, 39)]⟩]⟩,
  -- NET_RTREE_k word 1
  ⟨0x10008, [(16, 4096)], .netRtree, [⟨63, 48, .rw, 0, []⟩, ⟨47, 32, .rw, 1, [(1, 65535)]⟩, ⟨31, 31, .rw, 0, []⟩, ⟨29, 28, .rw, 0, []⟩, ⟨27, 20, .rw, 64, [(1, 7), (64, 255)]⟩]⟩,
  -- NET_MCG_g word 0
  ⟨0x40000, [(64, 4096)], .netMcg, [⟨63, 63, .rw, 0, []⟩, ⟨59, 58, .rw, 0, []⟩, ⟨4, 0, .rw, 1, [(1, 16)]⟩]⟩,
  -- NET_MCG_g words 1-4
  ⟨0x40008, [(64, 4096), (8, 4)], .netMcg, [⟨62, 62, .rw, 0, []⟩, ⟨61, 60, .rw, 0, []⟩, ⟨58, 48, .rw, 0, [(0, 1919)]⟩, ⟨46, 46, .rw, 0, []⟩, ⟨45, 44, .rw, 0, []⟩, ⟨42, 32, .rw, 0, [(0, 1919)]⟩, ⟨30, 30, .rw, 0, []⟩, ⟨29, 28, .rw, 0, []⟩, ⟨26, 16, .rw, 0, [(0, 1919)]⟩, ⟨14, 14, .rw, 0, []⟩, ⟨13, 12, .rw, 0, []⟩, ⟨10, 0, .rw, 0, [(0, 1919)]⟩]⟩,
  -- NET_MCG_g words 5-7
  ⟨0x40028, [(64, 4096), (8, 3)], .netMcg, []⟩]

/-- Registers of one block of Tables 1-6 and 1-7. -/
def updRegs : List RegGroup := [
  -- UPD_CTL
  ⟨0x0, [], .plain, [⟨15, 8, .rw, 16, [(1, 63)]⟩, ⟨7, 0, .rw, 4, [(1, 255)]⟩]⟩,
  -- UPD_FLAGS
  ⟨0x8, [], .plain, [⟨6, 6, .w1c, 0, []⟩, ⟨5, 5, .w1c, 0, []⟩, ⟨4, 4, .w1c, 0, []⟩, ⟨3, 3, .w1c, 0, []⟩, ⟨2, 2, .w1c, 0, []⟩, ⟨1, 1, .w1c, 0, []⟩, ⟨0, 0, .w1c, 0, []⟩]⟩,
  -- UPD_JSEED_j
  ⟨0x100, [(8, 4)], .updJseed, [⟨63, 0, .rw, 0, []⟩]⟩,
  -- UPD_JSTEP_j
  ⟨0x120, [(8, 4)], .plain, [⟨31, 0, .rw, 0, []⟩]⟩,
  -- UPD_CSTEP_c
  ⟨0x140, [(8, 4)], .plain, [⟨31, 0, .ro, 0, []⟩]⟩,
  -- UPD_RULE_r words 0-8
  ⟨0x400, [(128, 8), (8, 9)], .updRule, [⟨63, 6, .rw, 0, []⟩]⟩,
  -- UPD_RULE_r words 9-15
  ⟨0x448, [(128, 8), (8, 7)], .updRule, []⟩,
  -- UPD_SHARD_k word 0
  ⟨0x1000, [(256, 16)], .updShard, [⟨63, 63, .rw, 0, []⟩, ⟨62, 61, .rw, 0, []⟩, ⟨60, 59, .rw, 0, [(0, 2)]⟩, ⟨58, 56, .rw, 0, []⟩, ⟨55, 55, .rw, 0, []⟩, ⟨54, 52, .rw, 1, [(1, 7)]⟩, ⟨51, 40, .rw, 0, []⟩, ⟨39, 39, .rw, 0, []⟩, ⟨31, 16, .rw, 0, []⟩]⟩,
  -- UPD_SHARD_k word 1
  ⟨0x1008, [(256, 16)], .updShard, [⟨63, 24, .rw, 0, []⟩, ⟨16, 0, .rw, 32, []⟩]⟩,
  -- UPD_SHARD_k word 2
  ⟨0x1010, [(256, 16)], .updShard, [⟨63, 55, .rw, 0, []⟩, ⟨54, 46, .rw, 0, []⟩, ⟨45, 36, .rw, 0, [(0, 768)]⟩, ⟨24, 0, .rw, 0, []⟩]⟩,
  -- UPD_SHARD_k word 3
  ⟨0x1018, [(256, 16)], .updShard, [⟨63, 62, .ro, 0, []⟩, ⟨61, 61, .ro, 0, []⟩, ⟨24, 0, .rw, 0, []⟩]⟩,
  -- UPD_SHARD_k words 4-11, the four descriptors
  ⟨0x1020, [(256, 16), (8, 8)], .updShard, [⟨63, 0, .rw, 0, []⟩]⟩,
  -- UPD_SHARD_k word 12
  ⟨0x1060, [(256, 16)], .updShard, [⟨63, 48, .rw, 0, [(0, 560), (64976, 65535)]⟩, ⟨31, 0, .rw, 0, []⟩]⟩,
  -- UPD_SHARD_k word 13
  ⟨0x1068, [(256, 16)], .updShard, [⟨63, 63, .rw, 0, []⟩, ⟨47, 32, .rw, 0, [(0, 560), (64976, 65535)]⟩, ⟨31, 0, .rw, 0, []⟩]⟩,
  -- UPD_SHARD_k word 14
  ⟨0x1070, [(256, 16)], .updShard, [⟨51, 40, .rw, 0, []⟩, ⟨24, 0, .rw, 0, []⟩]⟩,
  -- UPD_SHARD_k word 15
  ⟨0x1078, [(256, 16)], .updShard, [⟨55, 0, .rw, 0, []⟩]⟩,
  -- UPD_SHARD_k word 16
  ⟨0x1080, [(256, 16)], .updShard, [⟨63, 48, .rw, 0, []⟩, ⟨24, 0, .rw, 0, []⟩]⟩,
  -- UPD_SHARD_k word 17
  ⟨0x1088, [(256, 16)], .updShard, [⟨63, 0, .ro, 0, []⟩]⟩,
  -- UPD_SHARD_k word 18
  ⟨0x1090, [(256, 16)], .updShard, [⟨63, 0, .rw, 0, []⟩]⟩,
  -- UPD_SHARD_k word 19
  ⟨0x1098, [(256, 16)], .updShard, [⟨63, 0, .rw, 0, []⟩]⟩,
  -- UPD_SHARD_k word 20
  ⟨0x10a0, [(256, 16)], .updShard, [⟨63, 0, .ro, 0, []⟩]⟩,
  -- UPD_SHARD_k word 21
  ⟨0x10a8, [(256, 16)], .updShard, [⟨63, 48, .ro, 0, []⟩, ⟨31, 0, .ro, 0, []⟩]⟩,
  -- UPD_SHARD_k word 22
  ⟨0x10b0, [(256, 16)], .updShard, [⟨63, 0, .ro, 0, []⟩]⟩,
  -- UPD_SHARD_k word 23
  ⟨0x10b8, [(256, 16)], .updShard, [⟨63, 32, .ro, 0, []⟩, ⟨31, 0, .ro, 0, []⟩]⟩,
  -- UPD_SHARD_k words 24-31
  ⟨0x10c0, [(256, 16), (8, 8)], .updShard, []⟩,
  -- UPD_SRC_k word 0
  ⟨0x3000, [(32, 16)], .updSrc, [⟨63, 63, .rw, 0, []⟩, ⟨62, 61, .rw, 0, []⟩, ⟨60, 60, .rw, 0, []⟩, ⟨59, 57, .rw, 1, [(1, 7)]⟩, ⟨56, 51, .rw, 0, []⟩, ⟨16, 0, .rw, 32, []⟩]⟩,
  -- UPD_SRC_k word 1
  ⟨0x3008, [(32, 16)], .updSrc, [⟨56, 32, .rw, 0, []⟩, ⟨24, 0, .rw, 0, []⟩]⟩,
  -- UPD_SRC_k word 2
  ⟨0x3010, [(32, 16)], .updSrc, [⟨56, 32, .rw, 0, []⟩, ⟨31, 0, .rw, 0, []⟩]⟩,
  -- UPD_SRC_k word 3
  ⟨0x3018, [(32, 16)], .updSrc, [⟨63, 62, .ro, 0, []⟩, ⟨61, 59, .ro, 0, []⟩, ⟨58, 58, .w1c, 0, []⟩, ⟨23, 0, .ro, 0, []⟩]⟩]

/-- Registers of one block of Tables 1-6 and 1-7. -/
def spxRegs : List RegGroup := [
  -- SPX_CTL
  ⟨0x0, [], .plain, [⟨7, 0, .rw, 4, [(1, 255)]⟩]⟩,
  -- SPX_FLAGS
  ⟨0x8, [], .plain, [⟨5, 5, .w1c, 0, []⟩, ⟨4, 4, .w1c, 0, []⟩, ⟨3, 3, .w1c, 0, []⟩, ⟨2, 2, .w1c, 0, []⟩, ⟨1, 1, .w1c, 0, []⟩, ⟨0, 0, .w1c, 0, []⟩]⟩,
  -- SPX_STATUS
  ⟨0x10, [], .spxStatus, [⟨63, 63, .ro, 0, []⟩, ⟨62, 61, .ro, 0, []⟩, ⟨60, 57, .ro, 0, []⟩, ⟨31, 0, .ro, 0, []⟩]⟩,
  -- SPX_DROPCNT
  ⟨0x18, [], .plain, [⟨63, 32, .rc, 0, []⟩, ⟨31, 0, .rc, 0, []⟩]⟩,
  -- SPX_RING_c
  ⟨0x100, [(8, 4)], .spxRing, [⟨63, 63, .rw, 0, []⟩, ⟨56, 32, .rw, 0, []⟩, ⟨23, 16, .rw, 0, []⟩, ⟨7, 0, .ro, 0, []⟩]⟩]

/-- Registers of one block of Tables 1-6 and 1-7. -/
def dbgTileRegs : List RegGroup := [
  -- DBG_TCTL
  ⟨0x0, [], .dbgTctl, [⟨63, 63, .ro, 0, []⟩, ⟨62, 61, .ro, 0, []⟩, ⟨47, 32, .wo, 0, []⟩, ⟨17, 16, .wo, 0, []⟩, ⟨1, 1, .wo, 0, []⟩, ⟨0, 0, .wo, 0, []⟩]⟩,
  -- DBG_HALTCYC
  ⟨0x10, [], .counter, [⟨63, 63, .w1c, 0, []⟩, ⟨62, 55, .rw, 0, []⟩, ⟨47, 0, .rw, 0, []⟩]⟩,
  -- DBG_BP_c
  ⟨0x100, [(8, 4)], .plain, [⟨63, 63, .rw, 0, []⟩, ⟨12, 0, .rw, 0, []⟩]⟩,
  -- token queues (Table 18-9)
  ⟨0x1000, [(128, 4), (8, 16)], .scan, [⟨63, 0, .rw, 0, []⟩]⟩,
  -- generation tags
  ⟨0x2000, [(64, 3), (16, 4)], .scan, [⟨63, 0, .rw, 0, []⟩]⟩,
  -- stream-program registers
  ⟨0x3000, [(1024, 3), (256, 4), (8, 11)], .scan, [⟨63, 0, .rw, 0, []⟩]⟩,
  -- units of the stream queues
  ⟨0x10000, [(131072, 3), (32768, 4), (8, 2048)], .scan, [⟨63, 0, .rw, 0, []⟩]⟩,
  -- entry descriptors of the stream queues
  ⟨0x14000, [(131072, 3), (32768, 4), (8, 32)], .scan, [⟨63, 0, .rw, 0, []⟩]⟩,
  -- mantissas, exponents and check columns of the weight buffers
  ⟨0x80000, [(131072, 2), (8, 8192)], .scan, [⟨63, 0, .rw, 0, []⟩]⟩,
  ⟨0x90000, [(131072, 2), (8, 512)], .scan, [⟨63, 0, .rw, 0, []⟩]⟩,
  ⟨0x91000, [(131072, 2), (8, 128)], .scan, [⟨63, 0, .rw, 0, []⟩]⟩,
  -- the replay buffer, 10 rows of at most 264 bytes and a predicate
  ⟨0xC0000, [(8, 640)], .scan, [⟨63, 0, .rw, 0, []⟩]⟩]

/-- Registers of one block of Tables 1-6 and 1-7. -/
def istoreRegs : List RegGroup := [
  -- the instruction store, word w of bundle b at 32b + 8w
  ⟨0x0, [(8, 32768)], .istore, [⟨63, 0, .rw, 0, []⟩]⟩]

/-- Registers of one block of Tables 1-6 and 1-7. -/
def accRegs : List RegGroup := [
  -- one accumulator bank, 512 rows of 256 elements
  ⟨0x0, [(2048, 512), (8, 256)], .accWindow, [⟨63, 2, .rw, 0, []⟩]⟩]

/-- Registers of an arbiter instance's block, with the words of its NREQ requesters; those of others are RSV (R303). -/
def arbRegs (nreq : Nat) : List RegGroup := [
  -- ARB_CTL
  ⟨0x0, [], .arbCtl, [⟨47, 40, .ro, 0, []⟩, ⟨39, 32, .ro, 0, []⟩, ⟨31, 16, .ro, 0, []⟩, ⟨15, 0, .rws, 1024, [(1, 65535)]⟩]⟩,
  -- ARB_COMMIT
  ⟨0x8, [], .arbCommit, [⟨1, 1, .wo, 0, []⟩, ⟨0, 0, .wo, 0, []⟩]⟩,
  -- ARB_FLAGS
  ⟨0x10, [], .plain, [⟨16, 16, .w1c, 0, []⟩, ⟨7, 0, .w1c, 0, []⟩]⟩,
  -- ARB_STATUS
  ⟨0x18, [], .arbStatus, [⟨63, 63, .ro, 0, []⟩, ⟨58, 56, .ro, 0, []⟩, ⟨55, 48, .ro, 0, []⟩, ⟨15, 0, .ro, 0, []⟩]⟩,
  -- ARB_REQ_i word 0
  ⟨0x100, [(32, nreq)], .arbReq, [⟨47, 32, .rw, 0, []⟩, ⟨24, 24, .rws, 0, []⟩, ⟨23, 16, .rws, 0, []⟩, ⟨11, 0, .rws, 0, []⟩]⟩,
  -- ARB_REQ_i word 1
  ⟨0x108, [(32, nreq)], .arbReq, [⟨63, 63, .ro, 0, []⟩, ⟨62, 62, .ro, 0, []⟩, ⟨47, 32, .ro, 0, []⟩, ⟨11, 0, .ro, 0, []⟩]⟩,
  -- ARB_REQ_i word 2
  ⟨0x110, [(32, nreq)], .arbReq, [⟨31, 0, .ro, 0, []⟩]⟩,
  -- ARB_REQ_i word 3
  ⟨0x118, [(32, nreq)], .arbReq, [⟨47, 0, .rc, 0, []⟩]⟩]

/-- Registers of one block of Tables 1-6 and 1-7.
    DEDUCED: notes/assumptions/98. -/
def telTileRegs : List RegGroup := [
  -- TEL_SNAP
  ⟨0x0, [], .telSnap, [⟨0, 0, .wo, 0, []⟩]⟩,
  -- TEL_SNAPTIME
  ⟨0x8, [], .plain, [⟨63, 0, .ro, 0, []⟩]⟩,
  -- TEL_CNT_k
  ⟨0x100, [(8, 26)], .counter, [⟨63, 63, .w1c, 0, []⟩, ⟨62, 55, .rw, 0, []⟩, ⟨47, 0, .rw, 0, []⟩]⟩,
  -- TEL_CNT_k of codes that Table 18-1 does not list (R412)
  ⟨0x1d0, [(8, 70)], .plain, []⟩,
  -- TEL_SNAPCNT_k
  ⟨0x900, [(8, 26)], .plain, [⟨63, 0, .ro, 0, []⟩]⟩,
  -- TEL_SNAPCNT_k of codes that Table 18-1 does not list (R412)
  ⟨0x9d0, [(8, 70)], .plain, []⟩]

/-- Registers of one block of Tables 1-6 and 1-7. -/
def telFieldRegs : List RegGroup := [
  -- TEL_SNAP
  ⟨0x0, [], .telSnap, [⟨0, 0, .wo, 0, []⟩]⟩,
  -- TEL_SNAPTIME
  ⟨0x8, [], .plain, [⟨63, 0, .ro, 0, []⟩]⟩,
  -- TEL_CNT_k
  ⟨0x100, [(8, 6)], .counter, [⟨63, 63, .w1c, 0, []⟩, ⟨62, 55, .rw, 0, []⟩, ⟨47, 0, .rw, 0, []⟩]⟩,
  -- TEL_CNT_k of codes that Table 18-1 does not list (R412)
  ⟨0x130, [(8, 90)], .plain, []⟩,
  -- TEL_SNAPCNT_k
  ⟨0x900, [(8, 6)], .plain, [⟨63, 0, .ro, 0, []⟩]⟩,
  -- TEL_SNAPCNT_k of codes that Table 18-1 does not list (R412)
  ⟨0x930, [(8, 90)], .plain, []⟩,
  -- TEL_SENS_s
  ⟨0x400, [(8, 12)], .telSens, [⟨63, 63, .ro, 0, []⟩, ⟨47, 32, .rc, 0, []⟩, ⟨15, 0, .ro, 0, []⟩]⟩]

/-- Registers of one block of Tables 1-6 and 1-7. -/
def telVatRegs : List RegGroup := [
  -- TEL_SNAP
  ⟨0x0, [], .telSnap, [⟨0, 0, .wo, 0, []⟩]⟩,
  -- TEL_SNAPTIME
  ⟨0x8, [], .plain, [⟨63, 0, .ro, 0, []⟩]⟩,
  -- TEL_CNT_k
  ⟨0x100, [(8, 10)], .counter, [⟨63, 63, .w1c, 0, []⟩, ⟨62, 55, .rw, 0, []⟩, ⟨47, 0, .rw, 0, []⟩]⟩,
  -- TEL_CNT_k of codes that Table 18-1 does not list (R412)
  ⟨0x150, [(8, 86)], .plain, []⟩,
  -- TEL_SNAPCNT_k
  ⟨0x900, [(8, 10)], .plain, [⟨63, 0, .ro, 0, []⟩]⟩,
  -- TEL_SNAPCNT_k of codes that Table 18-1 does not list (R412)
  ⟨0x950, [(8, 86)], .plain, []⟩]

/-- Registers of one block of Tables 1-6 and 1-7. -/
def telCellarRegs : List RegGroup := [
  -- TEL_SNAP
  ⟨0x0, [], .telSnap, [⟨0, 0, .wo, 0, []⟩]⟩,
  -- TEL_SNAPTIME
  ⟨0x8, [], .plain, [⟨63, 0, .ro, 0, []⟩]⟩,
  -- TEL_CNT_k
  ⟨0x100, [(8, 5)], .counter, [⟨63, 63, .w1c, 0, []⟩, ⟨62, 55, .rw, 0, []⟩, ⟨47, 0, .rw, 0, []⟩]⟩,
  -- TEL_CNT_k of codes that Table 18-1 does not list (R412)
  ⟨0x128, [(8, 91)], .plain, []⟩,
  -- TEL_SNAPCNT_k
  ⟨0x900, [(8, 5)], .plain, [⟨63, 0, .ro, 0, []⟩]⟩,
  -- TEL_SNAPCNT_k of codes that Table 18-1 does not list (R412)
  ⟨0x928, [(8, 91)], .plain, []⟩]

/-- Registers of one block of Tables 1-6 and 1-7. -/
def telStationRegs : List RegGroup := [
  -- TEL_SNAP
  ⟨0x0, [], .telSnap, [⟨0, 0, .wo, 0, []⟩]⟩,
  -- TEL_SNAPTIME
  ⟨0x8, [], .plain, [⟨63, 0, .ro, 0, []⟩]⟩,
  -- TEL_CNT_k
  ⟨0x100, [(8, 18)], .counter, [⟨63, 63, .w1c, 0, []⟩, ⟨62, 55, .rw, 0, []⟩, ⟨47, 0, .rw, 0, []⟩]⟩,
  -- TEL_CNT_k of codes that Table 18-1 does not list (R412)
  ⟨0x190, [(8, 78)], .plain, []⟩,
  -- TEL_SNAPCNT_k
  ⟨0x900, [(8, 18)], .plain, [⟨63, 0, .ro, 0, []⟩]⟩,
  -- TEL_SNAPCNT_k of codes that Table 18-1 does not list (R412)
  ⟨0x990, [(8, 78)], .plain, []⟩,
  -- TEL_LANESEL
  ⟨0x800, [], .telLanesel, [⟨63, 63, .wo, 0, []⟩, ⟨20, 16, .rw, 0, [(0, 26)]⟩, ⟨15, 15, .rw, 0, []⟩, ⟨7, 0, .rw, 0, [(0, 194)]⟩]⟩,
  -- TEL_LANECNT_w
  ⟨0x810, [(8, 5)], .telLanecnt, [⟨63, 0, .ro, 0, []⟩]⟩]

/-- Registers of one block of Tables 1-6 and 1-7. -/
def telOptRegs : List RegGroup := [
  -- TEL_SNAP
  ⟨0x0, [], .telSnap, [⟨0, 0, .wo, 0, []⟩]⟩,
  -- TEL_SNAPTIME
  ⟨0x8, [], .plain, [⟨63, 0, .ro, 0, []⟩]⟩,
  -- TEL_CNT_k
  ⟨0x100, [(8, 96)], .counter, [⟨63, 63, .w1c, 0, []⟩, ⟨62, 55, .rw, 0, []⟩, ⟨47, 0, .rw, 0, []⟩]⟩,
  -- TEL_SNAPCNT_k
  ⟨0x900, [(8, 96)], .plain, [⟨63, 0, .ro, 0, []⟩]⟩,
  -- TEL_SYMERR_i
  ⟨0x800, [(8, 32)], .plain, [⟨31, 0, .rc, 0, []⟩]⟩]

/-- Registers of one block of Tables 1-6 and 1-7. -/
def telRindRegs : List RegGroup := [
  -- TEL_SNAP
  ⟨0x0, [], .telSnap, [⟨0, 0, .wo, 0, []⟩]⟩,
  -- TEL_SNAPTIME
  ⟨0x8, [], .plain, [⟨63, 0, .ro, 0, []⟩]⟩,
  -- TEL_CNT_k
  ⟨0x100, [(8, 8)], .counter, [⟨63, 63, .w1c, 0, []⟩, ⟨62, 55, .rw, 0, []⟩, ⟨47, 0, .rw, 0, []⟩]⟩,
  -- TEL_CNT_k of codes that Table 18-1 does not list (R412)
  ⟨0x140, [(8, 88)], .plain, []⟩,
  -- TEL_SNAPCNT_k
  ⟨0x900, [(8, 8)], .plain, [⟨63, 0, .ro, 0, []⟩]⟩,
  -- TEL_SNAPCNT_k of codes that Table 18-1 does not list (R412)
  ⟨0x940, [(8, 88)], .plain, []⟩,
  -- TEL_SENS_s
  ⟨0x400, [(8, 6)], .telSens, [⟨63, 63, .ro, 0, []⟩, ⟨47, 32, .rc, 0, []⟩, ⟨15, 0, .ro, 0, []⟩]⟩,
  -- TEL_LOGNEXT
  ⟨0x10, [], .plain, [⟨63, 0, .ro, 0, []⟩]⟩,
  -- TEL_LOGLOST
  ⟨0x18, [], .counter, [⟨63, 63, .w1c, 0, []⟩, ⟨62, 55, .rw, 0, []⟩, ⟨47, 0, .rw, 0, []⟩]⟩,
  -- TEL_SNAPAT
  ⟨0x20, [], .telSnapat, [⟨63, 0, .rw, 0, []⟩]⟩,
  -- TEL_LOG_i word w
  ⟨0x10000, [(32, 4096), (8, 4)], .telLog, [⟨63, 0, .ro, 0, []⟩]⟩]

/-- Registers of one block of Tables 1-6 and 1-7. -/
def fldRegs : List RegGroup := [
  -- FLD_POSITION
  ⟨0x0, [], .fldPosition, [⟨13, 8, .ro, 0, []⟩, ⟨6, 4, .ro, 0, []⟩, ⟨2, 0, .ro, 0, []⟩]⟩,
  -- FLD_TILEMAP_t
  ⟨0x1000, [(8, 40)], .fldTilemap, [⟨7, 7, .rw, 1, []⟩, ⟨5, 0, .rw, 0, [(0, 41)]⟩]⟩,
  -- FLD_SITEBAD
  ⟨0x1200, [], .fldSitebad, [⟨41, 0, .rw, 0, []⟩]⟩,
  -- FLD_SITEUSE
  ⟨0x1208, [], .fldSiteuse, [⟨41, 0, .ro, 0, []⟩]⟩,
  -- FLD_REMAPCMD
  ⟨0x1300, [], .remapcmd, [⟨16, 16, .wo, 0, []⟩, ⟨13, 8, .wo, 0, [(0, 39)]⟩, ⟨5, 0, .wo, 0, [(0, 41)]⟩]⟩,
  -- FLD_REMAPSTAT
  ⟨0x1308, [], .remapstat, [⟨63, 61, .ro, 0, []⟩, ⟨60, 56, .ro, 0, []⟩, ⟨47, 32, .ro, 0, []⟩, ⟨31, 16, .ro, 0, []⟩, ⟨15, 0, .ro, 0, []⟩]⟩,
  -- FLD_FETCHCTL
  ⟨0x2000, [], .fetchctl, [⟨25, 24, .rw, 0, []⟩, ⟨19, 16, .rw, 4, [(1, 15)]⟩, ⟨8, 0, .rw, 64, [(1, 256)]⟩]⟩,
  -- FLD_FETCHCMD
  ⟨0x2008, [], .fetchcmd, [⟨17, 16, .wo, 0, []⟩, ⟨9, 0, .wo, 0, []⟩]⟩,
  -- FLD_FETCHSTAT
  ⟨0x2010, [], .fetchstat, [⟨63, 48, .rc, 0, []⟩, ⟨47, 40, .ro, 0, []⟩, ⟨39, 31, .ro, 64, []⟩, ⟨30, 29, .ro, 0, []⟩, ⟨9, 0, .ro, 0, []⟩]⟩,
  -- FLD_CAL_k word 0
  ⟨0x4000, [(16, 1024)], .fldCal, [⟨55, 0, .rw, 0, []⟩]⟩,
  -- FLD_CAL_k word 1
  ⟨0x4008, [(16, 1024)], .fldCal, [⟨63, 63, .rw, 0, []⟩, ⟨15, 0, .rw, 1, [(1, 65535)]⟩]⟩]

/-- Registers of one block of Tables 1-6 and 1-7. -/
def dbgFieldRegs : List RegGroup := [
  -- DBG_FHALT
  ⟨0x0, [], .dbgFhalt, [⟨63, 63, .wo, 0, []⟩, ⟨41, 0, .wo, 0, []⟩]⟩]

/-- Registers of one block of Tables 1-6 and 1-7. -/
def vatRegs : List RegGroup := [
  -- VAT_CMD
  ⟨0x0, [], .vatCmd, [⟨63, 63, .ro, 0, []⟩, ⟨25, 24, .wo, 0, [(0, 2)]⟩, ⟨23, 0, .wo, 0, []⟩]⟩,
  -- VAT_FLAGS
  ⟨0x8, [], .plain, [⟨4, 4, .w1c, 0, []⟩, ⟨3, 3, .w1c, 0, []⟩, ⟨2, 2, .w1c, 0, []⟩, ⟨1, 1, .w1c, 0, []⟩, ⟨0, 0, .w1c, 0, []⟩]⟩,
  -- VAT_STATUS
  ⟨0x10, [], .vatStatus, [⟨56, 48, .ro, 0, []⟩, ⟨45, 40, .ro, 0, []⟩, ⟨38, 32, .ro, 0, []⟩, ⟨10, 0, .ro, 0, []⟩]⟩,
  -- VAT_SCRUB
  ⟨0x18, [], .scrub, [⟨63, 63, .rw, 1, []⟩, ⟨60, 56, .rw, 0, []⟩, ⟨55, 48, .rc, 0, []⟩, ⟨47, 32, .ro, 0, []⟩, ⟨25, 0, .ro, 0, []⟩]⟩]

/-- Registers of one block of Tables 1-6 and 1-7. -/
def celRegs : List RegGroup := [
  -- CEL_STATUS
  ⟨0x0, [], .celStatus, [⟨63, 48, .rc, 0, []⟩, ⟨47, 32, .rc, 0, []⟩, ⟨3, 3, .w1c, 0, []⟩, ⟨2, 0, .ro, 0, []⟩]⟩,
  -- CEL_SCRUB
  ⟨0x8, [], .scrub, [⟨63, 63, .rw, 1, []⟩, ⟨60, 56, .rw, 0, []⟩, ⟨55, 48, .rc, 0, []⟩, ⟨47, 32, .ro, 0, []⟩, ⟨25, 0, .ro, 0, []⟩]⟩]

/-- Registers of one block of Tables 1-6 and 1-7. -/
def caveFieldRegs : List RegGroup := [
  -- CAVE_HOMESTAT
  ⟨0x0, [], .homeStat, [⟨63, 48, .rc, 0, []⟩, ⟨38, 32, .ro, 0, []⟩, ⟨17, 0, .ro, 0, []⟩]⟩]

/-- Registers of one block of Tables 1-6 and 1-7. -/
def migFieldRegs : List RegGroup := [
  -- MIG_FREE
  ⟨0x0, [], .migFree, [⟨38, 32, .ro, 0, []⟩, ⟨13, 0, .wo, 0, [(0, 12287)]⟩]⟩,
  -- MIG_CNT_i
  ⟨0x10000, [(8, 12288)], .plain, [⟨15, 0, .rw, 0, []⟩]⟩]

/-- Registers of one block of Tables 1-6 and 1-7. -/
def caveHostRegs : List RegGroup := [
  -- CAVE_CTL
  ⟨0x0, [], .caveCtl, [⟨0, 0, .rw, 0, []⟩]⟩,
  -- CAVE_PTBASE
  ⟨0x8, [], .cavePt, [⟨55, 0, .rw, 0, []⟩]⟩,
  -- CAVE_PTSIZE
  ⟨0x10, [], .cavePt, [⟨24, 0, .rw, 0, []⟩]⟩,
  -- CAVE_PTDATA
  ⟨0x18, [], .plain, [⟨63, 0, .rw, 0, []⟩]⟩,
  -- CAVE_PTCMD
  ⟨0x20, [], .cavePtcmd, [⟨63, 63, .ro, 0, []⟩, ⟨62, 62, .ro, 0, []⟩, ⟨25, 24, .wo, 0, [(0, 2)]⟩, ⟨23, 0, .wo, 0, []⟩]⟩,
  -- CAVE_HOMESTAT
  ⟨0x100, [], .homeStat, [⟨63, 48, .rc, 0, []⟩, ⟨38, 32, .ro, 0, []⟩, ⟨17, 0, .ro, 0, []⟩]⟩]

/-- Registers of one block of Tables 1-6 and 1-7. -/
def migHostRegs : List RegGroup := [
  -- MIG_CTL
  ⟨0x0, [], .plain, [⟨63, 63, .rw, 0, []⟩, ⟨47, 32, .rw, 1024, [(1, 65535)]⟩, ⟨7, 0, .rw, 16, []⟩]⟩,
  -- MIG_CMD
  ⟨0x8, [], .migCmd, [⟨63, 62, .wo, 0, [(0, 1)]⟩, ⟨61, 61, .wo, 0, []⟩, ⟨60, 60, .wo, 0, []⟩, ⟨59, 54, .wo, 0, [(0, 47)]⟩, ⟨53, 27, .wo, 0, []⟩, ⟨23, 0, .wo, 0, []⟩]⟩,
  -- MIG_STATUS
  ⟨0x10, [], .migStatus, [⟨63, 63, .ro, 0, []⟩, ⟨60, 56, .ro, 0, []⟩, ⟨47, 32, .rc, 0, []⟩, ⟨23, 0, .ro, 0, []⟩]⟩,
  -- MIG_HCNT_i
  ⟨0x10000, [(8, 65536)], .plain, [⟨15, 0, .rw, 0, []⟩]⟩]

/-- Registers of one block of Tables 1-6 and 1-7. -/
def jetRegs : List RegGroup := [
  -- JET_CTL
  ⟨0x0, [], .plain, [⟨31, 16, .rw, 64, []⟩, ⟨15, 8, .rw, 16, [(1, 255)]⟩, ⟨0, 0, .rw, 1, []⟩]⟩,
  -- JET_LINK_l
  ⟨0x100, [(8, 27)], .jetLink, [⟨63, 32, .rc, 0, []⟩, ⟨15, 8, .ro, 0, []⟩, ⟨2, 0, .ro, 0, []⟩]⟩,
  -- JET_SPARECMD
  ⟨0x200, [], .jetSparecmd, [⟨63, 63, .ro, 0, []⟩, ⟨44, 40, .wo, 0, [(0, 26)]⟩, ⟨39, 39, .wo, 0, []⟩, ⟨37, 30, .wo, 0, [(0, 194)]⟩, ⟨29, 26, .wo, 0, []⟩]⟩,
  -- JET_SPARE_l_d_w
  ⟨0x10000, [(4096, 27), (2048, 2), (8, 25)], .jetSpare, [⟨63, 0, .ro, 1157442765409226768, []⟩]⟩]

/-- Registers of one block of Tables 1-6 and 1-7. -/
def isoEngRegs : List RegGroup := [
  -- ISO_ENGCTL
  ⟨0x0, [], .plain, [⟨55, 48, .rw, 16, [(1, 255)]⟩, ⟨47, 32, .rw, 1024, []⟩, ⟨31, 24, .rw, 56, []⟩, ⟨19, 16, .rw, 12, [(8, 15)]⟩, ⟨15, 8, .rw, 64, []⟩, ⟨0, 0, .rw, 1, []⟩]⟩,
  -- ISO_ENGFLAGS
  ⟨0x8, [], .plain, [⟨5, 5, .w1c, 0, []⟩, ⟨4, 4, .w1c, 0, []⟩, ⟨3, 3, .w1c, 0, []⟩, ⟨2, 2, .w1c, 0, []⟩, ⟨1, 1, .w1c, 0, []⟩, ⟨0, 0, .w1c, 0, []⟩]⟩,
  -- ISO_GUST_l
  ⟨0x100, [(8, 14)], .isoGust, [⟨63, 32, .rc, 0, []⟩, ⟨15, 8, .ro, 0, []⟩, ⟨2, 0, .ro, 0, []⟩]⟩,
  -- ISO_GSPARECMD
  ⟨0x200, [], .gsparecmd, [⟨63, 63, .ro, 0, []⟩, ⟨44, 40, .wo, 0, [(0, 13)]⟩, ⟨39, 39, .wo, 0, []⟩, ⟨37, 30, .wo, 0, [(0, 39)]⟩, ⟨29, 26, .wo, 0, []⟩]⟩,
  -- ISO_GRT_g
  ⟨0x1000, [(8, 1024)], .plain, [⟨15, 15, .rw, 0, []⟩, ⟨14, 8, .rw, 0, [(0, 95)]⟩, ⟨7, 7, .rw, 0, []⟩, ⟨6, 0, .rw, 0, [(0, 95)]⟩]⟩,
  -- ISO_MRT_m
  ⟨0x3000, [(8, 64)], .plain, [⟨7, 7, .rw, 0, []⟩, ⟨6, 0, .rw, 0, [(0, 95)]⟩]⟩,
  -- ISO_XTREE_k word 0
  ⟨0x4000, [(32, 512)], .isoXtree, [⟨63, 63, .rw, 0, []⟩, ⟨62, 61, .rw, 0, []⟩, ⟨60, 60, .rw, 0, []⟩, ⟨59, 59, .rw, 1, []⟩, ⟨58, 56, .rw, 0, [(0, 4)]⟩, ⟨55, 50, .rw, 1, [(1, 49)]⟩, ⟨49, 48, .rw, 3, [(0, 1), (3, 3)]⟩, ⟨47, 42, .rw, 0, [(0, 39)]⟩, ⟨27, 16, .rw, 0, []⟩, ⟨15, 0, .rw, 0, []⟩]⟩,
  -- ISO_XTREE_k word 1
  ⟨0x4008, [(32, 512)], .isoXtree, [⟨63, 40, .rw, 1, [(1, 16777215)]⟩, ⟨16, 6, .rw, 0, []⟩, ⟨5, 0, .rw, 0, [(0, 48)]⟩]⟩,
  -- ISO_XTREE_k word 2
  ⟨0x4010, [(32, 512)], .isoXtree, [⟨63, 48, .rw, 0, []⟩, ⟨47, 32, .rw, 1, [(1, 65535)]⟩, ⟨31, 31, .rw, 0, []⟩, ⟨29, 28, .rw, 0, []⟩, ⟨27, 20, .rw, 64, [(1, 7), (64, 255)]⟩]⟩,
  -- ISO_XTREE_k word 3
  ⟨0x4018, [(32, 512)], .isoXtree, [⟨63, 40, .ro, 0, []⟩, ⟨4, 0, .ro, 0, []⟩]⟩,
  -- ISO_XKID_i
  ⟨0xc000, [(8, 2048)], .plain, [⟨15, 0, .rw, 0, []⟩]⟩]

/-- Registers of one block of Tables 1-6 and 1-7. -/
def isoHpRegs : List RegGroup := [
  -- ISO_HPCTL
  ⟨0x0, [], .isoHpctl, [⟨63, 63, .rw, 0, []⟩, ⟨47, 32, .rw, 0, []⟩, ⟨2, 2, .rw, 0, []⟩, ⟨1, 0, .rw, 0, []⟩]⟩,
  -- ISO_HPSTAT
  ⟨0x8, [], .isoHpstat, [⟨63, 48, .rc, 0, []⟩, ⟨47, 32, .ro, 0, []⟩, ⟨31, 16, .ro, 0, []⟩, ⟨12, 8, .ro, 31, []⟩, ⟨2, 0, .ro, 0, []⟩]⟩,
  -- ISO_NBRSER
  ⟨0x10, [], .plain, [⟨63, 0, .ro, 0, []⟩]⟩,
  -- ISO_NBR
  ⟨0x18, [], .plain, [⟨63, 63, .ro, 0, []⟩, ⟨62, 62, .ro, 0, []⟩, ⟨47, 32, .ro, 0, []⟩, ⟨9, 8, .ro, 0, []⟩, ⟨6, 0, .ro, 0, []⟩]⟩,
  -- ISO_HPCNT
  ⟨0x20, [], .plain, [⟨63, 32, .rc, 0, []⟩, ⟨31, 20, .rc, 0, []⟩, ⟨19, 16, .rc, 0, []⟩, ⟨15, 0, .rc, 0, []⟩]⟩]

/-- Registers of one block of Tables 1-6 and 1-7. -/
def fabricRegs : List RegGroup := [
  -- ISO_MODID
  ⟨0x0, [], .isoModid, [⟨16, 16, .rw, 0, []⟩, ⟨15, 0, .rw, 0, []⟩]⟩,
  -- ISO_SERIAL
  ⟨0x8, [], .isoSerial, [⟨63, 0, .ro, 0, []⟩]⟩,
  -- ISO_TIME
  ⟨0x10, [], .isoTime, [⟨63, 0, .ro, 0, []⟩]⟩,
  -- ISO_TIMESET
  ⟨0x18, [], .isoTimeset, [⟨63, 0, .wo, 0, []⟩]⟩,
  -- ISO_TIMECTL
  ⟨0x20, [], .isoTimectl, [⟨8, 8, .rw, 0, []⟩, ⟨6, 0, .rw, 0, [(0, 95)]⟩]⟩,
  -- ISO_TIMESTAT
  ⟨0x28, [], .plain, [⟨63, 63, .ro, 0, []⟩, ⟨31, 0, .ro, 0, []⟩]⟩]

/-- Registers of one block of Tables 1-6 and 1-7. -/
def rindRegs : List RegGroup := [
  -- RIND_ID
  ⟨0x0, [], .rindId, [⟨63, 48, .ro, 72, []⟩, ⟨47, 40, .ro, 0, []⟩, ⟨39, 32, .ro, 48, []⟩, ⟨31, 24, .ro, 42, []⟩, ⟨23, 16, .ro, 96, []⟩, ⟨15, 8, .ro, 2, []⟩]⟩,
  -- RIND_APERTURE_BASE
  ⟨0x8, [], .plain, [⟨15, 0, .rw, 0, []⟩]⟩,
  -- RIND_FUNCJOB
  ⟨0x10, [], .funcjob, [⟨17, 16, .rw, 3, []⟩, ⟨13, 12, .rw, 2, []⟩, ⟨9, 8, .rw, 1, []⟩, ⟨5, 4, .rw, 0, []⟩, ⟨1, 0, .rw, 0, []⟩]⟩,
  -- RIND_PORTSEL
  ⟨0x18, [], .plain, [⟨13, 8, .rw, 12, [(12, 47)]⟩, ⟨2, 0, .rw, 0, [(0, 3)]⟩]⟩,
  -- RIND_EVQ
  ⟨0x20, [], .evq, [⟨44, 36, .rw, 0, []⟩, ⟨35, 27, .rw, 0, []⟩, ⟨26, 18, .rw, 0, []⟩, ⟨17, 9, .rw, 0, []⟩, ⟨8, 0, .rw, 0, []⟩]⟩,
  -- RIND_RESET
  ⟨0x28, [], .rindReset, [⟨63, 63, .ro, 0, []⟩, ⟨55, 53, .wo, 0, [(0, 5)]⟩, ⟨45, 40, .wo, 0, [(0, 47)]⟩, ⟨37, 32, .wo, 0, [(0, 39)]⟩, ⟨31, 30, .wo, 0, []⟩, ⟨29, 28, .wo, 0, []⟩]⟩,
  -- RIND_LOADSTAT
  ⟨0x30, [], .plain, [⟨63, 63, .ro, 0, []⟩, ⟨55, 48, .ro, 0, []⟩, ⟨43, 40, .ro, 0, []⟩, ⟨39, 0, .ro, 0, []⟩]⟩,
  -- RIND_KEY_s
  ⟨0x40, [(8, 4)], .rindKey, [⟨63, 63, .ro, 0, []⟩, ⟨62, 62, .ro, 0, []⟩, ⟨61, 60, .ro, 0, []⟩, ⟨56, 56, .wo, 0, []⟩, ⟨47, 0, .ro, 0, []⟩]⟩,
  -- RIND_FWSTAT
  ⟨0x60, [], .fwstat, [⟨63, 63, .ro, 0, []⟩, ⟨62, 62, .ro, 0, []⟩, ⟨61, 61, .ro, 0, []⟩, ⟨60, 60, .ro, 0, []⟩, ⟨47, 40, .ro, 0, []⟩, ⟨31, 16, .ro, 0, []⟩, ⟨15, 0, .ro, 0, []⟩]⟩,
  -- RIND_FWCTL
  ⟨0x68, [], .fwctl, [⟨1, 1, .wo, 0, []⟩, ⟨0, 0, .wo, 0, []⟩]⟩,
  -- RIND_PRESS
  ⟨0x70, [], .rindPress, [⟨63, 63, .ro, 0, []⟩, ⟨62, 61, .ro, 0, []⟩, ⟨17, 16, .wo, 0, []⟩, ⟨0, 0, .wo, 0, []⟩]⟩,
  -- RIND_DWIN_f_i
  ⟨0x1000, [(128, 5), (8, 16)], .rindDwin, [⟨63, 63, .rw, 0, []⟩, ⟨55, 32, .rw, 0, []⟩]⟩,
  -- RIND_Q_q word 0
  ⟨0x4000, [(32, 256)], .queueWord, [⟨63, 63, .rw, 0, []⟩, ⟨62, 60, .rw, 0, [(0, 4)]⟩, ⟨59, 56, .rw, 4, [(4, 15)]⟩, ⟨55, 52, .rw, 4, [(4, 15)]⟩, ⟨51, 41, .rw, 0, []⟩, ⟨40, 40, .rw, 0, []⟩, ⟨39, 32, .rw, 1, []⟩, ⟨31, 20, .rw, 8, []⟩]⟩,
  -- RIND_Q_q word 1
  ⟨0x4008, [(32, 256)], .queueWord, [⟨63, 0, .rw, 0, []⟩]⟩,
  -- RIND_Q_q word 2
  ⟨0x4010, [(32, 256)], .queueWord, [⟨63, 0, .rw, 0, []⟩]⟩,
  -- RIND_Q_q word 3
  ⟨0x4018, [(32, 256)], .queueWord, [⟨63, 48, .ro, 0, []⟩, ⟨47, 32, .ro, 0, []⟩, ⟨31, 16, .ro, 0, []⟩, ⟨15, 15, .ro, 1, []⟩, ⟨14, 12, .ro, 0, []⟩, ⟨11, 0, .rc, 0, []⟩]⟩]

/-- Registers of one block of Tables 1-6 and 1-7. -/
def pwrRegs : List RegGroup := [
  -- PWR_CTL
  ⟨0x0, [], .pwrCtl, [⟨63, 63, .rw, 0, []⟩, ⟨47, 32, .rw, 42000, [(10000, 42000)]⟩, ⟨23, 16, .rw, 5, [(1, 255)]⟩, ⟨15, 8, .rw, 95, [(60, 104)]⟩, ⟨7, 0, .rw, 90, [(50, 104)]⟩]⟩,
  -- PWR_DOMCMD
  ⟨0x8, [], .domcmd, [⟨18, 16, .wo, 0, [(0, 4)]⟩, ⟨13, 12, .wo, 0, [(0, 2)]⟩, ⟨8, 8, .wo, 0, []⟩, ⟨5, 0, .wo, 0, [(1, 49)]⟩]⟩,
  -- PWR_MEAS
  ⟨0x10, [], .plain, [⟨63, 48, .ro, 0, []⟩, ⟨47, 32, .ro, 0, []⟩, ⟨31, 16, .ro, 0, []⟩, ⟨3, 0, .ro, 0, []⟩]⟩,
  -- PWR_ENERGY
  ⟨0x18, [], .plain, [⟨63, 0, .ro, 0, []⟩]⟩,
  -- PWR_DOM_d
  ⟨0x100, [(8, 50)], .pwrDom, [⟨47, 40, .ro, 0, []⟩, ⟨39, 36, .ro, 0, []⟩, ⟨33, 32, .ro, 1, []⟩, ⟨31, 28, .ro, 0, []⟩, ⟨27, 27, .ro, 0, []⟩, ⟨26, 26, .ro, 0, []⟩, ⟨25, 25, .ro, 0, []⟩, ⟨24, 24, .ro, 0, []⟩, ⟨3, 0, .ro, 0, []⟩]⟩]

/-- Registers of one block of Tables 1-6 and 1-7. -/
def dbgRindRegs : List RegGroup := [
  -- DBG_CHAL
  ⟨0x0, [], .dbgChal, [⟨63, 0, .ro, 0, []⟩]⟩,
  -- DBG_UNLOCK
  ⟨0x8, [], .dbgUnlock, [⟨63, 63, .ro, 0, []⟩, ⟨62, 61, .ro, 0, []⟩, ⟨60, 56, .ro, 0, []⟩, ⟨9, 8, .ro, 0, []⟩, ⟨3, 3, .wo, 0, []⟩, ⟨2, 1, .wo, 0, [(0, 2)]⟩, ⟨0, 0, .wo, 0, []⟩]⟩,
  -- DBG_RESP_w
  ⟨0x100, [(8, 32)], .dbgResp, [⟨63, 0, .wo, 0, []⟩]⟩]

/-- Registers of one block of Tables 1-6 and 1-7. -/
def edgeRegs : List RegGroup := [
  -- EDGE_OPTGATE
  ⟨0x100, [], .optgate, [⟨47, 0, .rw, 0, []⟩]⟩,
  -- EDGE_OPTSTAT
  ⟨0x108, [], .optstat, [⟨47, 0, .ro, 0, []⟩]⟩]

/-- The registers of one block of one kind of site (Tables 1-6 and 1-7). Blocks 0x01 and 0x02 of a field
    controller (CLK_ and PWR_) and the PCI_ blocks are assigned and hold no register the manual describes. -/
def blockRegs (k : SiteKind) (block : Nat) : Option (List RegGroup) :=
  match k, block with
  | .tile, 0x00 => some tilRegs
  | .tile, 0x01 => some seqRegs
  | .tile, 0x02 => some mxeRegs
  | .tile, 0x03 => some vchRegs
  | .tile, 0x04 => some sfuRegs
  | .tile, 0x05 => some (arbRegs 4)
  | .tile, 0x06 => some spdRegs
  | .tile, 0x07 => some strRegs
  | .tile, 0x08 => some netTileRegs
  | .tile, 0x09 => some updRegs
  | .tile, 0x0A => some spxRegs
  | .tile, 0x0B => some telTileRegs
  | .tile, 0x0C => some dbgTileRegs
  | .tile, 0x10 => some istoreRegs
  | .tile, 0x20 => some accRegs
  | .tile, 0x21 => some accRegs
  | .fieldCtl, 0x00 => some fldRegs
  | .fieldCtl, 0x01 => some []
  | .fieldCtl, 0x02 => some []
  | .fieldCtl, 0x03 => some telFieldRegs
  | .fieldCtl, 0x04 => some dbgFieldRegs
  | .vat, 0x00 => some vatRegs
  | .vat, 0x01 => some (arbRegs 3)
  | .vat, 0x02 => some telVatRegs
  | .cellar, 0x00 => some celRegs
  | .cellar, 0x01 => some (arbRegs 5)
  | .cellar, 0x02 => some caveFieldRegs
  | .cellar, 0x03 => some migFieldRegs
  | .cellar, 0x04 => some telCellarRegs
  | .optical, 0x00 => some isoEngRegs
  | .optical, 0x01 => some isoHpRegs
  | .optical, 0x02 => some isoHpRegs
  | .optical, 0x03 => some (arbRegs 2)
  | .optical, 0x04 => some telOptRegs
  | .station, 0x00 => some jetRegs
  | .station, 0x01 => some netStationRegs
  | .station, 0x02 => some telStationRegs
  | .rindMgmt, 0x00 => some rindRegs
  | .rindMgmt, 0x01 => some pwrRegs
  | .rindMgmt, 0x02 => some telRindRegs
  | .rindMgmt, 0x03 => some dbgRindRegs
  | .rindHost, 0x00 => some caveHostRegs
  | .rindHost, 0x01 => some migHostRegs
  | .edgeCommon, 0x00 => some edgeRegs
  | .edgeCommon, 0x01 => some (arbRegs 4)
  | .pcie0, 0x00 => some []
  | .pcie1, 0x00 => some []
  | .fabric, 0x00 => some fabricRegs
  | _, _ => none

/-- The kind of site that a field code and a site code select (Tables 1-5 and 1-7). -/
def siteKind (field site : Nat) : Option SiteKind :=
  if field < 48 ∨ field = 0x3F then
    if site < 42 then some .tile
    else match site with
      | 0x30 => some .fieldCtl
      | 0x31 => some .vat
      | 0x32 => some .cellar
      | 0x33 => some .optical
      | 0x34 => some .station
      | _ => none
  else match field, site with
    | 0x3C, 0 => some .rindMgmt
    | 0x3C, 1 => some .rindHost
    | 0x3D, 0 => some .edgeCommon
    | 0x3D, 1 => some .pcie0
    | 0x3D, 2 => some .pcie1
    | 0x3D, 4 => some .fabric
    | _, _ => none

/-- The indices that an offset from a group's base stands for, if the group holds a register there. -/
def groupIdx (rem : Nat) : List (Nat × Nat) → Option (List Nat)
  | [] => if rem = 0 then some [] else none
  | (stride, count) :: ds =>
    if rem / stride < count then (groupIdx (rem % stride) ds).map (rem / stride :: ·) else none

/-- The register group that holds the register at an offset, with its indices. -/
def findGroup (off : Nat) : List RegGroup → Option (RegGroup × List Nat)
  | [] => none
  | g :: gs =>
    if g.base ≤ off then
      match groupIdx (off - g.base) g.dims with
      | some is => some (g, is)
      | none => findGroup off gs
    else findGroup off gs

/-- A decoded control address. -/
structure CaParts where
  field : Nat
  site  : Nat
  block : Nat
  off   : Nat
  deriving DecidableEq, Repr

/-- The fields of a control address, Table 1-5 (R19). -/
def caParts (ca : Nat) : CaParts :=
  ⟨ca >>> 34 % 64, ca >>> 28 % 64, ca >>> 20 % 256, ca % 1048576⟩

/-- The control address of an offset in a block of a site. -/
def mkCa (field site block off : Nat) : Nat :=
  field <<< 34 + site <<< 28 + block <<< 20 + off

/-- What a control address selects; none where it is reserved (R19–R22). -/
def decodeCa (ca : Nat) : Option (SiteKind × RegGroup × List Nat) := do
  let p := caParts ca
  let k ← siteKind p.field p.site
  let gs ← blockRegs k p.block
  let (g, is) ← findGroup p.off gs
  return (k, g, is)

/-- Units per period, requesters and cycles per period of an arbiter instance (Table 13-1). -/
def arbShape (k : SiteKind) : Nat × Nat × Nat :=
  match k with
  | .tile => (4, 4, 1)
  | .cellar => (4, 5, 1)
  | .vat => (1, 3, 1)
  | .edgeCommon => (1, 4, 1)
  | .optical => (32, 2, 256)
  | _ => (1, 1, 1)

/-- WEIGHT, BURST, PRE and STHRESH of a requester at reset (Table 13-1). -/
def arbDefaults (k : SiteKind) (i : Nat) : Nat × Nat × Nat × Nat :=
  match k, i with
  | .tile, 0 => (256, 1, 0, 0)
  | .tile, 1 => (256, 1, 0, 0)
  | .tile, 2 => (256, 1, 0, 0)
  | .tile, 3 => (256, 1, 0, 0)
  | .cellar, 0 => (2048, 64, 1, 0)
  | .cellar, 1 => (1024, 64, 1, 0)
  | .cellar, 2 => (256, 16, 0, 256)
  | .cellar, 3 => (32, 4, 0, 64)
  | .cellar, 4 => (8, 1, 0, 1024)
  | .vat, 0 => (512, 1, 0, 0)
  | .vat, 1 => (256, 1, 0, 0)
  | .vat, 2 => (128, 1, 0, 0)
  | .edgeCommon, 0 => (1024, 8, 0, 0)
  | .edgeCommon, 1 => (1024, 8, 0, 0)
  | .edgeCommon, 2 => (1024, 8, 0, 0)
  | .edgeCommon, 3 => (1024, 8, 0, 0)
  | .optical, 0 => (64, 32, 0, 0)
  | .optical, 1 => (16, 2, 0, 64)
  | _, _ => (0, 0, 0, 0)

/-- The reset value that a group's fields give. -/
def fieldsReset : List RegField → Nat
  | [] => 0
  | f :: fs => f.reset <<< f.lo + fieldsReset fs

/-- The reset value of a decoded register, with the cases in which it depends on the register's place or index. -/
def groupReset (p : CaParts) (k : SiteKind) (g : RegGroup) (is : List Nat) : Nat :=
  match g.tag, is with
  | .fldPosition, _ => p.field <<< 8 + (p.field / 8) <<< 4 + p.field % 8
  | .fldTilemap, [t] => 0x80 + t
  | .spdBound, [j] => if j = 0 then 49151 <<< 32 else 1
  | .scrub, _ => 1 <<< 63 + (match k with | .tile => 12 | .vat => 10 | _ => 0) <<< 56
  | .arbCtl, _ => let (d, n, per) := arbShape k; d <<< 40 + n <<< 32 + per <<< 16 + 1024
  | .arbReq, [i] =>
    if p.off % 32 = 0 then
      let (w, b, pre, st) := arbDefaults k i
      st <<< 32 + pre <<< 24 + b <<< 16 + w
    else 0
  | .netJetmask, _ => 1 <<< p.field
  | .pwrDom, [d] => 1 <<< 32 + (if d = 0 then 7 else 0)
  | _, _ => fieldsReset g.fields

/-- The value a register holds at reset: the manual's, by its tables.
    DESIGN CHOICE: notes/assumptions/5. -/
def regReset (ca : Nat) : Word :=
  match decodeCa ca with
  | some (k, g, is) => BitVec.ofNat 64 (groupReset (caParts ca) k g is)
  | none => 0

/-! Control addresses of the registers the rules name. -/

def tileCa (t : Tile) (block off : Nat) : Nat := mkCa t.field.val t.site.val block off
def fcCa (f : FieldNo) (block off : Nat) : Nat := mkCa f.val 0x30 block off
def vatCa (f : FieldNo) (block off : Nat) : Nat := mkCa f.val 0x31 block off
def cellarCa (f : FieldNo) (block off : Nat) : Nat := mkCa f.val 0x32 block off
def engineCa (f : FieldNo) (block off : Nat) : Nat := mkCa f.val 0x33 block off
def stationCa (f : FieldNo) (block off : Nat) : Nat := mkCa f.val 0x34 block off
def rindCa (block off : Nat) : Nat := mkCa 0x3C 0 block off
def hostAgentCa (block off : Nat) : Nat := mkCa 0x3C 1 block off
def edgeCa (block off : Nat) : Nat := mkCa 0x3D 0 block off
def fabricCa (off : Nat) : Nat := mkCa 0x3D 4 0 off

end Sys2Proof.Machine
end

