-- ==== Sys2Proof/Config.lean ====
section
/-! DEFINITION. What manufacture or an implementation fixes, and the values the manual leaves open.
Every constant here but the serial number, which R442 lays out, is opaque: no proof can see its value, so a claim holds whatever it
is. -/

namespace Sys2Proof.Config

/-- Free values, one for each value of the state's counter `free` (DESIGN CHOICE, notes/assumptions/3). -/
opaque freeWord : Nat → Word

/-- The debug nonces, in the order in which DBG_CHAL shows them (R422). -/
opaque nonce : Nat → Word

/-- What manufacture gives the serial number (R442): the factory, the decimal digits of the year and the week (0 the last), and
    the sequence number. -/
opaque factory : Byte
opaque madeDigit : Nat → Fin 10
opaque sequence : BitVec 24

/-- ISO_SERIAL, and the PCIe Device Serial Number (R442). -/
def serial : Word :=
  BitVec.ofNat 64 (0x0048 <<< 48 + factory.toNat <<< 40 + (madeDigit 3).val <<< 36 + (madeDigit 2).val <<< 32 + (madeDigit 1).val <<< 28 +
    (madeDigit 0).val <<< 24 + sequence.toNat)

/-- RIND_ID.STEP, the silicon stepping (chapter 15). -/
opaque stepping : BitVec 8

/-- RIND_KEY_s as fused: PRESENT, REVOKED, USE and ID in the register's layout (chapter 15). -/
opaque keyFuses : Nat → Word

/-- The whole hash fused in key slot s, 48 bytes (R361). -/
opaque keyHash : Nat → List Byte

/-- RIND_FWSTAT as the flash holds it at the first power-on (chapter 15). -/
opaque flashStatus : Word

/-- The security version of the package in a flash slot at the first power-on; 0 slot A, 1 slot B (R368). -/
opaque flashSvn : Nat → Byte

/-- SHA-384, which the manual names and does not define (R361, R362, R422). -/
opaque sha384 : List Byte → List Byte

/-- Whether a signature over a digest verifies under a public key: ECDSA P-384, which the manual names and
    does not define (R361). Arguments: public key, digest, signature. -/
opaque ecdsaVerify : List Byte → List Byte → List Byte → Bool

/-- The MCTP endpoint UUID (R419), 16 bytes. -/
opaque uuid : List Byte

/-- The MCTP and PLDM version numbers and the PLDM terminus ID at power-on, which the manual leaves to the
    specifications it names (R419). -/
opaque mctpVersion : Word
opaque pldmVersion : Word
opaque terminusId : Byte

/-- Max_Payload_Size of a port, as the host has set it (R338). -/
opaque maxPayload : Nat → Nat

/-- The level of a pin of the boundary register when it is sampled (R421). -/
opaque boundaryPin : Nat → Bool

end Sys2Proof.Config
end

