-- ==== Sys2Proof/Machine/State.lean ====
section
/-! DEFINITION. The state of the module: plain data, everything the manual gives the machine. -/

namespace Sys2Proof.Machine

/-- Why the machine stops with a fault. The block raises none: every error the manual names is an effect on the
    state (an event, a flag, a status). -/
inductive Fault where
  /-- Raised by nothing; a fault type needs a name. Safe. -/
  | none
  deriving DecidableEq, Repr

/-- Why a command has no meaning. -/
inductive Refusal where
  /-- Raised by exec alone, for a command without a meaning yet. Safe. -/
  | notModelled (mnemonic : String)
  /-- Raised by a meaning whose operands are ill-formed (WellFormed.lean): no such command exists. Safe. -/
  | illFormed
  deriving DecidableEq, Repr

structure State where
  /-- The commands that wait, first in first out. -/
  pending : List Instr := []
  /-- Every control register, by control address; an unlisted one holds its reset value (chapters 1 to 18). -/
  regs    : Table Word := []
  /-- The live values of the shadowed (RWS) registers of the arbiters, by control address (R300). -/
  live    : Table Word := []
  /-- Every byte of scratchpad and cellar, by physical data address (R25, R26). -/
  mem     : List Host.Cell := []
  /-- Words of mem that hold bit errors, by address div 8: 1 correctable, 2 not (R148, R200). -/
  ecc     : Table Nat := []
  /-- Accumulator elements whose stored residue differs from their mantissa's, by control address (R64, R72). -/
  resBad  : Table Bool := []
  /-- Each field's copy of fabric time, by field (R413). -/
  times   : Table Word := []
  /-- The tiles, by Tile.key. -/
  tiles   : Table TileSt := []
  /-- The shared blocks of the fields, by field. -/
  fields  : Table FieldSt := []
  /-- The Rind's master copy of the epochs, by logical tile (R153). -/
  epochs  : Table Word := []
  /-- The Rind's host agent. -/
  agent   : Agent := {}
  /-- The Rind and the edge beside the host agent (chapters 15 to 19). -/
  rind    : RindSt := {}
  /-- The arbiters, by the control address of their ARB_ blocks (R296–R302). -/
  arbs    : Table ArbSt := []
  /-- The optical engines, by field, and the half-ports (chapter 14). -/
  engines : Table EngSt := []
  hports  : Table HpSt := []
  /-- Fabric time's synchronisation (R332). -/
  sync    : TimeSt := {}
  /-- Packets in flight on the wafer network. -/
  net     : List Packet := []
  /-- The number of the next packet or buffer entry: what came first has the lower one (R180, R182). -/
  netSeq  : Nat := 0
  /-- The link directions of the network, by linkKey: the input that comes next in each channel's round and the flits sent
      (R178, R180). -/
  links   : Table LinkSt := []
  /-- By endpointKey, the ages of the VC-B flits that an endpoint has injected in the last 64 cycles (R184). -/
  vcb     : Table (List Nat) := []
  /-- Events on their way to the Rind. -/
  events  : List Event := []
  /-- The model's own counter of free values read (DESIGN CHOICE, notes/assumptions/3). -/
  free    : Nat := 0
  deriving DecidableEq, Repr

/-- The module right after a cold reset (Table 17-14): every register at its reset value, nothing in memory,
    no work anywhere. -/
def State.reset : State := {}

end Sys2Proof.Machine
end

