-- ==== Sys2Proof/Machine/Ops.lean ====
section
/-! DEFINITION. The named operations over registers, events, counters, memory and the tables of the state. -/

namespace Sys2Proof.Machine

/-- The outcome of every command that has an effect. -/
abbrev Out := Host.Outcome State Fault Refusal

/-! ### Registers -/

/-- The value of a register. -/
def State.reg (s : State) (ca : Nat) : Word := tget (regReset ca) s.regs ca

/-- A register given a value. -/
def State.setReg (s : State) (ca : Nat) (v : Word) : State :=
  { s with regs := tset (regReset ca) s.regs ca v }

/-- The bits [hi:lo] of a register. -/
def State.fld (s : State) (ca hi lo : Nat) : Nat := bits (s.reg ca) hi lo

/-- One bit of a register. -/
def State.bit (s : State) (ca n : Nat) : Bool := (s.reg ca).getLsbD n

/-- The bits [hi:lo] of a register given a value. -/
def State.setFld (s : State) (ca hi lo v : Nat) : State := s.setReg ca (setBits (s.reg ca) hi lo v)

/-- Bits of a register set. -/
def State.orReg (s : State) (ca : Nat) (m : Word) : State := s.setReg ca (s.reg ca ||| m)

/-- One bit of a register set: a flag raised (R5). -/
def State.raise (s : State) (ca n : Nat) : State := s.orReg ca (1 <<< n)

/-- A count that stops at its field's largest value. -/
def State.bumpSat (s : State) (ca hi lo n : Nat) : State :=
  s.setFld ca hi lo (min (s.fld ca hi lo + n) (1 <<< (hi - lo + 1) - 1))

/-- A counter of Table 4-19 advanced by n: COUNT wraps at 2^48, setting WRAP and counting in WRAPS up to 255 (R106). -/
def State.count (s : State) (ca n : Nat) : State :=
  let w := s.reg ca
  let c := bits w 47 0 + n
  if c < 2 ^ 48 then s.setReg ca (setBits w 47 0 c)
  else s.setReg ca (setBits (setBits (setBits w 47 0 (c % 2 ^ 48)) 62 55 (min 255 (bits w 62 55 + 1))) 63 63 1)

/-- The live value of a shadowed register (R300). -/
def State.liveReg (s : State) (ca : Nat) : Word := tget (regReset ca) s.live ca

/-- The live value of a shadowed register given. -/
def State.setLive (s : State) (ca : Nat) (v : Word) : State :=
  { s with live := tset (regReset ca) s.live ca v }

/-! ### Time, power and events -/

/-- Fabric time, ISO_TIME. -/
def State.now (s : State) : Word := s.reg (fabricCa 0x10)

/-- The time copy of the blocks with a field code (R413); the Rind's and the edge's is fabric time itself. -/
def State.timeCopy (s : State) (field : Nat) : Word :=
  if field < 48 then tget 0 s.times field else s.now

/-- PWR_DOM_d.STATE of a power domain (Table 16-2). -/
def State.domState (s : State) (d : Nat) : Nat := s.fld (rindCa 1 (0x100 + 8 * d)) 3 0

/-- The state of a field. -/
def State.fieldState (s : State) (f : Nat) : Nat := s.domState (f + 1)

/-- A field that is REDUCED or FULL (R23, R374). -/
def State.serves (s : State) (f : Nat) : Bool := s.fieldState f == 3 || s.fieldState f == 4

/-- A field that serves or is FREEZING (R385). -/
def State.up (s : State) (f : Nat) : Bool := s.serves f || s.fieldState f == 5

/-- A field that serves and whose clock is not stopped (R379). -/
def State.clocked (s : State) (f : Nat) : Bool := s.serves f && !s.rind.power.stopped.contains f

/-- Whether a tile is halted: a halt takes effect in the first cycle that is not inside a hold of R70 (R423). -/
def TileSt.dbgHalted (x : TileSt) : Bool := x.dbg.halted && (x.mxe.halted || x.mxe.hold == 0)

/-- Whether the update unit and the sparse engine of a tile work: its field's clock runs and the tile is not halted
    (R379, R423). -/
def State.unitRuns (s : State) (t : Tile) : Bool := s.clocked t.field && !TileSt.dbgHalted (tget {} s.tiles t.key)

/-- Whether an optical engine's sub-gate and PD49 are on (R387). -/
def State.engineOn (s : State) (f : Nat) : Bool := s.domState 49 == 7 && s.bit (edgeCa 0 0x100) f

/-- Whether the block a control address lies in is powered and out of TEST: a field's blocks while it serves or is
    FREEZING, its optical engine while its sub-gate is on, the edge's while PD49 is on, the Rind's while standby power is. -/
def State.powered (s : State) (ca : Nat) : Bool :=
  let p := caParts ca
  if p.field < 48 then
    if p.site = 0x33 then s.engineOn p.field else s.up p.field
  else if p.field = 0x3D then s.domState 49 == 7
  else s.rind.pins.standby

/-- Whether the clock of the block a control address lies in runs: it is powered and its field's clock is not stopped. -/
def State.runs (s : State) (ca : Nat) : Bool :=
  let p := caParts ca
  s.powered ca && !(p.site != 0x33 && decide (p.field < 48) && s.rind.power.stopped.contains p.field)

/-- Whether the block a control address lies in answers (R22, R374, R385): it is powered and its field serves; an engine
    is reached through its field's station (R335).
    DEDUCED: notes/assumptions/106. -/
def State.answers (s : State) (ca : Nat) : Bool :=
  let p := caParts ca
  s.powered ca && (p.field ≥ 48 || s.serves p.field)

/-- An event posted to the Rind (Table 15-13): TIME is the reporting block's time copy (R417).
    DEDUCED: notes/assumptions/115. -/
def State.post (s : State) (code : Nat) (job ctx : Option Nat) (field site : Nat) (detail : Word) : State :=
  { s with events := s.events ++ [⟨code, job, ctx, field, site, detail, s.timeCopy field⟩] }

/-- A configuration-error event about a register (R7, R17): DETAIL is its control address. -/
def State.configError (s : State) (ca : Nat) : State :=
  let p := caParts ca
  s.post 0x04 none none p.field p.site (BitVec.ofNat 64 (ca % 2 ^ 40))

/-- An address-error event about a control address (R22). The Rind answers for what nothing else does.
    DEDUCED: notes/assumptions/10. -/
def State.caError (s : State) (ca : Nat) : State :=
  s.post 0x05 none none 0x3C 0 (BitVec.ofNat 64 (ca % 2 ^ 40))

/-- A free value: the next of the unconstrained ones (DESIGN CHOICE, notes/assumptions/3). -/
def State.freshWord (s : State) : Word × State := (Config.freeWord s.free, { s with free := s.free + 1 })

/-- An event for which the spec asks a log entry and Table 15-15 gives no code: its code and its detail are free values
    (DESIGN CHOICE, notes/assumptions/74). -/
def State.postOpen (s : State) (job ctx : Option Nat) (field site : Nat) : State :=
  let (c, s) := s.freshWord
  let (d, s) := s.freshWord
  s.post (c.toNat % 256) job ctx field site d

/-! ### Sorting -/

/-- A member put in its place in a sorted list, before those that it does not follow. -/
def insertBy {α : Type} (le : α → α → Bool) (x : α) : List α → List α
  | [] => [x]
  | y :: ys => if le x y then x :: y :: ys else y :: insertBy le x ys

/-- A list sorted, members of one rank in the order in which they stand. -/
def sortBy {α : Type} (le : α → α → Bool) (l : List α) : List α := l.foldr (insertBy le) []

/-! ### Register access by access code (R3–R7) -/

/-- Whether a value is a code of the field that is not reserved. -/
def RegField.ok (f : RegField) (v : Nat) : Bool :=
  f.legal.isEmpty || f.legal.any fun r => decide (r.1 ≤ v ∧ v ≤ r.2)

/-- Whether a written value carries a reserved code in a WO field (R7). -/
def woReserved (fs : List RegField) (v : Word) : Bool :=
  fs.any fun f => f.acc == .wo && !RegField.ok f (bits v f.hi f.lo)

/-- Whether a written value carries a reserved code in an RW or RWS field (R7). -/
def rwReserved (fs : List RegField) (v : Word) : Bool :=
  fs.any fun f => (f.acc == .rw || f.acc == .rws) && !RegField.ok f (bits v f.hi f.lo)

/-- One field of a register after a write, by its access code (Table 0-2, R7). -/
def storeField (old v : Word) (f : RegField) : Word :=
  let x := bits v f.hi f.lo
  match f.acc with
  | .rw => if RegField.ok f x then setBits old f.hi f.lo x else old
  | .rws => if RegField.ok f x then setBits old f.hi f.lo x else old
  | .w1c => old &&& ~~~(BitVec.ofNat 64 (x <<< f.lo))
  | _ => old

/-- A register after a write, field by field. -/
def storeFields (fs : List RegField) (old v : Word) : Word := fs.foldl (fun w f => storeField w v f) old

/-- A write to a register by its access codes alone (R3, R4, R7). -/
def State.plainWrite (s : State) (ca : Nat) (g : RegGroup) (v : Word) : State :=
  if woReserved g.fields v then s.configError ca
  else
    let s1 := s.setReg ca (storeFields g.fields (s.reg ca) v)
    if rwReserved g.fields v then s1.configError ca else s1

/-- The bits of a register that a read shows: those of its fields that are neither RSV nor WO (R3, R4). -/
def readMask (fs : List RegField) : Word :=
  fs.foldl (fun m f => if f.acc == .wo then m else m ||| BitVec.ofNat 64 ((1 <<< (f.hi + 1 - f.lo) - 1) <<< f.lo)) 0

/-- A register as a read returns it, with its WO fields and its RSV bits read as 0 (R3, R4). -/
def maskWo (fs : List RegField) (w : Word) : Word := w &&& readMask fs

/-- A register after a full-width read: its RC fields cleared (R4, R5). -/
def clearRc (fs : List RegField) (w : Word) : Word :=
  fs.foldl (fun w f => if f.acc == .rc then setBits w f.hi f.lo 0 else w) w

/-! ### Memory -/

/-- One byte of scratchpad or cellar; an unwritten byte reads 0 (DESIGN CHOICE, notes/assumptions/2). -/
def State.byte (s : State) (a : Nat) : Byte := tget 0 s.mem a

/-- One byte written. -/
def State.setByte (s : State) (a : Nat) (b : Byte) : State := { s with mem := tset 0 s.mem a b }

/-- Whether memory is in its one canonical form. -/
def Memory.wf (m : List Host.Cell) : Bool := twf (fun _ => (0 : Byte)) m

/-- n bytes from an address. -/
def State.bytes (s : State) (a n : Nat) : List Byte := (List.range n).map fun i => s.byte (a + i)

/-- Bytes written from an address. -/
def State.setBytes (s : State) (a : Nat) : List Byte → State
  | [] => s
  | b :: bs => State.setBytes (s.setByte a b) (a + 1) bs

/-- The bytes of a range cleared to 0. -/
def State.clearRange (s : State) (a n : Nat) : State :=
  { s with mem := tclear (fun k => decide (a ≤ k ∧ k < a + n)) s.mem,
           ecc := tclear (fun k => decide (a / 8 ≤ k ∧ k < (a + n) / 8)) s.ecc }

/-- The error state of the 8-byte word that holds a byte: 0 none, 1 correctable, 2 uncorrectable (R148). -/
def State.wordErr (s : State) (a : Nat) : Nat := tget 0 s.ecc (a / 8)

/-- The error state of a word given. -/
def State.setErr (s : State) (a e : Nat) : State := { s with ecc := tset 0 s.ecc (a / 8) e }

/-- The words, by address div 8, that a range of bytes touches. -/
def wordsOf (a n : Nat) : List Nat := if n = 0 then [] else (List.range ((a + n - 1) / 8 - a / 8 + 1)).map (a / 8 + ·)

/-- Physical address of a scratchpad byte: its physical-mode direct address (R25). -/
def padAddr (t : Tile) (off : Nat) : Nat := 0x40000000000000 + t.field.val <<< 31 + t.site.val <<< 25 + off

/-- Physical address of a cellar byte: its cellar direct address (R26). -/
def cellarAddr (f : Nat) (off : Nat) : Nat := 0x60000000000000 + f <<< 35 + off

/-! ### Tiles -/

/-- The state of a tile. -/
def State.tile (s : State) (t : Tile) : TileSt := tget {} s.tiles t.key

/-- The state of a tile changed. -/
def State.modTile (s : State) (t : Tile) (f : TileSt → TileSt) : State :=
  { s with tiles := tset {} s.tiles t.key (f (s.tile t)) }

/-- The shared blocks of a field. -/
def State.fieldSt (s : State) (f : Nat) : FieldSt := tget {} s.fields f

/-- The shared blocks of a field changed. -/
def State.modField (s : State) (f : Nat) (g : FieldSt → FieldSt) : State :=
  { s with fields := tset {} s.fields f (g (s.fieldSt f)) }

/-- A context of a tile. -/
def State.ctx (s : State) (t : Tile) (c : CtxNo) : Ctx := tget {} (s.tile t).ctxs c.val

/-- A context of a tile changed. -/
def State.modCtx (s : State) (t : Tile) (c : CtxNo) (f : Ctx → Ctx) : State :=
  s.modTile t fun x => { x with ctxs := tset {} x.ctxs c.val (f (tget {} x.ctxs c.val)) }

/-- One stream engine's state for one context; engines 0 stream-in A, 1 stream-in B, 2 stream-out. -/
def State.eng (s : State) (t : Tile) (e : Fin 3) (c : CtxNo) : StreamCtx := tget {} (s.tile t).eng (4 * e.val + c.val)

/-- One stream engine's state for one context changed. -/
def State.modEng (s : State) (t : Tile) (e : Fin 3) (c : CtxNo) (f : StreamCtx → StreamCtx) : State :=
  s.modTile t fun x => { x with eng := tset {} x.eng (4 * e.val + c.val) (f (tget {} x.eng (4 * e.val + c.val))) }

/-- TIL_CTXCFG_c. -/
def ctxcfgCa (t : Tile) (c : CtxNo) : Nat := tileCa t 0x00 (0x100 + 8 * c.val)

/-- The job domain of a context. -/
def State.jobOf (s : State) (t : Tile) (c : CtxNo) : JobNo := Fin.ofNat 4 (s.fld (ctxcfgCa t c) 1 0)

/-- An event that names a tile and a context, with the context's job domain. -/
def State.postCtx (s : State) (code : Nat) (t : Tile) (c : CtxNo) (detail : Word) : State :=
  s.post code (some (s.jobOf t c).val) (some c.val) t.field.val t.site.val detail

/-- An event that names a tile alone. -/
def State.postTile (s : State) (code : Nat) (t : Tile) (detail : Word) : State :=
  s.post code none none t.field.val t.site.val detail

/-- A context that is RUNNING or STOPPING. -/
def Ctx.live (x : Ctx) : Bool := x.state == .running || x.state == .stopping

/-- A context that is EMPTY or STOPPED. -/
def Ctx.idle (x : Ctx) : Bool := x.state == .empty || x.state == .stopped

/-- A tile counter TEL_CNT_k advanced. -/
def State.tel (s : State) (t : Tile) (k n : Nat) : State := s.count (tileCa t 0x0B (0x100 + 8 * k)) n

/-- The job domains' name of all four contexts. -/
def allCtx : List CtxNo := [0, 1, 2, 3]

/-- The logical tile a site of a field holds, under the map in force (R16). -/
def State.logicalOf (s : State) (t : Tile) : Option Nat :=
  (List.range 40).find? (fun k => let w := s.reg (fcCa t.field 0 (0x1000 + 8 * k)); bits w 7 7 == 1 && bits w 5 0 == t.site.val)

/-- The site that holds logical tile t of a field; none where EN = 0 (R18). -/
def State.siteOf (s : State) (f : FieldNo) (t : Nat) : Option Tile :=
  if t < 40 then
    let w := s.reg (fcCa f 0 (0x1000 + 8 * t))
    if bits w 7 7 = 1 then (if h : bits w 5 0 < 42 then some ⟨f, ⟨bits w 5 0, h⟩⟩ else none) else none
  else none

/-- The tile that holds a logical tile of the module, 40·f + t. -/
def State.tileOfLogical (s : State) (n : Nat) : Option Tile :=
  if h : n / 40 < 48 then s.siteOf ⟨n / 40, h⟩ (n % 40) else none

/-- A list of numbers with a new value at a position. -/
def setAt {α : Type} (l : List α) (i : Nat) (v : α) : List α := l.set i v

/-- Sticky lane flags ORed into an array of lane-flag registers of 64 / per lanes each (R6). -/
def State.laneFlags (s : State) (ca0 per : Nat) (fls : List Flags) : State :=
  (List.range fls.length).foldl (fun s l =>
    let f := fls.getD l 0
    if f = 0 then s
    else s.orReg (ca0 + 8 * (l / (64 / per))) (BitVec.ofNat 64 ((f.toNat % (1 <<< per)) <<< (per * (l % (64 / per)))))) s

/-- The OR of a list of flag sets. -/
def orFlags (fls : List Flags) : Flags := fls.foldl (· ||| ·) 0

end Sys2Proof.Machine
end

