-- ==== Sys2Proof/Machine/Arbiter.lean ====
section
/-! DEFINITION. The weighted-share arbiters (chapter 13): windows, ranking, grants, pre-emption and commits. -/

namespace Sys2Proof.Machine

/-- The control address of an instance's ARB_ block (Table 13-1). -/
def arbBase : ArbInst → Nat
  | .sfu t => tileCa t 0x05 0
  | .cellar f => cellarCa f 1 0
  | .vat f => vatCa f 1 0
  | .host => edgeCa 1 0
  | .optical f => engineCa f 3 0

/-- D, NREQ and PERIOD of the instance of a block. -/
def arbDims (base : Nat) : Nat × Nat × Nat :=
  match siteKind (caParts base).field (caParts base).site with
  | some k => arbShape k
  | none => (1, 1, 1)

/-- The code of an instance in a starved event (R417). -/
def arbCode (base : Nat) : Nat :=
  match siteKind (caParts base).field (caParts base).site with
  | some .tile => 1
  | some .cellar => 2
  | some .vat => 3
  | some .edgeCommon => 4
  | _ => 5

def arbReqCa (base i w : Nat) : Nat := base + 0x100 + 0x20 * i + 8 * w

def State.arb (s : State) (base : Nat) : ArbSt := tget {} s.arbs base
def State.setArb (s : State) (base : Nat) (x : ArbSt) : State := { s with arbs := tset {} s.arbs base x }

/-- Live settings of a requester. -/
def State.arbWeight (s : State) (base i : Nat) : Nat := bits (s.liveReg (arbReqCa base i 0)) 11 0
def State.arbBurst (s : State) (base i : Nat) : Nat := bits (s.liveReg (arbReqCa base i 0)) 23 16
def State.arbPre (s : State) (base i : Nat) : Bool := (s.liveReg (arbReqCa base i 0)).getLsbD 24

/-- The live WINDOW. -/
def State.arbWindow (s : State) (base : Nat) : Nat := bits (s.liveReg base) 15 0

/-- A requester's credit counter. -/
def State.arbCredit (s : State) (base i : Nat) : Nat := s.fld (arbReqCa base i 1) 11 0

/-- The owner of the grant. -/
def State.arbOwner (s : State) (base : Nat) : Option Nat :=
  if s.bit (base + 0x18) 63 then some (s.fld (base + 0x18) 58 56) else none

/-- A requester that has waited a whole window: WAITWIN, and at STHRESH the starved event (R302). -/
def State.arbWaited (s : State) (base i : Nat) : State :=
  let x := s.arb base
  let s := s.bumpSat (arbReqCa base i 1) 47 32 1
  let th := s.fld (arbReqCa base i 0) 47 32
  if th = 0 ∨ s.fld (arbReqCa base i 1) 47 32 < th ∨ x.told.getD i false then s
  else
    let p := caParts base
    let s := (s.raise (base + 0x10) i).post 0x13 none none p.field p.site (BitVec.ofNat 64 (arbCode base <<< 8 + i))
    s.setArb base { x with told := (List.range 8).map fun j => j == i || x.told.getD j false }

/-- The start of a window (R296): the window that ended is counted where it ran its whole length, and every counter loaded with
    its live weight. -/
def State.arbWindowStart (s : State) (base : Nat) : State :=
  let n := (arbDims base).2.1
  let whole := (s.arb base).whole
  let waited := (s.arb base).waited
  let s := (List.range n).foldl (fun s i => if whole && waited.getD i false then s.arbWaited base i else s) s
  let s := (List.range n).foldl (fun s i => s.setFld (arbReqCa base i 1) 11 0 (s.arbWeight base i)) s
  let s := s.setFld (base + 0x18) 15 0 0
  s.setArb base { s.arb base with due := false, whole := false, waited := List.replicate 8 true }

/-- The raised requesters in rank: the owner, then fullest counter first, then lowest index first (R297). -/
def State.arbRank (s : State) (base : Nat) (raised : Nat → Bool) : List Nat :=
  let rs := (List.range (arbDims base).2.1).filter raised
  let own := rs.filter fun i => some i == s.arbOwner base
  let rest := rs.filter fun i => some i != s.arbOwner base
  own ++ sortBy (fun a b =>
    decide (s.arbCredit base b < s.arbCredit base a ∨ (s.arbCredit base a = s.arbCredit base b ∧ a ≤ b))) rest

/-- Units handed to the ranked requesters in order (R297). -/
def handOut (ask : Nat → ArbAsk) : Nat → List Nat → List (Nat × Nat)
  | _, [] => []
  | left, i :: is => (i, min left (ask i).demand) :: handOut ask (left - min left (ask i).demand) is

/-- Units served to a requester: its counter, progress, count and waits (R296, R299, R302). -/
def State.arbServe (s : State) (base i n cost : Nat) : State :=
  if n = 0 then s
  else
    let s := s.setFld (arbReqCa base i 1) 11 0 (s.arbCredit base i - n * cost)
    let s := s.setFld (arbReqCa base i 2) 31 0 (s.fld (arbReqCa base i 2) 31 0 + n)
    let s := s.bumpSat (arbReqCa base i 3) 47 0 n
    let s := s.setFld (arbReqCa base i 1) 47 32 0
    let s := if s.arbOwner base = some i then s.bumpSat (base + 0x18) 55 48 n else s
    let x := s.arb base
    s.setArb base { x with waited := (List.range 8).map fun j => j != i && x.waited.getD j false,
                           told := (List.range 8).map fun j => j != i && x.told.getD j false }

/-- A requester at the end of a period: RAISED as it then stands; with a request that the period has lowered, or that stood
    lowered at its start, waits and progress back to 0 (R299). -/
def State.arbLower (s : State) (base i : Nat) (kept again : Bool) : State :=
  let s := s.setFld (arbReqCa base i 1) 63 63 (if kept || again then 1 else 0)
  if kept then s
  else
    let s := (s.setFld (arbReqCa base i 2) 31 0 0).setFld (arbReqCa base i 1) 47 32 0
    let x := s.arb base
    s.setArb base { x with waited := (List.range 8).map fun j => j != i && x.waited.getD j false }

/-- The grant given or ended. -/
def State.arbGrant (s : State) (base : Nat) (o : Option Nat) : State :=
  let s := (List.range (arbDims base).2.1).foldl (fun s i => s.setFld (arbReqCa base i 1) 62 62 (if o = some i then 1 else 0)) s
  match o with
  | some i => ((s.setFld (base + 0x18) 63 63 1).setFld (base + 0x18) 58 56 i).setFld (base + 0x18) 55 48 0
  | none => (s.setFld (base + 0x18) 63 63 0).setFld (base + 0x18) 55 48 0

/-- Whether the grant ends with the period (R298, R299). -/
def State.arbEnds (s : State) (base o : Nat) (kept : Bool) : Bool :=
  !kept || (s.arbBurst base o != 0 && decide (s.arbBurst base o ≤ s.fld (base + 0x18) 55 48)) ||
  (!s.arbPre base o && (List.range (arbDims base).2.1).any fun i =>
    s.bit (arbReqCa base i 1) 63 && s.arbPre base i && decide (s.arbCredit base o < s.arbCredit base i))

/-- The cost of a unit: 1, but for a TLP of b bytes of host DMA ceil(b/64) (R296). -/
def arbCost (base : Nat) (a : ArbAsk) : Nat := if arbCode base = 4 then (a.bytes + 63) / 64 else 1

/-- A requester that asks for nothing. -/
def noAsk : ArbAsk := ⟨false, 0, 0, false, false⟩

/-- The units a hand-out gives a requester. -/
def shareOf (shares : List (Nat × Nat)) (i : Nat) : Nat := ((shares.find? fun e => e.1 == i).map (·.2)).getD 0

/-- Whether a request stays raised over a period: it was, and its last unit has not ended its operation. -/
def ArbAsk.kept (a : ArbAsk) (share : Nat) : Bool := a.raised && !(a.lowers && decide (share = a.demand))

/-- Whether the units handed to a requester wait until a command uses them: all but those of the SFU instances, whose rows are
    served at once, and of the optical lanes' traffic. -/
def keepsUnits (base i : Nat) : Bool := arbCode base != 1 && (arbCode base != 5 || i == 1)

/-- One period of an instance (R295–R299): the ranking, and the state after.
    DEDUCED: notes/assumptions/78. -/
def State.arbRun (s : State) (base : Nat) (asks : List ArbAsk) : List Nat × State :=
  let (d, n, per) := arbDims base
  let ask (i : Nat) : ArbAsk := asks.getD i noAsk
  let s := if (s.arb base).due then s.arbWindowStart base else s
  let s := match s.arbOwner base with
    | some o => if (ask o).raised then s else s.arbGrant base none
    | none => s
  let rank := s.arbRank base fun i => (ask i).raised
  let s := match s.arbOwner base, rank with
    | none, i :: _ => s.arbGrant base (some i)
    | _, _ => s
  let shares := handOut ask d rank
  let kept (i : Nat) : Bool := ArbAsk.kept (ask i) (shareOf shares i)
  let s := shares.foldl (fun s e => s.arbServe base e.1 e.2 (arbCost base (ask e.1))) s
  let s := (List.range n).foldl (fun s i => s.arbLower base i (kept i) (ask i).again) s
  let s := match s.arbOwner base with
    | some o => if s.arbEnds base o (kept o) then s.arbGrant base none else s
    | none => s
  let s : State := s.setFld (base + 0x18) 15 0 (s.fld (base + 0x18) 15 0 + per)
  let x := s.arb base
  let full := decide (s.arbWindow base ≤ s.fld (base + 0x18) 15 0)
  let units (i : Nat) : Nat := if keepsUnits base i then x.grants.getD i 0 + shareOf shares i else 0
  (rank, s.setArb base { x with due := x.due || full, whole := x.whole || full, grants := (List.range 8).map units })

/-- One period of an instance. -/
def State.arbPeriod (s : State) (base : Nat) (asks : List ArbAsk) : State := (s.arbRun base asks).2

/-- A unit handed to a requester is used; none where it has none left (R297). -/
def State.arbTake (s : State) (base i : Nat) : Option State :=
  let x := s.arb base
  match x.grants.getD i 0 with
  | 0 => none
  | n + 1 => some (s.setArb base { x with grants := x.grants.set i n })

/-- WINDOW_START: a window that is due starts. -/
def execWindowStart (i : ArbInst) (s : State) : Out :=
  if s.runs (arbBase i) && (s.arb (arbBase i)).due then .next (s.arbWindowStart (arbBase i)) else .next s

/-- Every shadow of an instance copied into the live settings (R300). -/
def State.arbCopy (s : State) (base : Nat) : State :=
  (List.range (arbDims base).2.1).foldl (fun s i => s.setLive (arbReqCa base i 0) (s.reg (arbReqCa base i 0)))
    (s.setLive base (s.reg base))

/-- A write of ARB_COMMIT (R300): a commit, refused where the shadow WINDOW is no whole number of periods; and REFILL.
    DEDUCED: notes/assumptions/77. -/
def State.arbCommit (s : State) (base : Nat) (commit refill : Bool) : State :=
  let w := s.fld base 15 0
  let bad := decide (w = 0 ∨ w % (arbDims base).2.2 ≠ 0)
  if commit && bad then (s.raise (base + 0x10) 16).configError (base + 8)
  else
    let s := if commit then s.arbCopy base else s
    if refill then s.setArb base { s.arb base with due := true } else s

/-- COMMIT: a write of 1 to ARB_COMMIT.COMMIT, with or without REFILL. -/
def execCommit (i : ArbInst) (refill : Bool) (s : State) : Out :=
  if s.answers (arbBase i) then .next (s.arbCommit (arbBase i) true refill) else .next (s.caError (arbBase i + 8))

/-- REFILL: a write of 1 to ARB_COMMIT.REFILL alone. -/
def execRefill (i : ArbInst) (s : State) : Out :=
  if s.answers (arbBase i) then .next (s.arbCommit (arbBase i) false true) else .next (s.caError (arbBase i + 8))

end Sys2Proof.Machine
end

