-- ==== Sys2Proof/Machine/Operands.lean ====
section
/-! DEFINITION. Operand forms: data addresses (R24–R27), tensor descriptors (R156), the slots of a bundle
(Tables 4-3 to 4-9) and stream-program instructions (Table 7-7). -/

namespace Sys2Proof.Machine

/-! ### Data addresses -/

/-- Where a data address leads (Table 1-8), by its bits alone. -/
inductive Place1 where
  | cave (a : Nat)
  | padLogical (f : FieldNo) (t off : Nat)
  | padPhysical (t : Tile) (off : Nat)
  | cellar (f : FieldNo) (off : Nat)
  | host (iova : Nat)
  | unmapped
  deriving DecidableEq, Repr

/-- Decode a 56-bit data address (R24–R27). -/
def decodeAddr (a : Nat) : Place1 :=
  let top := a >>> 52 % 16
  if top < 4 then .cave (a % 2 ^ 54)
  else if top = 4 ∨ top = 5 then
    let f := a >>> 31 % 64
    let u := a >>> 25 % 64
    let off := a % 2 ^ 25
    if a >>> 38 % 2 ^ 15 ≠ 0 ∨ off ≥ 0x1800000 then .unmapped
    else if hf : f < 48 then
      if a >>> 37 % 2 = 1 then (if u < 40 then .padLogical ⟨f, hf⟩ u off else .unmapped)
      else if hu : u < 42 then .padPhysical ⟨⟨f, hf⟩, ⟨u, hu⟩⟩ off else .unmapped
    else .unmapped
  else if top = 6 then
    let f := a >>> 35 % 64
    let off := a % 2 ^ 35
    if a >>> 41 % 2 ^ 11 ≠ 0 ∨ off ≥ 0x600000000 then .unmapped
    else if hf : f < 48 then .cellar ⟨f, hf⟩ off else .unmapped
  else if top = 7 then (if a >>> 48 % 16 ≠ 0 then .unmapped else .host (a % 2 ^ 48))
  else .unmapped

/-- The bytes of error fill for an entry that is not in a block format: words of 0x8000_0000_0000_0000 (R148). -/
def rawFill (n : Nat) : List Byte := (List.range n).map fun i => if i % 8 = 7 then 0x80 else 0

/-- The bytes of error fill for nb blocks: poison mantissas, then zero exponent bytes (R148). -/
def blockFill (f : Fmt) (nb : Nat) : List Byte :=
  (List.replicate nb (packMantissas f (List.replicate 32 (poisonMant f)))).flatten ++ List.replicate nb 0

/-! ### Tensor descriptors (Table 7-6) -/

/-- A tensor descriptor; `fmt` is none for RAW. -/
structure TensorDesc where
  fmt     : Option Fmt
  loc     : Bool
  xm      : Bool
  mbase   : Nat
  sofs    : Int
  rstride : Nat
  sstride : Nat
  deriving DecidableEq, Repr

/-- A descriptor from its two words, none where a reserved bit is set (R155, R156). -/
def tensorDesc (w0 w1 : Word) : Option TensorDesc :=
  let loc := w0.getLsbD 61
  if bits w0 59 56 ≠ 0 ∨ (loc = true ∧ bits w0 55 25 ≠ 0) then none
  else some ⟨fmtOf (bits w0 63 62), loc, w0.getLsbD 60, bits w0 55 0, signed 24 (bits w1 63 40), bits w1 39 20, bits w1 19 0⟩

/-- A byte address of a descriptor: modulo 2^25 for a local one and 2^56 for a data address (R156). -/
def TensorDesc.wrap (d : TensorDesc) (a : Int) : Nat := (a % (if d.loc then 2 ^ 25 else 2 ^ 56)).toNat

/-- Address of the mantissas of block n of row r (R156). -/
def mantAddr (d : TensorDesc) (f : Fmt) (r n : Int) : Nat :=
  TensorDesc.wrap d ((d.mbase : Int) + r * d.rstride + n * blockBytes f)

/-- Address of the exponent byte of block n of row r (R156). -/
def scaleAddr (d : TensorDesc) (r n : Int) : Nat :=
  TensorDesc.wrap d ((d.mbase : Int) + d.sofs + r * d.sstride + n)

/-- Address of a RAW row (R156). -/
def rawAddr (d : TensorDesc) (i j : Int) (wofs : Nat) : Nat :=
  TensorDesc.wrap d ((d.mbase : Int) + i * d.rstride + j * d.sstride + 8 * wofs)

/-! ### Bundle slots -/

/-- Sequencer slot (Table 4-4). -/
inductive SeqSlot where
  | nop
  | setlc (n : Fin 8) (imm : BitVec 24)
  | djnz (n : Fin 8) (target : BitVec 13)
  | jmp (target : BitVec 13)
  | brz (n : Fin 8) (target : BitVec 13)
  | addlc (n : Fin 8) (imm : BitVec 24)
  | ldlc (n : Fin 8) (word : BitVec 22)
  | brtok (src : Fin 3) (ty : Byte) (target : BitVec 13)
  | wait (cond : Fin 8) (n : BitVec 20)
  | yield
  | notify (code : BitVec 16)
  | endCtx (code : BitVec 16)
  deriving DecidableEq, Repr

/-- Stream slot (Table 4-8). -/
inductive StreamSlot where
  | nop
  | start (prog : Fin 16) (psrc : Bool) (plc : Fin 8) (param : BitVec 20)
  | stop
  | newgen
  deriving DecidableEq, Repr

/-- A decoded bundle (Table 4-3). -/
structure Bundle where
  seq    : SeqSlot := .nop
  run    : Option RunSlot := none
  chain  : Option ChainSlot := none
  sia    : StreamSlot := .nop
  sib    : StreamSlot := .nop
  out    : StreamSlot := .nop
  tok    : Option TokSlot := none
  deriving DecidableEq, Repr

/-- A token type that is not reserved (Table 4-10). -/
def tokenOk (ty : Nat) : Bool := decide ((1 ≤ ty ∧ ty ≤ 7) ∨ 64 ≤ ty)

/-- The bits [hi:lo] of a number. -/
def nbits (v hi lo : Nat) : Nat := v >>> lo % (1 <<< (hi - lo + 1))

/-- The sequencer slot of a bundle; none for a reserved code (R86, R87). -/
def decodeSeq (v : Nat) : Option SeqSlot :=
  let n : Fin 8 := Fin.ofNat 8 (nbits v 26 24)
  let tgt := BitVec.ofNat 13 (nbits v 12 0)
  let imm := BitVec.ofNat 24 (nbits v 23 0)
  match nbits v 31 27 with
  | 0x00 => if nbits v 26 0 = 0 then some .nop else none
  | 0x01 => some (.setlc n imm)
  | 0x02 => if nbits v 23 13 = 0 then some (.djnz n tgt) else none
  | 0x03 => if nbits v 26 13 = 0 then some (.jmp tgt) else none
  | 0x04 => if nbits v 23 13 = 0 then some (.brz n tgt) else none
  | 0x05 => some (.addlc n imm)
  | 0x06 => if nbits v 23 22 = 0 then some (.ldlc n (BitVec.ofNat 22 (nbits v 21 0))) else none
  | 0x07 =>
    if nbits v 24 21 = 0 ∧ nbits v 26 25 < 3 then
      some (.brtok (Fin.ofNat 3 (nbits v 26 25)) (BitVec.ofNat 8 (nbits v 20 13)) tgt) else none
  | 0x08 =>
    let c := nbits v 26 23
    if nbits v 22 20 = 0 ∧ 1 ≤ c ∧ c ≤ 7 ∧ (c = 6 ∨ nbits v 19 0 = 0) then
      some (.wait (Fin.ofNat 8 c) (BitVec.ofNat 20 (nbits v 19 0))) else none
  | 0x09 => if nbits v 26 0 = 0 then some .yield else none
  | 0x0A => if nbits v 26 16 = 0 then some (.notify (BitVec.ofNat 16 (nbits v 15 0))) else none
  | 0x0B => if nbits v 26 16 = 0 then some (.endCtx (BitVec.ofNat 16 (nbits v 15 0))) else none
  | _ => none

/-- The matrix slot; none for a reserved code (Table 4-6). -/
def decodeRun (v : Nat) : Option (Option RunSlot) :=
  match nbits v 47 44 with
  | 0 => if nbits v 35 0 = 0 then some none else none
  | 1 => if nbits v 35 0 = 0 then
      some (some ⟨Fin.ofNat 8 (nbits v 43 41), nbits v 40 40 = 1, Fin.ofNat 8 (nbits v 39 37), nbits v 36 36 = 1⟩) else none
  | _ => none

/-- The vector slot; none for a reserved code (Table 4-7). -/
def decodeChain (v : Nat) : Option (Option ChainSlot) :=
  match nbits v 47 44 with
  | 0 => if nbits v 15 0 = 0 ∧ nbits v 29 20 ≤ 512 then some none else none
  | 1 =>
    let n := nbits v 29 20
    if nbits v 15 0 = 0 ∧ 1 ≤ n ∧ n ≤ 512 then
      some (some ⟨Fin.ofNat 16 (nbits v 43 40), BitVec.ofNat 10 (nbits v 39 30), n, nbits v 19 19 = 1, Fin.ofNat 8 (nbits v 18 16)⟩)
    else none
  | _ => none

/-- A stream slot; none for a reserved code (Table 4-8). -/
def decodeStream (v : Nat) : Option StreamSlot :=
  let free := nbits v 27 23 = 0 ∧ nbits v 19 0 = 0
  match nbits v 31 28 with
  | 0 => if free then some .nop else none
  | 1 => some (.start (Fin.ofNat 16 (nbits v 27 24)) (nbits v 23 23 = 1) (Fin.ofNat 8 (nbits v 22 20)) (BitVec.ofNat 20 (nbits v 19 0)))
  | 2 => if free then some .stop else none
  | 3 => if free then some .newgen else none
  | _ => none

/-- The network slot; none for a reserved code (Table 4-9). -/
def decodeTok (v : Nat) : Option (Option TokSlot) :=
  let ty := nbits v 27 20
  let k := nbits v 19 18
  let d := nbits v 11 0
  match nbits v 31 28 with
  | 0 => if k < 3 ∧ (k ≠ 2 ∨ d = 0) ∧ (ty = 0 ∨ tokenOk ty) then some none else none
  | 1 =>
    if tokenOk ty ∧ k < 3 ∧ (k ≠ 2 ∨ d = 0) then
      some (some ⟨BitVec.ofNat 8 ty, if k = 0 then .tile else if k = 1 then .group else .own,
        Fin.ofNat 4 (nbits v 17 16), Fin.ofNat 8 (nbits v 15 13), nbits v 12 12 = 1, BitVec.ofNat 12 d⟩)
    else none
  | _ => none

/-- A bundle of 256 bits; none where a slot holds a reserved code (R80, R86).
    DEDUCED: notes/assumptions/29. -/
def decodeBundle (v : Nat) : Option Bundle := do
  let seq ← decodeSeq (nbits v 255 224)
  let run ← decodeRun (nbits v 223 176)
  let chain ← decodeChain (nbits v 175 128)
  let sia ← decodeStream (nbits v 127 96)
  let sib ← decodeStream (nbits v 95 64)
  let out ← decodeStream (nbits v 63 32)
  let tok ← decodeTok (nbits v 31 0)
  return ⟨seq, run, chain, sia, sib, out, tok⟩

/-- The bundle at an index of a tile's instruction store, 256 bits (R78). -/
def State.bundleAt (s : State) (t : Tile) (i : Nat) : Nat :=
  let w k := (s.reg (tileCa t 0x10 (32 * i + 8 * k))).toNat
  w 0 + w 1 <<< 64 + w 2 <<< 128 + w 3 <<< 192

/-- Where the error state of an instruction-store word is kept: beyond every word of memory. -/
def istoreErr (t : Tile) (word : Nat) : Nat := 2 ^ 60 + tileCa t 0x10 (8 * word)

/-- Whether a word of a bundle holds an uncorrectable error (Table 17-3). -/
def State.bundleBad (s : State) (t : Tile) (i : Nat) : Bool :=
  (List.range 4).any fun k => decide (2 ≤ tget 0 s.ecc (istoreErr t (4 * i + k)))

/-! ### Stream-program instructions -/

/-- The bit ranges an instruction may use beside its opcode (Table 7-7). -/
def streamFields (op : Nat) : Option (List (Nat × Nat)) :=
  match op with
  | 0x00 => some []
  | 0x01 => some [(58, 57), (52, 52), (23, 0)]
  | 0x02 => some [(58, 57), (23, 0)]
  | 0x03 => some [(58, 57)]
  | 0x04 => some [(58, 57), (52, 52), (23, 0)]
  | 0x05 => some [(58, 57), (4, 0)]
  | 0x06 => some [(4, 0)]
  | 0x07 => some [(52, 51), (4, 0)]
  | 0x08 => some [(58, 53), (52, 15), (11, 0)]
  | 0x09 => some [(58, 53), (52, 51), (42, 32), (31, 16), (11, 0)]
  | 0x0A => some [(58, 57), (54, 53), (52, 49), (48, 32), (31, 0)]
  | 0x0B => some [(58, 53)]
  | 0x0C => some [(52, 51), (23, 0)]
  | 0x0D => some [(52, 52), (8, 0)]
  | 0x0E => some [(7, 0)]
  | 0x0F => some [(15, 0)]
  | 0x10 => some [(31, 24), (23, 0)]
  | 0x11 => some [(52, 52), (15, 0)]
  | _ => none

/-- Whether a word has bits outside its opcode and the given ranges. -/
def strayBits (w : Word) (rs : List (Nat × Nat)) : Bool :=
  rs.foldl (fun w r => setBits w r.1 r.2 0) (setBits w 63 59 0) != 0

/-- Whether an instruction of engine e is a reserved code when executed (R158, R165). -/
def streamReserved (e : Nat) (w : Word) : Bool :=
  let op := bits w 63 59
  match streamFields op with
  | none => true
  | some fs =>
    strayBits w fs ||
    (match op with
      | 0x05 | 0x06 | 0x07 => decide (bits w 4 0 > 23)
      | 0x08 => decide (bits w 47 43 > bits w 51 48 + 1)
      | 0x09 => (w.getLsbD 52 && e != 2) || decide ((bits w 42 32 + 1) % 8 ≠ 0)
      | 0x0A => decide (bits w 52 49 = 0 ∨ bits w 52 49 > 7)
      | 0x0C => decide (bits w 52 51 = 3)
      | 0x0D => e == 2 || decide (bits w 8 0 > 256)
      | 0x0E => e == 2 || !decide ((2 ≤ bits w 7 0 ∧ bits w 7 0 ≤ 5) ∨ 64 ≤ bits w 7 0)
      | 0x10 => e == 2
      | _ => false)

/-- The word of an instruction of a stream program (R155). -/
def State.streamWord (s : State) (t : Tile) (e : Fin 3) (c : CtxNo) (prog w : Nat) : Word :=
  s.reg (tileCa t 0x07 (0x10000 + 0x4000 * e.val + 0x1000 * c.val + 0x100 * prog + 8 * w))

/-- Descriptor Dd of a stream program; none where it holds a reserved code. -/
def State.streamDesc (s : State) (t : Tile) (e : Fin 3) (c : CtxNo) (prog d : Nat) : Option TensorDesc :=
  tensorDesc (s.streamWord t e c prog (2 * d)) (s.streamWord t e c prog (2 * d + 1))

end Sys2Proof.Machine
end

