-- ==== Sys2Proof/Machine/Accum.lean ====
section
/-! DEFINITION. The accumulator store (R64, R72, R76): elements, residues and bounds. -/

namespace Sys2Proof.Machine

def mxeFlagsCa (t : Tile) : Nat := tileCa t 0x02 0x10
def mxeChklogCa (t : Tile) : Nat := tileCa t 0x02 0x18
def accbndCa (t : Tile) (c : CtxNo) : Nat := tileCa t 0x02 (0x300 + 8 * c.val)

/-- The control address of element (row, lane) of a global row 512·bank + r (R76). -/
def accCa (t : Tile) (g j : Nat) : Nat := tileCa t (0x20 + g / 512) (2048 * (g % 512) + 8 * j)

/-- The element a reader takes where the residue fails: poison with PZ (R72).
    DEDUCED: notes/assumptions/20. -/
def residuePoison : Word := 0x8000000000000020

/-- A residue mismatch met by a reader (R72). -/
def State.residueFail (s : State) (t : Tile) (g : Nat) : State :=
  (s.raise (mxeFlagsCa t) 6).postTile 0x07 t (BitVec.ofNat 64 g)

/-- An element read from storage with its residue checked (R72). -/
def State.readAcc (s : State) (t : Tile) (g j : Nat) : Word × State :=
  if tget false s.resBad (accCa t g j) then (residuePoison, s.residueFail t g) else (s.reg (accCa t g j), s)

/-- An element written, its residue computed anew (R64); bits [1:0] are reserved. -/
def State.writeAcc (s : State) (t : Tile) (g j : Nat) (v : Word) : State :=
  let s := s.setReg (accCa t g j) (setBits v 1 0 0)
  { s with resBad := tset false s.resBad (accCa t g j) false }

/-- Upsets of stored elements of a row: their residues no longer match. -/
def State.upsetAcc (s : State) (t : Tile) (g : Nat) (lanes : List (Fin 256)) : State :=
  lanes.foldl (fun s j => { s with resBad := tset false s.resBad (accCa t g j.val) true }) s

/-- A row of 256 elements read. -/
def State.readAccRow (s : State) (t : Tile) (g : Nat) : List Word × State :=
  let r := (List.range 256).foldl (fun (p : List Word × State) j =>
    let (w, s) := p.2.readAcc t g j
    (w :: p.1, s)) ([], s)
  (r.1.reverse, r.2)

/-- A port S write lost to a pass (R75): MXE_FLAGS.HAZ and an accumulator-hazard event. -/
def State.accHazard (s : State) (t : Tile) (g : Nat) : State :=
  (s.raise (mxeFlagsCa t) 7).postTile 0x08 t (BitVec.ofNat 64 g)

/-- Whether a global row lies within MXE_ACCBND_c (R57). -/
def State.accBound (s : State) (t : Tile) (c : CtxNo) (g : Nat) : Bool :=
  decide (s.fld (accbndCa t c) 9 0 ≤ g ∧ g ≤ s.fld (accbndCa t c) 25 16)

end Sys2Proof.Machine
end

