-- ==== Sys2Proof/WellFormed.lean ====
section
/-! DEFINITION. Which operands a command of each row can have: the register that a row of register writes is about, the
sizes that a packet's fields can give, and the codes that a row stands for. -/

namespace Sys2Proof

open Machine

/-- Whether a control address, read with field code 0x3F as with any other, selects a register of one of some tags. -/
def caHas (ca : Ca) (ts : List RegTag) : Bool :=
  match decodeCa ca.toNat with
  | some (_, g, _) => ts.contains g.tag
  | none => false

/-- The length a read request can ask for (Table 8-2): 1 to 2,048 bytes. -/
def readLenOk (len : Nat) : Bool := decide (1 ≤ len ∧ len ≤ 2048)

/-- The bytes a write request can carry (Table 8-2): 1 to 2,048. -/
def writeLenOk (data : List Byte) : Bool := decide (1 ≤ data.length ∧ data.length ≤ 2048)

/-- The bytes a breeze transfer can carry (R164): 8 to 64. -/
def breezeLenOk (data : List Byte) : Bool := decide (8 ≤ data.length ∧ data.length ≤ 64)

/-- Whether the fields of a head fit the bits that Tables 8-2 and 14-2 give them. -/
def headOk (h : Head) : Bool :=
  decide (h.dfield < 64 ∧ h.dsite < 64 ∧ h.sfield < 64 ∧ h.ssite < 64 ∧ h.tag < 1024 ∧ h.smod < 65536 ∧ h.dmod < 65536)

/-- Whether a reduction packet's fields fit the bits that R190 and Table 8-6 give them. -/
def redOk (r : RedBody) : Bool :=
  decide (r.tree < 4096 ∧ 1 ≤ r.cnt ∧ r.cnt < 8192 ∧ r.chunk < 2 ^ 24 ∧ -(2 ^ 15) ≤ r.q ∧ r.q < 2 ^ 15 ∧ r.lanes.length = 10) &&
  r.lanes.all fun l => decide (-(2 ^ 95) ≤ l.n ∧ l.n < 2 ^ 95)

/-- Whether a bank request reaches one line (R146). -/
def bankReqOk (r : BankReq) : Bool :=
  decide (0 < BankOp.len r.op ∧ r.off.toNat % 512 + BankOp.len r.op ≤ 512)

/-- Whether a compare-and-count of one operation names it: a unit's always does, and a packet's code is that operation's or a
    reserved one (Table 7-2, R151). -/
def cacOk (src : CacSrc) (code : Nat) : Bool :=
  match src with
  | .bank _ _ _ => true
  | .packet h _ op => headOk h && (op.val == code || op.val == 0 || decide (7 < op.val))

/-- Whether a command has operands that its row can have. -/
def wellFormed (i : Instr) : Bool :=
  match i with
  | .broadcastWrite ca _ => (Machine.caParts ca.toNat).field == 0x3F
  | .tilemapWrite ca _ => caHas ca [.fldTilemap]
  | .sitebadWrite ca _ => caHas ca [.fldSitebad]
  | .istoreWrite ca _ => caHas ca [.istore]
  | .ctxcfgWrite ca _ => caHas ca [.tilCtxcfg]
  | .loopCounterWrite ca _ => caHas ca [.seqLc]
  | .counterWrite ca _ => caHas ca [.counter]
  | .chainConfigWrite ca _ => caHas ca [.vchCfg, .vchVec]
  | .vmodeWrite ca _ => caHas ca [.sfuCtl]
  | .spdBoundWrite ca _ => caHas ca [.spdBound]
  | .streamProgramWrite ca _ => caHas ca [.strProg]
  | .sparecmd ca _ => caHas ca [.jetSparecmd]
  | .treeEntryWrite ca _ => caHas ca [.netTrt, .netRtree, .isoXtree]
  | .caveEnableWrite ca _ => caHas ca [.caveCtl, .cavePt]
  | .move ca _ => caHas ca [.migCmd]
  | .freeRingPush ca _ => caHas ca [.migFree]
  | .shardEntryWrite ca _ => caHas ca [.updShard, .updSrc]
  | .sparseRingWrite ca _ => caHas ca [.spxRing]
  | .roleWrite ca _ => caHas ca [.isoHpctl]
  | .modidWrite ca _ => caHas ca [.isoModid]
  | .timeset ca _ => caHas ca [.isoTimeset]
  | .timectlWrite ca _ => caHas ca [.isoTimectl]
  | .dataWindowWrite ca _ => caHas ca [.rindDwin]
  | .funcjobWrite ca _ => caHas ca [.funcjob]
  | .queueConfigWrite ca _ => caHas ca [.queueWord]
  | .evqWrite ca _ => caHas ca [.evq]
  | .pwrCtlWrite ca _ => caHas ca [.pwrCtl]
  | .optgateWrite ca _ => caHas ca [.optgate]
  | .counterWrap ca _ => caHas ca [.counter]
  | .rowstateWrite ca _ _ => caHas ca [.rowState]
  | .snapshot ca => caHas ca [.telSnap]
  | .ptWrite ca v => caHas ca [.cavePtcmd] && bits v 25 24 == 1
  | .ptRead ca v => caHas ca [.cavePtcmd] && bits v 25 24 == 2
  | .fetchStart ca v => caHas ca [.fetchcmd] && bits v 17 16 == 1
  | .fetchStop ca v => caHas ca [.fetchcmd] && bits v 17 16 == 2
  | .cancel ca v => caHas ca [.fetchcmd] && bits v 17 16 == 3
  | .checkInject _ _ count => count.val != 0
  | .cnt src _ _ => cacOk src 1
  | .cntlt src _ _ => cacOk src 2
  | .ceq src _ _ => cacOk src 3
  | .semdn src _ _ => cacOk src 4
  | .lacq src _ _ => cacOk src 5
  | .lrel src _ _ => cacOk src 6
  | .lrst src _ _ => cacOk src 7
  | .rd h _ len => headOk h && readLenOk len.val
  | .wr h _ data => headOk h && writeLenOk data
  | .bzw h _ data => headOk h && breezeLenOk data
  | .regrd h _ => headOk h
  | .regwr h _ _ => headOk h
  | .rdata h _ data _ => headOk h && decide (data.length ≤ 2048)
  | .wack h _ => headOk h
  | .cacr h _ _ _ => headOk h
  | .bzack h _ => headOk h
  | .tokenArrive h _ _ => headOk h
  | .multicastCredit h _ _ _ => headOk h
  | .red h r _ => headOk h && redOk r
  | .bankAccess _ _ reqs => reqs.all bankReqOk
  | .sensorUpdate place n _ => place.isSome || decide (n.val < 6)
  | .registerWrite _ _ => true
  | .registerReadClear _ => true
  | .nop _ => true
  | .setlc _ _ _ => true
  | .djnz _ _ _ => true
  | .jmp _ _ => true
  | .brz _ _ _ => true
  | .addlc _ _ _ => true
  | .ldlc _ _ _ => true
  | .brtok _ _ _ _ => true
  | .brtokRetest _ => true
  | .wait _ _ _ => true
  | .waitConditionMet _ => true
  | .yield _ => true
  | .notify _ _ => true
  | .endCtx _ _ => true
  | .bundleIssue _ _ _ => true
  | .contextChoice _ _ => true
  | .start _ _ _ => true
  | .stop _ _ => true
  | .resume _ _ => true
  | .unload _ _ => true
  | .contextStopComplete _ _ => true
  | .run _ _ => true
  | .runStart _ => true
  | .weightLoad _ => true
  | .weightSwap _ => true
  | .rowPass _ _ => true
  | .clrhalt _ => true
  | .checkInjectCancel _ => true
  | .accWindowWrite _ _ _ _ _ _ => true
  | .accWindowRead _ _ _ _ _ => true
  | .chain _ _ => true
  | .invocationStart _ => true
  | .preloadRead _ => true
  | .chainRow _ _ _ => true
  | .chainEntryPlace _ => true
  | .epochNotice _ _ _ => true
  | .streamStart _ _ _ _ _ _ => true
  | .streamStop _ _ => true
  | .newgen _ _ => true
  | .tok _ _ _ => true
  | .queuedProgramStart _ _ _ => true
  | .streamEnd _ _ _ => true
  | .ixset _ _ _ => true
  | .ixadd _ _ _ => true
  | .ixld _ _ _ => true
  | .setc _ _ _ => true
  | .streamDjnz _ _ _ => true
  | .streamJmp _ _ _ => true
  | .brs _ _ _ => true
  | .row _ _ _ => true
  | .line _ _ _ => true
  | .streamCac _ _ _ => true
  | .accxSpill _ _ _ _ => true
  | .accxFill _ _ _ _ _ => true
  | .plim _ _ _ => true
  | .maskn _ _ _ => true
  | .streamTok _ _ _ => true
  | .waitn _ _ _ => true
  | .waitnExpire _ _ _ => true
  | .mrx _ _ _ _ _ _ _ => true
  | .setm _ _ _ => true
  | .multicastRead _ _ _ => true
  | .multicastWrite _ _ => true
  | .breezeTransfer _ _ _ => true
  | .streamResponse _ _ _ _ _ => true
  | .engineTokenPlace _ _ _ => true
  | .packetForward _ _ => true
  | .flitReplay _ _ _ _ _ _ => true
  | .pathNotice _ _ => true
  | .laneParityThreshold _ _ _ _ _ _ => true
  | .spareSwitchComplete _ _ _ => true
  | .reductionResultSend _ _ _ _ => true
  | .reductionCredit _ _ _ => true
  | .rootSink _ _ => true
  | .multicastReplicate _ => true
  | .multicastWack _ _ => true
  | .cellarAccess _ _ _ _ _ => true
  | .vatRead _ _ _ _ => true
  | .vatWrite _ _ _ _ _ => true
  | .missAllocate _ _ => true
  | .reads _ _ => true
  | .readx _ _ => true
  | .upgrade _ _ => true
  | .putm _ _ => true
  | .pute _ _ => true
  | .puts _ _ => true
  | .xlat _ _ => true
  | .prec _ _ => true
  | .data _ _ _ => true
  | .upgack _ _ _ => true
  | .fwds _ _ _ => true
  | .fwdx _ _ _ => true
  | .inv _ _ _ => true
  | .invack _ _ => true
  | .fwdack _ _ => true
  | .putack _ _ _ => true
  | .xlatr _ _ => true
  | .tinv _ _ _ => true
  | .tinvack _ _ => true
  | .precack _ _ => true
  | .directoryRecall _ => true
  | .flushAll _ => true
  | .flushPage _ => true
  | .flushDone _ => true
  | .ptCommandDone => true
  | .migrationMove => true
  | .autoPromotion _ => true
  | .counterDecay _ => true
  | .hostMemoryOperation _ => true
  | .pcieCompletion _ _ _ => true
  | .completionTimeout _ _ => true
  | .touch _ => true
  | .touchComplete _ => true
  | .sourcePoll _ _ => true
  | .chunkInject _ _ _ => true
  | .sinkChunk _ _ _ => true
  | .blockUpdate _ _ => true
  | .orthogonalise _ _ => true
  | .precondition _ _ => true
  | .shardSettle _ _ => true
  | .ringPoll _ => true
  | .select _ => true
  | .gatherRows _ => true
  | .gatherBlocks _ => true
  | .intersect _ => true
  | .union _ => true
  | .andnot _ => true
  | .bucket _ => true
  | .bucketFreeRetry _ => true
  | .commandComplete _ => true
  | .arbiterPeriod _ _ => true
  | .windowStart _ => true
  | .commit _ _ => true
  | .refill _ => true
  | .frame _ _ => true
  | .flitResend _ => true
  | .fabricRoute _ _ => true
  | .fabricDelivery _ _ => true
  | .xtreeCombine _ _ _ => true
  | .xtreeResult _ _ _ => true
  | .signalDetect _ => true
  | .laneLock _ _ => true
  | .alignComplete _ => true
  | .identToUp _ => true
  | .trainingTimeout _ => true
  | .recalibrationStart _ _ => true
  | .recalibration _ _ => true
  | .statusNotice _ => true
  | .timeAdjust => true
  | .bar0Write _ _ _ => true
  | .bar0Read _ _ _ _ => true
  | .bar2Access _ _ _ _ _ => true
  | .queueDrained _ => true
  | .sqDoorbell _ _ _ _ => true
  | .cqDoorbell _ _ _ _ => true
  | .descriptorFetch _ => true
  | .descNop _ => true
  | .h2d _ => true
  | .d2h _ => true
  | .descRegwr _ => true
  | .descRegrd _ => true
  | .load _ _ _ => true
  | .fwload _ _ _ => true
  | .descReset _ => true
  | .completionWrite _ => true
  | .msixMessage _ => true
  | .eventRecord => true
  | .revoke _ => true
  | .moduleReset => true
  | .fieldReset => true
  | .tileReset => true
  | .contextReset => true
  | .jobDomainReset => true
  | .resetDone => true
  | .functionLevelReset _ => true
  | .perst _ => true
  | .vfEnableClear _ => true
  | .d3hotTransition _ _ => true
  | .switch => true
  | .confirm => true
  | .firmwareReady => true
  | .firmwareRevert => true
  | .standbyApply _ => true
  | .mainPowerInRange => true
  | .thaw _ _ => true
  | .queuedThawStart => true
  | .rampEnd _ => true
  | .testEnd _ _ => true
  | .stageFailed _ => true
  | .continue _ => true
  | .linkCalibrationEnd _ _ _ => true
  | .cellarTrainingEnd _ _ => true
  | .fieldFull _ => true
  | .setfreq _ _ => true
  | .clockRestart _ => true
  | .freeze _ => true
  | .freezeDone _ => true
  | .freezeOverrun _ => true
  | .powerSample _ _ _ => true
  | .capAdjust => true
  | .thermalRead _ => true
  | .inputLoss _ => true
  | .standbyLoss => true
  | .siteGate _ => true
  | .gsparecmd _ _ _ _ _ => true
  | .scrubLine _ _ => true
  | .scrubWriteback _ => true
  | .scrubStarved _ => true
  | .press _ _ => true
  | .pressComplete _ _ => true
  | .pressTimeout _ _ => true
  | .jobPress _ => true
  | .jobPressDone => true
  | .remap _ _ _ => true
  | .remapCopyDone _ _ => true
  | .remapCatchupPass _ _ => true
  | .remapCutover _ => true
  | .snapshotArm _ => true
  | .armedSnapshot _ => true
  | .timeCopySet => true
  | .laneCountClear _ _ _ _ => true
  | .setEndpointId _ => true
  | .getEndpointId => true
  | .getEndpointUuid => true
  | .getMctpVersionSupport => true
  | .getMessageTypeSupport => true
  | .gettid => true
  | .getpldmversion _ => true
  | .getpldmtypes => true
  | .getpldmcommands _ => true
  | .getpdr _ => true
  | .getsensorreading _ => true
  | .getstatesensorreadings _ => true
  | .seteventreceiver _ => true
  | .platformeventmessage _ => true
  | .eventMessageRetry _ => true
  | .extest _ => true
  | .idcode => true
  | .samplePreload _ => true
  | .dbgacc _ _ _ => true
  | .bypass => true
  | .debugUnlock _ => true
  | .unlockVerifyDone => true
  | .unlockLockoutEnd => true
  | .relock => true
  | .halt _ => true
  | .debugResume _ _ _ => true
  | .stepComplete _ => true
  | .breakpoint _ => true
  | .fieldHalt _ _ => true
  | .fieldResume _ => true
  | .scanWrite _ _ => true
  | .resetPin => true
  | .resetPinRelease _ => true
  | .gustCalibrationEnd _ _ => true
  | .pcieLinkDown _ => true
  | .pcieLinkUp _ => true
  | .lockedLaneLoss _ _ => true

end Sys2Proof
end

