-- ==== Sys2Proof/Machine/Scratchpad.lean ====
section
/-! DEFINITION. The scratchpad (chapter 7): bounds, SECDED, compare-and-count, locks and epochs. -/

namespace Sys2Proof.Machine

/-! ### Registers of the chapter -/

def spdFlagsCa (t : Tile) : Nat := tileCa t 0x06 0x00
def spdEccCa (t : Tile) : Nat := tileCa t 0x06 0x08
def spdEpochCa (t : Tile) : Nat := tileCa t 0x06 0x10
def spdBoundCa (t : Tile) (j : Nat) : Nat := tileCa t 0x06 (0x100 + 8 * j)
def eptabCa (t : Tile) (n : Nat) : Nat := tileCa t 0x06 (0x1000 + 8 * n)

/-- Whether every line of an access lies within the bounds of a job domain (R149). -/
def State.inBounds (s : State) (t : Tile) (job off len : Nat) : Bool :=
  let lo := s.fld (spdBoundCa t job) 15 0
  let hi := s.fld (spdBoundCa t job) 47 32
  decide (off + len ≤ 0x1800000 ∧ lo ≤ off / 512 ∧ (off + len - 1) / 512 ≤ hi ∧ lo ≤ hi)

/-- An access refused under R149: SPD_FLAGS.BOUND and an address-error event that gives the data address. -/
def State.padRefuseAt (s : State) (t : Tile) (job addr : Nat) : State :=
  (s.raise (spdFlagsCa t) 0).post 0x05 (some job) none t.field.val t.site.val (BitVec.ofNat 64 (addr % 2 ^ 56))

/-- A refused access that gives an offset: the event gives its physical-mode address (DEDUCED, notes/assumptions/10). -/
def State.padRefuse (s : State) (t : Tile) (job off : Nat) : State := s.padRefuseAt t job (padAddr t off)

/-- One uncorrectable word met at a scratchpad address: SPD_FLAGS.UE, SPD_ECCLOG and the event (R148). -/
def State.padUe (s : State) (t : Tile) (off : Nat) : State :=
  let s := s.raise (spdFlagsCa t) 2
  let s := s.bumpSat (spdEccCa t) 47 32 1
  let s := s.setFld (spdEccCa t) 15 0 (off / 512)
  s.postTile 0x0C t (BitVec.ofNat 64 (off / 512))

/-- Corrected words met: SPD_FLAGS.CE and SPD_ECCLOG.CECNT (R148). -/
def State.padCe (s : State) (t : Tile) (n : Nat) : State :=
  if n = 0 then s else (s.raise (spdFlagsCa t) 1).bumpSat (spdEccCa t) 63 48 n

/-- A read performed at the banks of a tile: the bytes, or none where an uncorrectable word makes the access
    deliver error fill (R148). -/
def State.padRead (s : State) (t : Tile) (off len : Nat) : Option (List Byte) × State :=
  let a := padAddr t off
  let errs := (wordsOf a len).map fun w => (w, tget 0 s.ecc w)
  let s := s.padCe t (errs.countP fun e => e.2 = 1)
  match errs.find? (fun e => e.2 ≥ 2) with
  | some (w, _) => (none, s.padUe t (8 * w - padAddr t 0))
  | none => (some (s.bytes a len), s)

/-- The held scale lines of a tile that a write to a line drops (R159). -/
def dropScale (x : TileSt) (line : Nat) : TileSt :=
  { x with eng := x.eng.map fun p =>
      (p.1, if p.2.scaleLine.any (fun h => h.1 == line) then { p.2 with scaleLine := none } else p.2) }

/-- The bytes of one word written at a bank: a whole word repairs, a part of an uncorrectable word is lost (R148).
    DEDUCED: notes/assumptions/40. -/
def State.padWord (s : State) (t : Tile) (off : Nat) (data : List Byte) : State :=
  let a := padAddr t off
  if data.length < 8 ∧ s.wordErr a ≥ 2 then s.padUe t off
  else (s.setErr a 0).setBytes a data

/-- Bytes written at the banks of a tile, word by word. -/
def State.padWrite (s : State) (t : Tile) (off : Nat) (data : List Byte) : Nat → State
  | 0 => s
  | fuel + 1 =>
    match data with
    | [] => s
    | _ :: _ =>
      let n := 8 - off % 8
      State.padWrite (s.padWord t off (data.take n)) t (off + n) (data.drop n) fuel

/-! ### Claims (R362) -/

/-- The control addresses that a record of an image writes, or none for a SCRATCH record. -/
def ImgRec.ca (r : ImgRec) (site : Nat) : Option Nat :=
  if r.type = 8 then none else some (mkCa r.field site r.block r.ofs)

/-- The site of a record's unit: a spine code, or the site that holds its logical tile. -/
def State.recSite (s : State) (r : ImgRec) : Option Nat :=
  if r.spine then some r.unit
  else if h : r.field < 48 then (s.siteOf ⟨r.field, h⟩ r.unit).map fun t => t.site.val
  else none

/-- Whether a LOAD in progress claims a range of a tile's scratchpad.
    DEDUCED: notes/assumptions/94. -/
def State.claimsPad (s : State) (t : Tile) (off len : Nat) : Bool :=
  match s.rind.load with
  | none => false
  | some l => l.recs.any fun r => r.type == 8 && r.field == t.field.val && s.recSite r == some t.site.val &&
      decide (r.ofs < off + len ∧ off < r.ofs + r.data.length)

/-! ### Writes -/

/-- A write performed at the banks of a tile: the words, the scale lines it drops and, while the tile is being
    moved by a remap, the marks of its lines (R159, R403); a write to a range that a LOAD claims is rejected (R362). -/
def State.padStore (s : State) (t : Tile) (off : Nat) (data : List Byte) : State :=
  if s.claimsPad t off data.length then s.postTile 0x04 t (BitVec.ofNat 64 off)
  else
  let s := s.padWrite t off data (data.length + 1)
  let lines := if data.length = 0 then [] else (List.range ((off + data.length - 1) / 512 - off / 512 + 1)).map (off / 512 + ·)
  s.modTile t fun x => lines.foldl dropScale { x with marks := if x.moving then lines.foldl (fun m l => tset false m l true) x.marks else x.marks }

/-- A word of a tile's scratchpad as stored, whatever its errors. -/
def State.padWordAt (s : State) (t : Tile) (off : Nat) : Word := BitVec.ofNat 64 (ofBytes (s.bytes (padAddr t off) 8))

/-! ### Compare-and-count -/

/-- CAC statuses. -/
def cstDone : Nat := 0
def cstMiss : Nat := 1
def cstBroken : Nat := 2
def cstFault : Nat := 3

/-- The operations of Table 7-2, by CACOP. -/
inductive CacOp where
  | cnt | cntlt | ceq | semdn | lacq | lrel | lrst
  deriving DecidableEq, Repr

def cacOpOf : Nat → Option CacOp
  | 1 => some .cnt
  | 2 => some .cntlt
  | 3 => some .ceq
  | 4 => some .semdn
  | 5 => some .lacq
  | 6 => some .lrel
  | 7 => some .lrst
  | _ => none

/-- The code of a CAC operation (Table 7-2). -/
def cacCode : CacOp → Nat
  | .cnt => 1
  | .cntlt => 2
  | .ceq => 3
  | .semdn => 4
  | .lacq => 5
  | .lrel => 6
  | .lrst => 7

/-- A lock word held by a requester (R152, R154). -/
def heldBy (w : Word) (r : Requester) : Bool :=
  bits w 47 36 == r.tile && bits w 35 34 == r.ctx && bits w 63 48 == r.epoch

/-- LACQ by the cases of Table 7-4; `copy` gives the bank tile's copy of a logical tile's epoch.
    DEDUCED: notes/assumptions/38. -/
def lacq (w : Word) (r : Requester) (copy : Nat → Nat) : Word × Nat :=
  let count := bits w 31 0
  let owner := bits w 47 36
  if w.getLsbD 33 then (w, cstBroken)
  else if count = 0 then
    (BitVec.ofNat 64 (r.epoch % 65536 * 2 ^ 48 + r.tile % 4096 * 2 ^ 36 + r.ctx % 4 * 2 ^ 34 + bits w 32 32 * 2 ^ 32 + 1), cstDone)
  else if owner ≥ 1920 ∨ bits w 63 48 ≠ copy owner then (setBits w 33 33 1, cstBroken)
  else if heldBy w r ∧ count < 2 ^ 32 - 1 then (setBits w 31 0 (count + 1), cstDone)
  else (w, cstMiss)

/-- LREL by the cases of Table 7-4. -/
def lrel (w : Word) (r : Requester) : Word × Nat :=
  let count := bits w 31 0
  if w.getLsbD 33 then (w, cstBroken)
  else if count ≠ 0 ∧ heldBy w r then (setBits w 31 0 (count - 1), cstDone)
  else (w, cstMiss)

/-- One compare-and-count on a word (Table 7-2): the word after and the status. -/
def cacStep (op : CacOp) (imm : Nat) (w : Word) (r : Requester) (copy : Nat → Nat) : Word × Nat :=
  let count := bits w 31 0
  match op with
  | .cnt => (setBits w 31 0 ((count + imm) % 2 ^ 32), cstDone)
  | .cntlt => if count < imm then (setBits w 31 0 (count + 1), cstDone) else (w, cstMiss)
  | .ceq => if count = imm then (setBits w 31 0 ((count + 1) % 2 ^ 32), cstDone) else (w, cstMiss)
  | .semdn => if count ≥ imm then (setBits w 31 0 (count - imm), cstDone) else (w, cstMiss)
  | .lacq => lacq w r copy
  | .lrel => lrel w r
  | .lrst => (0, cstDone)

/-- The word a CAC returns in CMPV when it faults (R150). -/
def fillWord : Word := 0x8000000000000000

/-- Lines that a range of bytes touches. -/
def linesOf (off n : Nat) : Nat := if n = 0 then 0 else (off + n - 1) / 512 - off / 512 + 1

/-- SLOT_NET of a tile (Table 18-1). -/
def slotNetCa (t : Tile) : Nat := tileCa t 0x0B 0x188

/-- The line slots of an access from the network counted, one for each line it touches (R146, R147, Table 18-1). -/
def State.slotNet (s : State) (t : Tile) (off len : Nat) : State := s.count (slotNetCa t) (linesOf off len)

/-- What a CAC at a bank returns: its packet status, CST and CMPV. -/
structure CacResult where
  st   : NStatus
  cst  : Nat
  cmpv : Word
  deriving DecidableEq, Repr

/-- A compare-and-count performed at a tile's bank for a job domain (R148–R151, R154). -/
def State.padCac (s : State) (t : Tile) (job off : Nat) (op : CacOp) (imm : Nat) (r : Requester) : CacResult × State :=
  if !s.inBounds t job off 8 then (⟨.addrErr, cstFault, fillWord⟩, s.padRefuse t job off)
  else
    let s := s.tel t 22 1
    match s.padRead t off 8 with
    | (none, s) => (⟨.done, cstFault, fillWord⟩, s)
    | (some bs, s) =>
      let w := BitVec.ofNat 64 (ofBytes bs)
      let (w', cst) := cacStep op imm w r (fun n => s.fld (eptabCa t n) 15 0)
      (⟨.done, cst, w⟩, if w' = w then s else s.padStore t off (toBytes 8 w'.toNat))

/-- A CAC that arrives from the network (R151): a reserved operation or a misaligned word is refused. -/
def State.netCac (s : State) (t : Tile) (h : Head) (off op imm : Nat) (r : Requester) : CacResult × State :=
  match cacOpOf op with
  | some o => if off % 8 = 0 then (if s.inBounds t h.job.val off 8 then s.slotNet t off 8 else s).padCac t h.job.val off o imm r else refuse
  | none => refuse
where
  refuse : CacResult × State :=
    let d := off + h.ssite * 2 ^ 32 + h.sfield * 2 ^ 40 + (if h.xm then 2 ^ 46 + h.smod * 2 ^ 48 else 0)
    (⟨.addrErr, cstFault, fillWord⟩,
     (s.raise (spdFlagsCa t) 3).post 0x04 (some h.job.val) none t.field.val t.site.val (BitVec.ofNat 64 d))

/-! ### Banks -/

/-- Data that a bank delivers: after that of the other banks of the same cycle. -/
def State.bankData (s : State) (t : Tile) (d : List Byte) : State := s.modTile t fun x => { x with bankOut := x.bankOut ++ d }

/-- The TEL_ counter of the line slots granted to a bank requester (Table 18-1); an LDLC and the scrubber have none. -/
def bankSlotCounter : Fin 6 → Option Nat
  | 0 => none
  | 1 => some 17
  | 2 => some 16
  | 3 => some 14
  | 4 => some 15
  | 5 => none

/-- The line slot of a granted request counted. -/
def State.bankSlot (s : State) (t : Tile) (r : BankReq) : State :=
  match bankSlotCounter r.who with
  | some k => s.tel t k 1
  | none => s

/-- One access performed at a bank: bounds, which the whole access must lie in, then a read whose data is delivered, a write, or a
    remote CAC, whose CMPV and CST are delivered (R147–R151). -/
def State.bankPerform (s : State) (t : Tile) (r : BankReq) : State :=
  let off := r.off.toNat
  let ok := match r.job with
    | some j => s.inBounds t j.val (off - r.before) (r.before + BankOp.len r.op + r.after)
    | none => true
  match r.op with
  | .cac h op imm who =>
    let (res, s) := s.netCac t h off op.val imm.toNat who
    s.bankData t (toBytes 8 res.cmpv.toNat ++ [BitVec.ofNat 8 res.cst])
  | .write d => if ok then (s.bankSlot t r).padStore t off d else s.padRefuse t (r.job.getD 0).val off
  | .read n =>
    if ok then
      let (d, s) := (s.bankSlot t r).padRead t off n
      s.bankData t (d.getD (rawFill n))
    else (s.padRefuse t (r.job.getD 0).val off).bankData t (rawFill n)

/-- The TEL_ counter of a bank requester's waits (Table 18-1); an LDLC never waits. -/
def bankWaitCounter : Fin 6 → Option Nat
  | 0 => none
  | 1 => some 9
  | 2 => some 10
  | 3 => some 11
  | 4 => some 12
  | 5 => some 13

/-- Upsets of the cells of a tile: each names an offset and the number of bits (1, or more) now wrong in its word. -/
def State.upset (s : State) (t : Tile) (us : List (BitVec 25 × Nat)) : State :=
  us.foldl (fun s u => s.setErr (padAddr t u.1.toNat) (max (s.wordErr (padAddr t u.1.toNat)) (min u.2 2))) s

/-- The bank that holds a request's line (R146). -/
def bankOf (r : BankReq) : Nat := r.off.toNat / 0x80000

/-- The access that a bank grants: the first in the order of R147, and of one requester the one that came first. -/
def bankGrant (reqs : List BankReq) (bank : Nat) : Option BankReq :=
  (reqs.filter fun r => bankOf r == bank).foldl (fun b r => match b with
    | none => some r
    | some b => if r.who.val < b.who.val then some r else some b) none

/-- BANK_ACCESS: one cycle of a tile's banks. Each bank grants and performs one of the accesses that want it, and the others wait,
    to be offered again (R146–R148). A request reaches one line: an access of several lines is offered as one request for each,
    with the bytes of the access before and after it. -/
def execBankAccess (t : Tile) (upsets : List (BitVec 25 × Nat)) (reqs : List BankReq) (s : State) : Out :=
  if !reqs.all bankReqOk then .refused .illFormed else
  let s := s.upset t upsets
  let grants := ((reqs.map bankOf).eraseDups).filterMap (bankGrant reqs)
  let s := grants.foldl (fun s r => s.bankPerform t r) (s.modTile t fun x => { x with bankOut := [] })
  let waits := ((grants.foldl List.erase reqs).filterMap fun r => bankWaitCounter r.who).eraseDups
  .next (waits.foldl (fun s k => s.tel t k 1) s)

/-! ### Registers with rules of their own -/

/-- A write to SPD_BOUND_j: rejected while a context of that domain is RUNNING or STOPPING (R149). -/
def State.spdBoundWrite (s : State) (t : Tile) (j : Nat) (ca : Nat) (g : RegGroup) (v : Word) : State :=
  if allCtx.any (fun c => Ctx.live (s.ctx t c) && (s.jobOf t c).val == j) then s.configError ca
  else s.plainWrite ca g v

/-- An epoch notice applied to the copies of a tile: the copy of a logical tile's epoch (R153). -/
def State.setEptab (s : State) (t : Tile) (n : Nat) (e : BitVec 16) : State := s.setReg (eptabCa t n) (e.setWidth 64)

/-- All tile sites of a field. -/
def sitesOf (f : FieldNo) : List Tile := (List.finRange 42).map fun s => ⟨f, s⟩

/-- An epoch notice applied by a field to the copies of all its tiles (R153). -/
def State.applyNotice (s : State) (f : FieldNo) (n : Nat) (e : BitVec 16) : State :=
  (sitesOf f).foldl (fun s t => s.setEptab t n e) s

end Sys2Proof.Machine
end

