-- ==== Sys2Proof/Machine/Streams.lean ====
section
/-! DEFINITION. Stream engines (chapter 7): queues, programs, reads and writes, multicast and breeze transfers. -/

namespace Sys2Proof.Machine

def strFlagsCa (t : Tile) : Nat := tileCa t 0x07 0x00

/-! ### Queues (R160) -/

/-- Bytes of an entry; a token has one. -/
def Entry.size : Entry → Nat
  | .data b _ => b.length
  | .token _ => 1

/-- Units of an entry of n bytes (R160). -/
def unitsFor (n : Nat) : Nat := max 1 ((n + 63) / 64)

/-- Units of a place. -/
def Place.units : Place → Nat
  | .ready e => unitsFor (Entry.size e)
  | .reserved r => r.units

/-- Units in or reserved in a queue. -/
def StreamCtx.units (x : StreamCtx) : Nat := x.queue.foldl (fun n p => n + Place.units p) 0

/-- Whether an entry of n units fits (R160). -/
def StreamCtx.fits (x : StreamCtx) (n : Nat) : Bool := decide (x.queue.length < 32 ∧ StreamCtx.units x + n ≤ 256)

/-- Whether an access may reserve n units: no token waits to be placed, and they fit (R160). -/
def StreamCtx.room (x : StreamCtx) (n : Nat) : Bool := x.waiting.isEmpty && StreamCtx.fits x n

/-- Tokens placed in order while there is room; the others wait (R160). -/
def StreamCtx.settle : List Byte → StreamCtx → StreamCtx
  | [], x => { x with waiting := [] }
  | ty :: ts, x =>
    if StreamCtx.fits x 1 then StreamCtx.settle ts { x with queue := x.queue ++ [.ready (.token ty)] }
    else { x with waiting := ty :: ts }

/-- A token placed by the engine (R160). -/
def StreamCtx.token (x : StreamCtx) (ty : Byte) : StreamCtx := StreamCtx.settle (x.waiting ++ [ty]) x

/-- A data entry placed. -/
def StreamCtx.place (x : StreamCtx) (bytes : List Byte) (pred : Bool) : StreamCtx :=
  { x with queue := x.queue ++ [.ready (.data bytes pred)] }

/-- Some bytes of a list replaced. -/
def overwrite (base : List Byte) (ofs : Nat) (bs : List Byte) : List Byte :=
  base.take ofs ++ bs ++ base.drop (ofs + bs.length)

/-- The bytes of an entry delivered as error fill (R148).
    DEDUCED: notes/assumptions/66. -/
def fillEntry (k : FillKind) (size : Nat) : List Byte :=
  match k with
  | .raw => rawFill size
  | .blocks f nblk nrd =>
    (List.replicate nrd (packMantissas f (List.replicate 32 (poisonMant f)))).flatten ++
    List.replicate ((nblk - nrd) * blockBytes f + nblk) 0

/-- The entry of a place whose parts have all come. -/
def Reserved.entry (r : Reserved) : Entry :=
  .data (if r.bad then fillEntry r.fill r.size
    else r.parts.foldl (fun b p => overwrite b p.1 p.2) (List.replicate r.size 0)) r.pred

/-- The data of one part of an entry: its bytes, and whether they are error fill (R148); none where the access was refused. -/
abbrev PartData := Option (List Byte × Bool)

/-- Whether a part makes its whole entry error fill: it was refused, or is error fill in a block-format entry. -/
def badPart (k : FillKind) (d : PartData) : Bool :=
  match d, k with
  | none, _ => true
  | some (_, fill), .blocks _ _ _ => fill
  | some _, .raw => false

/-- A place given one part. -/
def Reserved.part (r : Reserved) (ofs : Nat) (d : PartData) : Place :=
  let r := { r with missing := r.missing - 1, parts := r.parts ++ [(ofs, (d.map (·.1)).getD [])], bad := r.bad || badPart r.fill d }
  if r.missing = 0 then .ready (Reserved.entry r) else .reserved r

/-- One part given to the place of a number. -/
def StreamCtx.part (x : StreamCtx) (id ofs : Nat) (d : PartData) : StreamCtx :=
  { x with queue := x.queue.map fun p => match p with
      | .reserved r => if r.id = id then Reserved.part r ofs d else p
      | _ => p }

/-- Whether a place is the one reserved for an entry of a group, by the entry's number (R162). -/
def Place.isFor (g : Group) : Place → Bool
  | .reserved r => r.multicast == some (g.group, g.num)
  | .ready _ => false

/-- One part of a multicast entry given to the place reserved for it: the places of a group are filled in the order in which
    the source issued the entries (R162). -/
def partMulticast (g : Group) (d : PartData) (ps : List Place) : List Place :=
  ps.map fun p => match p with
    | .reserved r =>
      if r.multicast = some (g.group, g.num) then
        Reserved.part (if r.parts.isEmpty then { r with missing := g.parts, size := g.size, fill := g.fill, pred := g.pred } else r) g.ofs d
      else p
    | _ => p

/-- The head of a queue, if an entry is present there. -/
def StreamCtx.head (x : StreamCtx) : Option Entry :=
  match x.queue with
  | .ready e :: _ => some e
  | _ => none

/-- A queue without its head. -/
def StreamCtx.drop (x : StreamCtx) : StreamCtx := { x with queue := x.queue.tail }

/-! ### Programs (R94, R157, R161) -/

/-- A program begun with its parameter: CMPV and CST 0, PLIM 0xFFFFFF (R156). -/
def StreamCtx.begin (x : StreamCtx) (prog par : Nat) : StreamCtx :=
  { x with run := some { prog := prog, ip := 0, par := par }, cst := 0 }

/-- START (R94): the program starts, or is queued where one is in progress. A queued program whose turn has come starts
    before it. -/
def StreamCtx.start (x : StreamCtx) (prog par : Nat) : StreamCtx :=
  let x := { x with disc := 0 }
  match x.run, x.queued with
  | none, none => StreamCtx.begin x prog par
  | none, some q => { StreamCtx.begin x q.1 q.2 with queued := some (prog, par) }
  | some _, _ => { x with queued := some (prog, par) }

/-- STOP (R94): the program in progress ends without EOS. -/
def StreamCtx.stop (x : StreamCtx) : StreamCtx := { x with run := none, kept := x.run.getD x.kept }

/-- NEWGEN (R94, R161): the tag advances; a stream-in queue is emptied and takes a GEN token. The numbers of multicast entries
    and of the places reserved for them start again.
    DEDUCED: notes/assumptions/42.
    DEDUCED: notes/assumptions/127. -/
def StreamCtx.newgen (x : StreamCtx) (e : Fin 3) : StreamCtx :=
  let x := { x with gen := x.gen + 1, issued := [], reserved := [] }
  if e = 2 then x else { x with queue := [.ready (.token 0x07)], waiting := [] }

/-- Whether a NEWGEN holds: a read issued under the next tag is outstanding (R161). -/
def State.newgenHolds (s : State) (t : Tile) (e : Fin 3) (c : CtxNo) : Bool :=
  let next := ((s.eng t e c).gen + 1).toNat
  ((s.tile t).txns.any fun p => match p.2 with
    | some (.entry e' c' g _ _) => e' == e.val && c' == c.val && g == next
    | _ => false) ||
  (s.tile t).mcReads.any fun m => m.eng == e.val && m.ctx == c.val && m.gen.toNat == next

/-- A program fault (R165): the flag (1 PFAULT, 2 SIZE), the event, and the program stopped without EOS. -/
def State.strFault (s : State) (t : Tile) (e : Fin 3) (c : CtxNo) (r : StreamRun) (flag : Nat) : State :=
  ((s.raise (strFlagsCa t) flag).postCtx 0x0B t c (BitVec.ofNat 64 (e.val * 65536 + r.prog * 256 + r.ip))).modEng t e c
    StreamCtx.stop

/-- The program goes on after an instruction; passing instruction 23 faults it (R158). -/
def State.strNext (s : State) (t : Tile) (e : Fin 3) (c : CtxNo) (r : StreamRun) : State :=
  if r.ip < 23 then s.modEng t e c fun x => { x with run := some { r with ip := r.ip + 1 } }
  else s.strFault t e c r 1

/-- The program goes on at a target. -/
def State.strJump (s : State) (t : Tile) (e : Fin 3) (c : CtxNo) (r : StreamRun) (target : Nat) : State :=
  s.modEng t e c fun x => { x with run := some { r with ip := target } }

/-- IX[i] and CN[i]. -/
def StreamRun.ixAt (r : StreamRun) (i : Nat) : Nat := r.ix.getD i 0
def StreamRun.cnAt (r : StreamRun) (i : Nat) : Nat := r.cn.getD i 0

/-- An immediate, with the parameter added where PSRC is set. -/
def immPar (r : StreamRun) (w : Word) : Nat := (bits w 23 0 + if w.getLsbD 52 then r.par else 0) % 2 ^ 24

/-- The descriptor an instruction uses. -/
def State.strDesc (s : State) (t : Tile) (e : Fin 3) (c : CtxNo) (r : StreamRun) (w : Word) : Option TensorDesc :=
  s.streamDesc t e c r.prog (bits w 54 53)

/-! ### Where an access goes -/

/-- The router's network tag of a job domain (R183). -/
def State.ntagOf (s : State) (t : Tile) (job : JobNo) : BitVec 4 :=
  BitVec.ofNat 4 (s.fld (tileCa t 0x08 0) (4 * job.val + 3) (4 * job.val))

/-- This module's ID and whether it is valid (R311). -/
def isoModidCa : Nat := fabricCa 0x00
def State.moduleId (s : State) : Nat := s.fld isoModidCa 15 0
def State.moduleValid (s : State) : Bool := s.bit isoModidCa 16

/-- The ways of an access: the tile's own scratchpad, an endpoint of the network, another module, or nowhere. -/
inductive Way where
  | own (off : Nat)
  | net (dfield dsite : Nat) (dlog : Bool)
  | fabric
  | bad
  deriving DecidableEq, Repr

/-- Where an access of a tile goes (R18, R24–R27, R168, R312). -/
def State.way (s : State) (t : Tile) (loc xm : Bool) (a : Nat) : Way :=
  if xm then
    match decodeAddr a with
    | .padLogical _ _ _ => if s.moduleValid then .fabric else .bad
    | _ => .bad
  else if loc then .own a
  else match decodeAddr a with
    | .cave _ => .net t.field.val 0x31 false
    | .padLogical f n off => if s.siteOf f n = some t then .own off else .net f.val n true
    | .padPhysical u _ => .net u.field.val u.site.val false
    | .cellar f _ => .net f.val 0x32 false
    | .host _ => .net 0x3C 1 false
    | .unmapped => .bad

/-- The head of a packet that a context of a tile sends. -/
def State.tileHead (s : State) (t : Tile) (job : JobNo) (dfield dsite : Nat) (dlog : Bool) (tag : Nat) : Head :=
  { job := job, ntag := s.ntagOf t job, dfield := dfield, dsite := dsite, dlog := dlog,
    sfield := t.field.val, ssite := t.site.val, xm := false, tag := tag, mcg := none,
    smod := s.moduleId, dmod := s.moduleId }

/-- KIND of a body (Table 8-3). -/
def kindOf : Body → Nat
  | .rd _ _ => 0
  | .wr _ _ => 1
  | .cac _ _ _ _ => 2
  | .regrd _ => 3
  | .regwr _ _ => 4
  | .cohq _ _ => 5
  | .rdata _ _ _ => 6
  | .wack _ => 7
  | .cacr _ _ _ => 8
  | .cohp _ _ => 9
  | .red _ => 10
  | .bzw _ _ => 11
  | .bzack _ => 12
  | .tok _ _ => 13
  | .epochNotice _ _ => 14
  | .mcCredit _ _ _ => 14
  | .redCredit _ => 14
  | .pathNotice _ => 14
  | .nctlReserved _ => 14
  | .reserved => 15

/-- Virtual channel of a KIND: 0 VC-B, 1 VC-S, 2 VC-P, 3 VC-Q (Table 8-3). -/
def vcOf (k : Nat) : Nat :=
  if k ≤ 5 then 3 else if k ≤ 9 then 2 else if k = 10 then 1 else 0

/-- Flits of a packet (R174, Table 8-3). -/
def flitsOf : Body → Nat
  | .wr _ d => max 1 ((d.length + 127) / 128)
  | .rdata _ d _ => max 1 ((d.length + 127) / 128)
  | .cohq _ b => if b.bytes.isSome then 5 else 1
  | .cohp _ b => if b.bytes.isSome then 5 else 1
  | _ => 1

/-- The key of a source endpoint. -/
def endpointKey (field site : Nat) : Nat := 64 * field + site

/-- A packet put on the network at its source, behind those that wait there; a VC-B flit counts against the limit of R184. -/
def State.send (s : State) (h : Head) (b : Body) : State :=
  let k := endpointKey h.sfield h.ssite
  { s with net := s.net ++ [{ head := h, body := b, seq := s.netSeq }], netSeq := s.netSeq + 1,
           vcb := if vcOf (kindOf b) = 0 then tset [] s.vcb k (0 :: tget [] s.vcb k) else s.vcb }

/-- The cycles that have passed since a tile's last command that gave such a number: the ages of the VC-B flits that it injected
    in the last 64 cycles (R184).
    DESIGN CHOICE: notes/assumptions/129. -/
def State.vcbAge (s : State) (t : Tile) (since : Nat) : State :=
  let k := endpointKey t.field.val t.site.val
  { s with vcb := tset [] s.vcb k (((tget [] s.vcb k).map (· + since)).filter (· < 64)) }

/-- Whether a tile may inject another VC-B flit: it has injected fewer than 16 in the last 64 cycles (R184). -/
def State.vcbRoom (s : State) (t : Tile) : Bool := decide ((tget [] s.vcb (endpointKey t.field.val t.site.val)).length < 16)

/-- A request sent to a way, with a module for the fabric. -/
def State.request (s : State) (t : Tile) (job : JobNo) (w : Way) (dest tag : Nat) (mcg : Option Group) (b : Body) : State :=
  match w with
  | .net df ds dl => s.send { s.tileHead t job df ds dl tag with mcg := mcg } b
  | .fabric => s.send { s.tileHead t job t.field.val 0x33 false tag with xm := true, dmod := dest, mcg := mcg } b
  | _ => s

/-- The address a request carries: bits [37:0] across the fabric (R177). -/
def Way.addr (w : Way) (a : Nat) : Nat := if w = .fabric then a % 2 ^ 38 else a

/-- The first free transaction tag from the tile's next one on. -/
def TileSt.freeTag (x : TileSt) : Nat :=
  ((List.range 1024).find? (fun i => (tget none x.txns ((x.nextTag + i) % 1024)).isNone)).elim 0
    fun i => (x.nextTag + i) % 1024

/-- Whether n more transactions may be outstanding. -/
def State.tagsFree (s : State) (t : Tile) (n : Nat) : Bool := decide ((s.tile t).txns.length + n ≤ 1024)

/-- A transaction opened: its tag, and the tile with it outstanding. -/
def State.openTxn (s : State) (t : Tile) (k : TxnKind) : Nat × State :=
  let tag := TileSt.freeTag (s.tile t)
  (tag, s.modTile t fun x => { x with txns := tset none x.txns tag (some k), nextTag := (tag + 1) % 1024 })

/-- An access that is refused or unmapped: STR_FLAGS.BOUND and an address-error event; the program continues (R165). -/
def State.strUnmapped (s : State) (t : Tile) (c : CtxNo) (a : Nat) : State :=
  (s.raise (strFlagsCa t) 3).postCtx 0x05 t c (BitVec.ofNat 64 a)

/-- The slot counter of an engine: 14 stream-in A, 15 stream-in B, 16 stream-out. -/
def slotCounter (e : Fin 3) : Nat := 14 + e.val

/-! ### What an access reaches (R156, R159) -/

/-- A part of an entry to be read: its offset in the entry, its address, its length, and whether it is scales. -/
structure Span where
  ofs   : Nat
  addr  : Nat
  len   : Nat
  scale : Bool
  deriving DecidableEq, Repr

/-- A waiting reservation, counted in STRESV. -/
def State.strWait (s : State) (t : Tile) : State := s.tel t 18 1

/-- The spans of a block row (R156, R159). -/
def rowSpans (d : TensorDesc) (f : Fmt) (rr fb : Int) (nblk nrd : Nat) : List Span :=
  if nrd = 0 then []
  else [⟨0, mantAddr d f rr fb, nrd * blockBytes f, false⟩, ⟨nblk * blockBytes f, scaleAddr d rr fb, nrd, true⟩]

/-- The fields of ROW (Table 7-8). -/
structure RowFields where
  nblk : Nat
  nrd  : Nat
  rr   : Int
  fb   : Int
  pred : Bool
  deriving DecidableEq, Repr

/-- ROW's row, first block and predicate. -/
def rowFields (r : StreamRun) (w : Word) : RowFields :=
  let rr := (StreamRun.ixAt r (bits w 58 57) : Int) + signed 19 (bits w 42 24)
  ⟨bits w 51 48 + 1, bits w 47 43, rr, (StreamRun.ixAt r (bits w 56 55) : Int) + bits w 23 16,
   !w.getLsbD 52 || decide (rr < r.plim)⟩

/-- The bytes of an entry of n blocks. -/
def rowBytes (f : Fmt) (n : Nat) : Nat := n * (blockBytes f + 1)

/-- The length and the address of a LINE. -/
def lineLen (w : Word) : Nat := bits w 42 32 + 1
def lineAddr (d : TensorDesc) (r : StreamRun) (w : Word) : Nat :=
  rawAddr d (StreamRun.ixAt r (bits w 58 57)) (StreamRun.ixAt r (bits w 56 55)) (bits w 31 16)

/-- The station's entry of a multicast group (Table 8-13). -/
def mcgCa (f : FieldNo) (g w : Nat) : Nat := stationCa f 1 (0x40000 + 0x40 * g + 8 * w)

/-- Members of a group, as a station's table has it. -/
def State.groupSize (s : State) (f : FieldNo) (g : Nat) : Nat := s.fld (mcgCa f g 0) 4 0

/-- A member of a group as a station's table has it: engine, context and logical tile (Table 8-13). -/
structure Member where
  eng  : Fin 3
  ctx  : CtxNo
  tile : Nat
  deriving DecidableEq, Repr

def State.member (s : State) (f : FieldNo) (g m : Nat) : Member :=
  let w := s.reg (mcgCa f g (1 + m / 4))
  let b := 16 * (m % 4)
  ⟨if w.getLsbD (b + 14) then 1 else 0, Fin.ofNat 4 (bits w (b + 13) (b + 12)), bits w (b + 10) b⟩

/-- Key of a multicast credit count. -/
def creditKey (e : Fin 3) (c : CtxNo) (group member : Nat) : Nat := ((4 * e.val + c.val) * 4096 + group) * 16 + member

/-- A 32-byte mask with lanes 0 to n − 1 set. -/
def laneMask (n : Nat) : List Byte := toBytes 32 (2 ^ n - 1)

/-! ### Which program an engine serves (R157) -/

/-- How many of some addresses are reached over the network or the fabric. -/
def State.remotes (s : State) (t : Tile) (d : TensorDesc) (addrs : List Nat) : Nat :=
  addrs.countP fun a => match s.way t d.loc d.xm a with
    | .net _ _ _ => true
    | .fabric => true
    | _ => false

/-- Whether the transaction tags that accesses need are free; one of the tile's own banks, or one that is unmapped, needs none. -/
def State.tagsFor (s : State) (t : Tile) (d : TensorDesc) (addrs : List Nat) : Bool := s.tagsFree t (s.remotes t d addrs)

/-- Whether a breeze transfer waits for the limit of R184. -/
def State.breezeWaits (s : State) (t : Tile) (d : TensorDesc) (a : Nat) : Bool := s.remotes t d [a] != 0 && !s.vcbRoom t

/-- Whether a multicast read may issue: every member of the group has a credit (R162). -/
def State.mcReady (s : State) (t : Tile) (e : Fin 3) (c : CtxNo) (group : Nat) : Bool :=
  (List.range (s.groupSize t.field group)).all fun m => tget 0 (s.tile t).mcCredit (creditKey e c group m) != 0

/-- The addresses that an access instruction reaches: the two planes of a row, the bytes of a line, or the word of a CAC. -/
def accessAddrs (r : StreamRun) (w : Word) (d : TensorDesc) : List Nat :=
  match bits w 63 59, d.fmt with
  | 0x08, some f =>
    let q := rowFields r w
    if !q.pred || q.nrd = 0 then [] else [mantAddr d f q.rr q.fb, scaleAddr d q.rr q.fb]
  | 0x09, none => [lineAddr d r w]
  | 0x0A, none => [rawAddr d (StreamRun.ixAt r (bits w 58 57)) 0 (bits w 48 32)]
  | _, _ => []

/-- The bytes of the entry that a ROW or LINE places or takes. -/
def accessBytes (w : Word) (d : TensorDesc) : Nat :=
  match bits w 63 59, d.fmt with
  | 0x08, some f => rowBytes f (bits w 51 48 + 1)
  | _, _ => lineLen w

/-- Whether an instruction is a multicast ROW or LINE. -/
def isMulticast (w : Word) : Bool := (bits w 63 59 == 0x08 && w.getLsbD 15) || (bits w 63 59 == 0x09 && w.getLsbD 51)

/-- Whether an instruction is a breeze transfer. -/
def isBreeze (w : Word) : Bool := bits w 63 59 == 0x09 && w.getLsbD 52

/-- Whether a ROW or LINE may issue: a stream-in access when its queue can reserve the entry and, in a multicast, every member has
    a credit; a stream-out access when the head entry is present; each when the tags it needs are free (R160, R162). An
    instruction that faults may issue. -/
def State.entryReady (s : State) (t : Tile) (e : Fin 3) (c : CtxNo) (r : StreamRun) (w : Word) : Bool :=
  match s.strDesc t e c r w with
  | none => true
  | some d =>
    if d.fmt.isSome != (bits w 63 59 == 0x08) then true
    else
      let x := s.eng t e c
      (if e = 2 then (StreamCtx.head x).isSome && !(isBreeze w && s.breezeWaits t d (lineAddr d r w)) &&
          (if isMulticast w then s.tagsFree t (accessAddrs r w d).length else s.tagsFor t d (accessAddrs r w d))
       else if isMulticast w then s.mcReady t e c (bits w 11 0)
       else StreamCtx.room x (unitsFor (accessBytes w d)) && s.tagsFor t d (accessAddrs r w d))

/-- Whether an instruction can issue (R157): it does not wait for the response of a CAC, for room in its queue, for an entry, for
    tags or for credits. -/
def State.strReady (s : State) (t : Tile) (e : Fin 3) (c : CtxNo) (r : StreamRun) (w : Word) : Bool :=
  match bits w 63 59 with
  | 0x03 => r.cacTag.isNone
  | 0x07 => r.cacTag.isNone
  | 0x0C => bits w 52 51 != 1 || r.cacTag.isNone
  | 0x11 => !w.getLsbD 52 || r.cacTag.isNone
  | 0x08 => s.entryReady t e c r w
  | 0x09 => s.entryReady t e c r w
  | 0x0A => r.cacTag.isNone && (match s.strDesc t e c r w with | some d => s.tagsFor t d (accessAddrs r w d) | none => true)
  | 0x0D => StreamCtx.room (s.eng t e c) 1
  | 0x0E => StreamCtx.room (s.eng t e c) 1
  | 0x10 => bits w 23 0 - r.mrxDone == 0 || StreamCtx.room (s.eng t e c) (bits w 31 24)
  | _ => true

/-- The next instruction of a program in progress that is awake. -/
def State.strNextWord (s : State) (t : Tile) (e : Fin 3) (c : CtxNo) : Option (StreamRun × Word) :=
  match (s.eng t e c).run with
  | some r => if r.sleep then none else some (r, s.streamWord t e c r.prog (8 + r.ip))
  | none => none

/-- Whether the program of a context on an engine can issue. -/
def State.strCan (s : State) (t : Tile) (e : Fin 3) (c : CtxNo) : Bool :=
  match s.strNextWord t e c with
  | some (r, w) => streamReserved e.val w || s.strReady t e c r w
  | none => false

/-- The context that an engine serves in its next cycle: the current one if its program can issue, else the next in cyclic order
    after the last one served whose program can (R157). -/
def State.engineChoice (s : State) (t : Tile) (e : Fin 3) : Option CtxNo :=
  let last := (tget {} (s.tile t).served e.val).ctx
  match (s.tile t).current.filter (s.strCan t e) with
  | some c => some c
  | none => [last + 1, last + 2, last + 3, last].find? (s.strCan t e)

/-- Whether an instruction is a control instruction (R157). -/
def isControl (w : Word) : Bool := [0x01, 0x02, 0x03, 0x04, 0x05, 0x06, 0x07, 0x0C, 0x11].contains (bits w 63 59)

/-- Whether an engine's cycle has a place left for an instruction: up to four control instructions and then one access
    instruction of one context (R157). -/
def EngCycle.has (y : EngCycle) (c : CtxNo) (w : Word) : Bool := y.ctx == c && !y.access && (!isControl w || decide (y.controls < 4))

/-- Whether an engine serves an instruction of a context: in its present cycle, or as its choice for the next one. -/
def State.engineServes (s : State) (t : Tile) (e : Fin 3) (c : CtxNo) (w : Word) : Bool :=
  EngCycle.has (tget {} (s.tile t).served e.val) c w || s.engineChoice t e == some c

/-- An instruction counted in its engine's cycle, a new one where the present one has no place left for it. -/
def State.countServed (s : State) (t : Tile) (e : Fin 3) (c : CtxNo) (w : Word) : State :=
  let y := tget {} (s.tile t).served e.val
  let y : EngCycle := if EngCycle.has y c w then y else { ctx := c }
  let y := if isControl w then { y with controls := y.controls + 1 } else { y with access := true }
  s.modTile t fun x => { x with served := tset {} x.served e.val y }

/-- The instruction a program of an engine executes next, if it is awake and either waits or is the one that the engine
    serves. -/
def State.strFetch (s : State) (t : Tile) (e : Fin 3) (c : CtxNo) : Option (StreamRun × Word) :=
  if !s.unitRuns t then none
  else (s.strNextWord t e c).filter fun p => !s.strCan t e c || s.engineServes t e c p.2

/-- Execute the next instruction if it is of the given opcode; a reserved code faults the program (R158, R165). -/
def State.strInstr (s : State) (t : Tile) (e : Fin 3) (c : CtxNo) (op : Nat) (f : State → StreamRun → Word → State) : Out :=
  match s.strFetch t e c with
  | none => .next s
  | some (r, w) =>
    let s1 := if s.strCan t e c then s.countServed t e c w else s
    if streamReserved e.val w then .next (s1.strFault t e c r 1)
    else if bits w 63 59 = op then .next (f s1 r w)
    else .next s

/-! ### Control instructions -/

/-- END: the program completes; a stream-in engine places EOS (R157). -/
def execStreamEnd (t : Tile) (e : Fin 3) (c : CtxNo) (s : State) : Out :=
  s.strInstr t e c 0x00 fun s _ _ => s.modEng t e c fun x =>
    if e = 2 then StreamCtx.stop x else StreamCtx.token (StreamCtx.stop x) 0x01

/-- IXSET: IX[IA] := IMM, plus PAR where PSRC = 1. -/
def execIxset (t : Tile) (e : Fin 3) (c : CtxNo) (s : State) : Out :=
  s.strInstr t e c 0x01 fun s r w => s.strNext t e c { r with ix := setAt r.ix (bits w 58 57) (immPar r w) }

/-- IXADD: IX[IA] := IX[IA] + IMM modulo 2^24. -/
def execIxadd (t : Tile) (e : Fin 3) (c : CtxNo) (s : State) : Out :=
  s.strInstr t e c 0x02 fun s r w =>
    s.strNext t e c { r with ix := setAt r.ix (bits w 58 57) ((StreamRun.ixAt r (bits w 58 57) + bits w 23 0) % 2 ^ 24) }

/-- IXLD: IX[IA] := CMPV[23:0]; waits for the CAC's response (R157). -/
def execIxld (t : Tile) (e : Fin 3) (c : CtxNo) (s : State) : Out :=
  s.strInstr t e c 0x03 fun s r w =>
    if r.cacTag.isSome then s
    else s.strNext t e c { r with ix := setAt r.ix (bits w 58 57) (bits r.cmpv 23 0) }

/-- SETC: CN[IA] := IMM, plus PAR where PSRC = 1. -/
def execSetc (t : Tile) (e : Fin 3) (c : CtxNo) (s : State) : Out :=
  s.strInstr t e c 0x04 fun s r w => s.strNext t e c { r with cn := setAt r.cn (bits w 58 57) (immPar r w) }

/-- DJNZ: CN[IA] := CN[IA] − 1, and a branch if it is not 0. -/
def execStreamDjnz (t : Tile) (e : Fin 3) (c : CtxNo) (s : State) : Out :=
  s.strInstr t e c 0x05 fun s r w =>
    let v := (StreamRun.cnAt r (bits w 58 57) + (2 ^ 24 - 1)) % 2 ^ 24
    let r' := { r with cn := setAt r.cn (bits w 58 57) v }
    if v ≠ 0 then s.strJump t e c r' (bits w 4 0) else s.strNext t e c r'

/-- JMP: a branch. -/
def execStreamJmp (t : Tile) (e : Fin 3) (c : CtxNo) (s : State) : Out :=
  s.strInstr t e c 0x06 fun s r w => s.strJump t e c r (bits w 4 0)

/-- BRS: a branch if CST = CODE; waits for the CAC's response (R157). -/
def execBrs (t : Tile) (e : Fin 3) (c : CtxNo) (s : State) : Out :=
  s.strInstr t e c 0x07 fun s r w =>
    if r.cacTag.isSome then s
    else if (s.eng t e c).cst = bits w 52 51 then s.strJump t e c r (bits w 4 0) else s.strNext t e c r

/-- PLIM: the predicate limit from IMM, CMPV[23:0] or PAR. -/
def execPlim (t : Tile) (e : Fin 3) (c : CtxNo) (s : State) : Out :=
  s.strInstr t e c 0x0C fun s r w =>
    match bits w 52 51 with
    | 0 => s.strNext t e c { r with plim := bits w 23 0 }
    | 1 => if r.cacTag.isSome then s else s.strNext t e c { r with plim := bits r.cmpv 23 0 }
    | _ => s.strNext t e c { r with plim := r.par }

/-- SETM: the module register from ID or CMPV[15:0]. -/
def execSetm (t : Tile) (e : Fin 3) (c : CtxNo) (s : State) : Out :=
  s.strInstr t e c 0x11 fun s r w =>
    if w.getLsbD 52 ∧ r.cacTag.isSome then s
    else
      let m := if w.getLsbD 52 then bits r.cmpv 15 0 else bits w 15 0
      (s.modEng t e c fun x => { x with dest := m }).strNext t e c r

/-- WAITN: the program issues nothing for N cycles. -/
def execWaitn (t : Tile) (e : Fin 3) (c : CtxNo) (s : State) : Out :=
  s.strInstr t e c 0x0F fun s r w => s.strNext t e c { r with sleep := decide (bits w 15 0 ≠ 0) }

/-- The cycles of a WAITN have passed. -/
def execWaitnExpire (t : Tile) (e : Fin 3) (c : CtxNo) (s : State) : Out :=
  .next (s.modEng t e c fun x => { x with run := x.run.map fun r => { r with sleep := false } })

/-- A queued program starts where none is in progress (R94, R157, R165). -/
def execQueuedProgramStart (t : Tile) (e : Fin 3) (c : CtxNo) (s : State) : Out :=
  if !s.clocked t.field then .next s
  else .next (s.modEng t e c fun x =>
    match x.run, x.queued with
    | none, some (prog, par) => { StreamCtx.begin x prog par with queued := none }
    | _, _ => x)

/-- Tokens that wait are placed as soon as an entry and a unit are free (R160). -/
def execEngineTokenPlace (t : Tile) (e : Fin 2) (c : CtxNo) (s : State) : Out :=
  .next (s.modEng t (Fin.castLE (by decide) e) c fun x => StreamCtx.settle x.waiting x)

/-- A read at the tile's own banks for a context: the bytes and whether they are error fill, or none where it is refused
    (R148, R149). -/
def State.ownRead (s : State) (t : Tile) (e : Fin 3) (c : CtxNo) (off len : Nat) : Option (List Byte × Bool) × State :=
  let job := s.jobOf t c
  if s.inBounds t job.val off len then
    let (d, s) := (s.tel t (slotCounter e) (linesOf off len)).padRead t off len
    (some (d.getD (rawFill len), d.isNone), s)
  else (none, (s.padRefuse t job.val off).raise (strFlagsCa t) 3)

/-- A write at the tile's own banks for a context. -/
def State.ownWrite (s : State) (t : Tile) (e : Fin 3) (c : CtxNo) (off : Nat) (d : List Byte) : State :=
  let job := s.jobOf t c
  if s.inBounds t job.val off d.length then (s.tel t (slotCounter e) (linesOf off d.length)).padStore t off d
  else (s.padRefuse t job.val off).raise (strFlagsCa t) 3

/-- The bytes of a line of the tile's scratchpad, if no word of it is uncorrectable. -/
def State.soundLine (s : State) (t : Tile) (line : Nat) : Option (List Byte) :=
  let a := padAddr t (512 * line)
  if (wordsOf a 512).all fun w => decide (tget 0 s.ecc w < 2) then some (s.bytes a 512) else none

/-- A read of exponent bytes at the tile's own banks: from the held scale line where they lie in it, without a
    slot; otherwise the line is read and held (R159).
    DEDUCED: notes/assumptions/41. -/
def State.scaleRead (s : State) (t : Tile) (e : Fin 3) (c : CtxNo) (off len : Nat) : Option (List Byte × Bool) × State :=
  let held := match (s.eng t e c).scaleLine with
    | some (line, bs) => if line = off / 512 ∧ linesOf off len = 1 ∧ s.inBounds t (s.jobOf t c).val off len then
        some ((bs.drop (off % 512)).take len) else none
    | none => none
  match held with
  | some d => (some (d, false), s)
  | none =>
    let (d, s) := s.ownRead t e c off len
    let line := (off + len - 1) / 512
    (d, if d.isSome then s.modEng t e c fun x => { x with scaleLine := (s.soundLine t line).map fun bs => (line, bs) } else s)

/-- Issue the read of one part for the place of a number; its place receives it at once where it is local. -/
def State.readSpan (s : State) (t : Tile) (e : Fin 3) (c : CtxNo) (d : TensorDesc) (id : Nat) (sp : Span) : State :=
  let w := s.way t d.loc d.xm sp.addr
  match w with
  | .own off =>
    let (r, s) := if sp.scale then s.scaleRead t e c off sp.len else s.ownRead t e c off sp.len
    s.modEng t e c fun x => StreamCtx.part x id sp.ofs r
  | .bad => (s.strUnmapped t c sp.addr).modEng t e c fun x => StreamCtx.part x id sp.ofs none
  | _ =>
    let x := s.eng t e c
    let (tag, s) := s.openTxn t (.entry e.val c.val x.gen.toNat id sp.ofs)
    s.request t (s.jobOf t c) w x.dest tag none (.rd (Way.addr w sp.addr) sp.len)

/-- Reserve a place and issue the reads of its parts. -/
def State.readEntry (s : State) (t : Tile) (e : Fin 3) (c : CtxNo) (d : TensorDesc) (size : Nat) (fill : FillKind)
    (spans : List Span) : State :=
  let id := (s.eng t e c).nextId
  let s := s.modEng t e c fun x => { x with
    nextId := id + 1
    queue := x.queue ++ [.reserved ⟨id, unitsFor size, spans.length, size, [], fill, false, true, none⟩] }
  spans.foldl (fun s sp => s.readSpan t e c d id sp) s

/-- A stream-in ROW. -/
def State.rowIn (s : State) (t : Tile) (e : Fin 3) (c : CtxNo) (r : StreamRun) (d : TensorDesc) (f : Fmt) (w : Word) : State :=
  let q := rowFields r w
  let size := rowBytes f q.nblk
  if !StreamCtx.room (s.eng t e c) (unitsFor size) then s.strWait t
  else if !s.tagsFor t d (accessAddrs r w d) then s
  else if !q.pred then (s.modEng t e c fun x => StreamCtx.place x (List.replicate size 0) false).strNext t e c r
  else if q.nrd = 0 then (s.modEng t e c fun x => StreamCtx.place x (List.replicate size 0) true).strNext t e c r
  else (s.readEntry t e c d size (.blocks f q.nblk q.nrd) (rowSpans d f q.rr q.fb q.nblk q.nrd)).strNext t e c r

/-! ### Stream-out writes -/

/-- The write of some bytes at an address of a descriptor. -/
def State.writeSpan (s : State) (t : Tile) (c : CtxNo) (d : TensorDesc) (addr : Nat) (data : List Byte) : State :=
  let w := s.way t d.loc d.xm addr
  match w with
  | .own off => s.ownWrite t 2 c off data
  | .bad => s.strUnmapped t c addr
  | _ =>
    let (tag, s) := s.openTxn t (.write c.val)
    s.request t (s.jobOf t c) w (s.eng t 2 c).dest tag none (.wr (Way.addr w addr) data)

/-- A stream-out access: it takes the head entry, of the size given, and hands its bytes on; an entry of another
    size faults the program (R160, R165).
    DEDUCED: notes/assumptions/43. -/
def State.takeOut (s : State) (t : Tile) (c : CtxNo) (r : StreamRun) (size : Nat) (f : State → List Byte → State) : State :=
  match StreamCtx.head (s.eng t 2 c) with
  | none => s
  | some (.data b _) =>
    if b.length = size then (f (s.modEng t 2 c StreamCtx.drop) b).strNext t 2 c r else s.strFault t 2 c r 2
  | some (.token _) => s.strFault t 2 c r 2

/-- A stream-out ROW. -/
def State.rowOut (s : State) (t : Tile) (c : CtxNo) (r : StreamRun) (d : TensorDesc) (f : Fmt) (w : Word) : State :=
  let q := rowFields r w
  if !s.tagsFor t d (accessAddrs r w d) then s
  else s.takeOut t c r (rowBytes f q.nblk) fun s b =>
    if !q.pred || q.nrd = 0 then s
    else
      let s := s.writeSpan t c d (mantAddr d f q.rr q.fb) (b.take (q.nrd * blockBytes f))
      s.writeSpan t c d (scaleAddr d q.rr q.fb) ((b.drop (q.nblk * blockBytes f)).take q.nrd)

/-- ROW (R159): one block-format row entry read or written. -/
def execRow (t : Tile) (e : Fin 3) (c : CtxNo) (s : State) : Out :=
  s.strInstr t e c 0x08 fun s r w =>
    if w.getLsbD 15 then s
    else match s.strDesc t e c r w with
      | some ⟨some f, loc, xm, mb, so, rs, ss⟩ =>
        let d : TensorDesc := ⟨some f, loc, xm, mb, so, rs, ss⟩
        if e = 2 then s.rowOut t c r d f w else s.rowIn t e c r d f w
      | _ => s.strFault t e c r 1

/-- LINE (Table 7-7): LEN bytes at a RAW address read or written. -/
def execLine (t : Tile) (e : Fin 3) (c : CtxNo) (s : State) : Out :=
  s.strInstr t e c 0x09 fun s r w =>
    if w.getLsbD 51 || w.getLsbD 52 then s
    else match s.strDesc t e c r w with
      | some d =>
        if d.fmt.isSome then s.strFault t e c r 1
        else if !s.tagsFor t d (accessAddrs r w d) then s
        else if e = 2 then s.takeOut t c r (lineLen w) fun s b => s.writeSpan t c d (lineAddr d r w) b
        else if !StreamCtx.room (s.eng t e c) (unitsFor (lineLen w)) then s.strWait t
        else (s.readEntry t e c d (lineLen w) .raw [⟨0, lineAddr d r w, lineLen w, false⟩]).strNext t e c r
      | none => s.strFault t e c r 1

/-! ### Compare-and-count -/

/-- Who a context of a tile is to a lock (R154). -/
def State.requester (s : State) (t : Tile) (c : CtxNo) : Requester :=
  ⟨(s.logicalOf t).elim 0xFFF (40 * t.field.val + ·), c.val, s.fld (spdEpochCa t) 15 0⟩

/-- CAC (R150, R157): a compare-and-count on the word at MBASE + IX[IA]·RSTRIDE + 8·WOFS. -/
def execStreamCac (t : Tile) (e : Fin 3) (c : CtxNo) (s : State) : Out :=
  s.strInstr t e c 0x0A fun s r w =>
    match s.strDesc t e c r w, cacOpOf (bits w 52 49) with
    | some d, some op =>
      let a := rawAddr d (StreamRun.ixAt r (bits w 58 57)) 0 (bits w 48 32)
      if d.fmt.isSome || a % 8 ≠ 0 then s.strFault t e c r 1
      else if r.cacTag.isSome || !s.tagsFor t d [a] then s
      else
        let job := s.jobOf t c
        let who := s.requester t c
        let wy := s.way t d.loc d.xm a
        match wy with
        | .own off =>
          let (res, s) := (s.tel t (slotCounter e) 1).padCac t job.val off op (bits w 31 0) who
          let s := if res.st = .done then s else s.raise (strFlagsCa t) 3
          (s.modEng t e c fun x => { x with cst := res.cst }).strNext t e c { r with cmpv := res.cmpv }
        | .bad =>
          ((s.strUnmapped t c a).modEng t e c fun x => { x with cst := cstFault }).strNext t e c { r with cmpv := fillWord }
        | _ =>
          let (tag, s) := s.openTxn t (.cac e.val c.val)
          (s.request t job wy (s.eng t e c).dest tag none (.cac (Way.addr wy a) (bits w 52 49) (bits w 31 0) who)).strNext
            t e c { r with cacTag := some tag }
    | _, _ => s.strFault t e c r 1

/-! ### Spill and fill (R163) -/

/-- ACCX of either kind: the checks of R163, then the move. DESIGN CHOICE: the address-error event of a row outside its bounds gives
    the data address of the scratchpad row, notes/assumptions/39. -/
def State.accx (s : State) (t : Tile) (e : Fin 3) (c : CtxNo) (r : StreamRun) (w : Word)
    (f : State → Nat → Nat → State) : State :=
  match s.strDesc t e c r w with
  | none => s.strFault t e c r 1
  | some d =>
    let g := StreamRun.ixAt r (bits w 58 57) % 1024
    let a := rawAddr d (StreamRun.ixAt r (bits w 56 55)) 0 0
    if d.fmt.isSome then s.strFault t e c r 1
    else if !d.loc || d.xm then (s.strUnmapped t c a).strNext t e c r
    else if !s.accBound t c g then
      ((s.raise (strFlagsCa t) 4).postCtx 0x05 t c (BitVec.ofNat 64 (padAddr t a))).strNext t e c r
    else (f s g a).strNext t e c r

/-- ACCX on stream-out: an accumulator row moves to the scratchpad. `upsets` names the elements of the row whose
    stored bits an upset has changed. While the chain has port S the instruction waits (R74).
    DEDUCED: notes/assumptions/120. -/
def execAccxSpill (t : Tile) (c : CtxNo) (upsets : List (Fin 256)) (portS : Bool) (s : State) : Out :=
  if portS then .next s
  else s.strInstr t 2 c 0x0B fun s r w => s.accx t 2 c r w fun s g a =>
    let (row, s) := (s.upsetAcc t g upsets).readAccRow t g
    s.ownWrite t 2 c a (row.map fun v => toBytes 8 v.toNat).flatten

/-- ACCX on stream-in: a scratchpad row moves into the accumulators; a refused read moves error fill. `lost` names the
    elements at which a pass's write came in the same cycle: the fill's write of them is lost (R75). While the chain has port S
    the instruction waits (R74).
    DEDUCED: notes/assumptions/120. -/
def execAccxFill (t : Tile) (e : Fin 2) (c : CtxNo) (lost : List (Fin 256)) (portS : Bool) (s : State) : Out :=
  let e : Fin 3 := Fin.castLE (by decide) e
  if portS then .next s
  else s.strInstr t e c 0x0B fun s r w => s.accx t e c r w fun s g a =>
    let (d, s) := s.ownRead t e c a 2048
    let ws := (chunks 8 256 ((d.map (·.1)).getD (rawFill 2048))).map fun b => BitVec.ofNat 64 (ofBytes b)
    let s := if lost.isEmpty then s else s.accHazard t g
    (List.finRange 256).foldl (fun s j => if lost.contains j then s else s.writeAcc t g j.val (ws.getD j.val 0)) s

/-! ### Masks, tokens and multicast (R158, R162) -/

/-- MASKN: a lane mask placed in the queue. -/
def execMaskn (t : Tile) (e : Fin 2) (c : CtxNo) (s : State) : Out :=
  let e : Fin 3 := Fin.castLE (by decide) e
  s.strInstr t e c 0x0D fun s r w =>
    if !StreamCtx.room (s.eng t e c) 1 then s.strWait t
    else (s.modEng t e c fun x =>
      StreamCtx.place x (laneMask (if w.getLsbD 52 then min r.plim 256 else bits w 8 0)) true).strNext t e c r

/-- TOK of a stream program: a token placed in the data queue. -/
def execStreamTok (t : Tile) (e : Fin 2) (c : CtxNo) (s : State) : Out :=
  let e : Fin 3 := Fin.castLE (by decide) e
  s.strInstr t e c 0x0E fun s r w =>
    if !StreamCtx.room (s.eng t e c) 1 then s.strWait t
    else (s.modEng t e c fun x => { x with queue := x.queue ++ [.ready (.token (BitVec.ofNat 8 (bits w 7 0)))] }).strNext t e c r

/-- One reservation of an MRX and its credit, repeated while there is room and reservations are due. -/
def State.mrxReserve (s : State) (t : Tile) (e : Fin 3) (c : CtxNo) (group units : Nat) (h : Head) (b : Body) : Nat → Nat × State
  | 0 => (0, s)
  | fuel + 1 =>
    if StreamCtx.room (s.eng t e c) units then
      let s := s.modEng t e c fun x => { x with
        nextId := x.nextId + 1
        reserved := tset 0 x.reserved group (tget 0 x.reserved group + 1)
        queue := x.queue ++ [.reserved ⟨x.nextId, units, 1, 0, [], .raw, false, true, some (group, tget 0 x.reserved group)⟩] }
      let (n, s) := State.mrxReserve (s.send h b) t e c group units h b fuel
      (n + 1, s)
    else (0, s)

/-- The number of an engine of a tile among a group's members (Table 8-13). -/
def State.memberNo (s : State) (t : Tile) (e : Fin 3) (c : CtxNo) (group : Nat) : Option (Fin 16) :=
  (List.finRange 16).find? fun m =>
    let k := s.member t.field group m.val
    decide (m.val < s.groupSize t.field group) && k.eng == e && k.ctx == c && s.tileOfLogical k.tile == some t

/-- The head of the credits that a member returns to an issuing engine's tile. -/
def State.creditHead (s : State) (t : Tile) (e : Fin 3) (c : CtxNo) (key group : Nat) : Head :=
  { s.tileHead t (s.jobOf t c) (key / 42) (key % 42) false 0 with mcg := some { group := group, member := s.memberNo t e c group } }

/-- MRX: places reserved for multicast entries, each returned to the issuing engine as one credit; the instruction
    ends when N have been made. The issuing engine, which the encoding does not name, is an operand.
    DEDUCED: notes/assumptions/44. -/
def execMrx (t : Tile) (e : Fin 2) (c : CtxNo) (src : Tile) (srcEng : Fin 2) (srcCtx : CtxNo) (group : BitVec 12)
    (s : State) : Out :=
  let e : Fin 3 := Fin.castLE (by decide) e
  s.strInstr t e c 0x10 fun s r w =>
    let units := bits w 31 24
    let left := bits w 23 0 - r.mrxDone
    let (n, s) := s.mrxReserve t e c group.toNat units (s.creditHead t e c src.key group.toNat)
      (.mcCredit srcEng.val srcCtx units) (min left 33)
    let s := s.modEng t e c fun x => { x with mrx := some (src.key, srcEng.val, srcCtx.val, units) }
    if n = left then s.strNext t e c { r with mrxDone := 0 }
    else s.modEng t e c fun x => { x with run := some { r with mrxDone := r.mrxDone + n } }

/-! ### Multicast (R162) -/

/-- A packet from a tile to a multicast group. -/
def State.sendGroup (s : State) (t : Tile) (job : JobNo) (tag : Nat) (g : Group) (b : Body) : State :=
  s.send { s.tileHead t job 0x3E 0 false tag with mcg := some g } b

/-- One part of a multicast read: read at once where it is local, and sent to the group; or its request sent.
    DEDUCED: notes/assumptions/39. -/
def State.readMulticast (s : State) (t : Tile) (e : Fin 3) (c : CtxNo) (d : TensorDesc) (g : Group) (sp : Span) : State :=
  let job := s.jobOf t c
  let g := { g with ofs := sp.ofs }
  let w := s.way t d.loc d.xm sp.addr
  match w with
  | .own off =>
    let (r, s) := if sp.scale then s.scaleRead t e c off sp.len else s.ownRead t e c off sp.len
    match r with
    | some (bs, fill) => s.sendGroup t job 0 g (.rdata .done bs fill)
    | none => s.sendGroup t job 0 g (.rdata .addrErr [] false)
  | .fabric => (s.strUnmapped t c sp.addr).sendGroup t job 0 g (.rdata .addrErr [] false)
  | .bad => (s.strUnmapped t c sp.addr).sendGroup t job 0 g (.rdata .addrErr [] false)
  | _ => s.request t job w 0 0 (some g) (.rd (Way.addr w sp.addr) sp.len)

/-- A multicast read of spans, when every member has a credit; then every count is lowered, and the read is outstanding until
    its last part has been replicated (R161, R162).
    DEDUCED: notes/assumptions/127. -/
def State.multicastRead (s : State) (t : Tile) (e : Fin 3) (c : CtxNo) (r : StreamRun) (d : TensorDesc) (g : Group)
    (spans : List Span) : State :=
  let keys := (List.range (s.groupSize t.field g.group)).map fun m => creditKey e c g.group m
  if !s.mcReady t e c g.group then s
  else
    let x := s.eng t e c
    let g := { g with src := some (t.key, e.val, c.val), num := tget 0 x.issued g.group, parts := max 1 spans.length }
    let s := s.modTile t fun x => { x with
      mcCredit := keys.foldl (fun m k => tset 0 m k (tget 0 m k - 1)) x.mcCredit
      mcReads := x.mcReads ++ [⟨e.val, c.val, g.gen, g.group, g.num, g.parts⟩] }
    let s := s.modEng t e c fun x => { x with issued := tset 0 x.issued g.group (g.num + 1) }
    let s := if spans.isEmpty then s.sendGroup t (s.jobOf t c) 0 g (.rdata .done [] false)
      else spans.foldl (fun s sp => s.readMulticast t e c d g sp) s
    s.strNext t e c r

/-- One part of a multicast read no longer outstanding (R161). -/
def State.mcReadPart (s : State) (g : Group) : State :=
  match g.src with
  | none => s
  | some (key, e, c) =>
    let u : Tile := ⟨Fin.ofNat 48 (key / 42), Fin.ofNat 42 (key % 42)⟩
    let less (m : McRead) : McRead :=
      if m.eng = e ∧ m.ctx = c ∧ m.gen = g.gen ∧ m.group = g.group ∧ m.num = g.num then { m with parts := m.parts - 1 } else m
    s.modTile u fun x => { x with mcReads := (x.mcReads.map less).filter fun m => decide (m.parts ≠ 0) }

/-- A stream-in ROW or LINE with MC = 1: one read, delivered to every member of the group. -/
def execMulticastRead (t : Tile) (e : Fin 2) (c : CtxNo) (s : State) : Out :=
  let e : Fin 3 := Fin.castLE (by decide) e
  match s.strFetch t e c with
  | none => .next s
  | some (_, w) =>
    if bits w 63 59 = 0x08 ∧ w.getLsbD 15 then
      s.strInstr t e c 0x08 fun s r w =>
        match s.strDesc t e c r w with
        | some ⟨some f, loc, xm, mb, so, rs, ss⟩ =>
          let d : TensorDesc := ⟨some f, loc, xm, mb, so, rs, ss⟩
          let q := rowFields r w
          s.multicastRead t e c r d { group := bits w 11 0, gen := (s.eng t e c).gen, size := rowBytes f q.nblk, fill := .blocks f q.nblk q.nrd, pred := q.pred }
            (if q.pred then rowSpans d f q.rr q.fb q.nblk q.nrd else [])
        | _ => s.strFault t e c r 1
    else if bits w 63 59 = 0x09 ∧ w.getLsbD 51 then
      s.strInstr t e c 0x09 fun s r w =>
        match s.strDesc t e c r w with
        | some d =>
          if d.fmt.isSome then s.strFault t e c r 1
          else s.multicastRead t e c r d { group := bits w 11 0, gen := (s.eng t e c).gen, size := lineLen w }
            [⟨0, lineAddr d r w, lineLen w, false⟩]
        | none => s.strFault t e c r 1
    else .next s

/-- A multicast write of some bytes: one packet to the group, at the offset of a logical-mode direct address whose
    FIELD and SITE bits are ignored (R162, R177). -/
def State.writeMulticast (s : State) (t : Tile) (c : CtxNo) (d : TensorDesc) (group addr : Nat) (data : List Byte) : State :=
  if d.loc || d.xm || decide (addr >>> 38 ≠ 0x10000 ∨ addr >>> 37 % 2 = 0) then s.strUnmapped t c addr
  else
    let (tag, s) := s.openTxn t (.write c.val)
    s.sendGroup t (s.jobOf t c) tag { group := group } (.wr (addr % 2 ^ 25) data)

/-- A stream-out ROW or LINE with MC = 1: its entry written once, to every member of the group. -/
def execMulticastWrite (t : Tile) (c : CtxNo) (s : State) : Out :=
  match s.strFetch t 2 c with
  | none => .next s
  | some (_, w) =>
    if bits w 63 59 = 0x08 ∧ w.getLsbD 15 then
      s.strInstr t 2 c 0x08 fun s r w =>
        match s.strDesc t 2 c r w with
        | some ⟨some f, loc, xm, mb, so, rs, ss⟩ =>
          let d : TensorDesc := ⟨some f, loc, xm, mb, so, rs, ss⟩
          let q := rowFields r w
          if !s.tagsFree t (accessAddrs r w d).length then s
          else s.takeOut t c r (rowBytes f q.nblk) fun s b =>
            if !q.pred || q.nrd = 0 then s
            else
              let s := s.writeMulticast t c d (bits w 11 0) (mantAddr d f q.rr q.fb) (b.take (q.nrd * blockBytes f))
              s.writeMulticast t c d (bits w 11 0) (scaleAddr d q.rr q.fb) ((b.drop (q.nblk * blockBytes f)).take q.nrd)
        | _ => s.strFault t 2 c r 1
    else if bits w 63 59 = 0x09 ∧ w.getLsbD 51 ∧ w.getLsbD 52 = false then
      s.strInstr t 2 c 0x09 fun s r w =>
        match s.strDesc t 2 c r w with
        | some d =>
          if d.fmt.isSome then s.strFault t 2 c r 1
          else if !s.tagsFree t 1 then s
          else s.takeOut t c r (lineLen w) fun s b => s.writeMulticast t c d (bits w 11 0) (lineAddr d r w) b
        | none => s.strFault t 2 c r 1
    else .next s

/-- Whether a destination is one a breeze transfer may have: a scratchpad direct address, mapped or not (R25), or an
    offset in the tile's own scratchpad (R164). -/
def breezeOk (d : TensorDesc) (a : Nat) : Bool := if d.loc then !d.xm else a >>> 53 % 8 == 2

/-- A stream-out LINE with BRZ = 1: 8–64 bytes to a scratchpad in one VC-B packet (R164). `since` is the number of cycles since the
    last command of this tile that gave such a number; beyond the limit of R184 the transfer waits. -/
def execBreezeTransfer (t : Tile) (c : CtxNo) (since : Nat) (s : State) : Out :=
  let s := s.vcbAge t since
  match s.strFetch t 2 c with
  | none => .next s
  | some (_, w) =>
    if bits w 63 59 = 0x09 ∧ w.getLsbD 52 then
      s.strInstr t 2 c 0x09 fun s r w =>
        match s.strDesc t 2 c r w with
        | none => s.strFault t 2 c r 1
        | some d =>
          let a := lineAddr d r w
          if d.fmt.isSome || w.getLsbD 51 || decide (64 < lineLen w) || !breezeOk d a then s.strFault t 2 c r 1
          else if !s.tagsFor t d [a] || s.breezeWaits t d a then s
          else s.takeOut t c r (lineLen w) fun s b =>
            let wy := s.way t d.loc d.xm a
            match wy with
            | .own off => s.ownWrite t 2 c off b
            | .bad => s.strUnmapped t c a
            | _ =>
              let (tag, s) := s.openTxn t (.write c.val)
              s.request t (s.jobOf t c) wy (s.eng t 2 c).dest tag none (.bzw (Way.addr wy a) b)
    else .next s

/-! ### Responses -/

/-- Where the bytes of a piece of a sparse command's source go. -/
def Piece.dst (p : Piece) : Nat :=
  match p.kind with
  | .scale _ => p.dst.scale + p.ofs
  | _ => p.dst.data + p.ofs

/-- n blocks of error fill from block b on of a row's place: poison mantissas, exponents 0 (R148). -/
def RowPlace.fill (r : RowPlace) (f : Fmt) (b n : Nat) : List (Nat × List Byte) :=
  [(r.data + b * blockBytes f, (blockFill f n).take (n * blockBytes f)), (r.scale + b, List.replicate n 0)]

/-- Error fill in what a piece of a sparse command's source covers: whole blocks, or words (R148, R289). -/
def Piece.fill (p : Piece) : List (Nat × List Byte) :=
  match p.kind with
  | .mant f =>
    let b := p.ofs / blockBytes f
    RowPlace.fill p.dst f b ((p.ofs + p.len - 1) / blockBytes f + 1 - b)
  | .scale f => RowPlace.fill p.dst f p.ofs p.len
  | .raw => [(Piece.dst p, rawFill p.len)]

/-- A piece of a sparse command's source taken: its bytes, or error fill; a refusal is marked (R289). -/
def SpxCmd.take (c : SpxCmd) (p : Piece) (d : PartData) : SpxCmd :=
  match d with
  | some (bs, false) => { c with out := c.out ++ [(Piece.dst p, bs)] }
  | _ => { c with lost := c.lost ++ Piece.fill p, addrErr := c.addrErr || d.isNone }

/-- A piece of a sparse command's source that has come; one of an abandoned command is discarded (R289, R294). -/
def SpxSt.part (x : SpxSt) (n : Nat) (d : PartData) : SpxSt :=
  { x with cmd := x.cmd.map fun c => match c.waiting.find? (fun w => w.1 == n) with
      | some (_, p) => SpxCmd.take { c with waiting := c.waiting.filter (fun w => w.1 != n) } p d
      | none => c }

/-- A response to a transaction of a tile (R154, R160, R161, R165): a part of an entry, or the discard of one whose
    tag is old; the acknowledgement of a write; the result of a CAC; a part of a shard's block; a piece of a sparse command's source. A
    status other than DONE sets a stream engine's STR_FLAGS.BOUND. -/
def State.respond (s : State) (t : Tile) (tag : Nat) (st : NStatus) (data : List Byte) (fill : Bool) (cst : Nat) : State :=
  match tget none (s.tile t).txns tag with
  | none => s
  | some k =>
    let s := s.modTile t fun x => { x with txns := tset none x.txns tag none }
    let stream := match k with
      | .entry _ _ _ _ _ => true
      | .write _ => true
      | .cac _ _ => true
      | _ => false
    let s := if st = .done ∨ stream = false then s else s.raise (strFlagsCa t) 3
    match k with
    | .spx n => s.modTile t fun x => { x with spx := SpxSt.part x.spx n (if st = .done then some (data, fill) else none) }
    | .upd k part => s.modTile t fun x =>
        let y := tget {} x.sinks k
        { x with sinks := tset {} x.sinks k { y with got := y.got ++ [(part, if st = .done then some data else none)] } }
    | .entry e c g id ofs =>
      let e : Fin 3 := Fin.ofNat 3 e
      let c : CtxNo := Fin.ofNat 4 c
      let x := s.eng t e c
      if x.gen.toNat ≠ g then
        (s.raise (strFlagsCa t) 0).modEng t e c fun x => { x with disc := min 255 (x.disc + 1) }
      else s.modEng t e c fun x => StreamCtx.part x id ofs (if st = .done then some (data, fill) else none)
    | .cac e c =>
      let v : Word := BitVec.ofNat 64 (ofBytes data)
      s.modEng t (Fin.ofNat 3 e) (Fin.ofNat 4 c) fun x => match x.run with
        | some r => if r.cacTag = some tag then
            { x with run := some { r with cacTag := none, cmpv := if st = .done then v else fillWord },
                     cst := if st = .done then cst else cstFault } else x
        | none => x
    | _ => s

/-- A read response for a stream-in queue: its entry's part, or a discard (R160, R161). -/
def execStreamResponse (t : Tile) (tag : BitVec 10) (st : NStatus) (data : List Byte) (fill : Bool) (s : State) : Out :=
  match tget none (s.tile t).txns tag.toNat with
  | some (.entry _ _ _ _ _) => .next (s.respond t tag.toNat st data fill 0)
  | _ => .next s

/-- A multicast credit that reaches an issuing engine: its count for the member that sent it rises (R162). -/
def State.creditArrive (s : State) (t : Tile) (e : Fin 3) (c : CtxNo) (g : Group) : State :=
  match g.member with
  | none => s
  | some m =>
    let k := creditKey e c g.group m.val
    s.modTile t fun x => { x with mcCredit := tset 0 x.mcCredit k (tget 0 x.mcCredit k + 1) }

/-- The credit of a multicast entry that a member does not place (R162). -/
def State.returnCredit (s : State) (t : Tile) (e : Fin 3) (c : CtxNo) (g : Group) : State :=
  match (s.eng t e c).mrx with
  | some (key, e', c', units) =>
    if g.ofs = 0 then s.send (s.creditHead t e c key g.group) (.mcCredit e' (Fin.ofNat 4 c') units) else s
  | none => s

/-- A part of a multicast entry that reaches a member: placed, or discarded with its credit returned where its tag is old or no
    place is reserved for it (R162).
    DEDUCED: notes/assumptions/127. -/
def State.memberPart (s : State) (t : Tile) (e : Fin 3) (c : CtxNo) (g : Group) (st : NStatus) (data : List Byte) (fill : Bool) : State :=
  let x := s.eng t e c
  if x.gen ≠ g.gen then
    ((s.raise (strFlagsCa t) 0).modEng t e c fun x => { x with disc := min 255 (x.disc + 1) }).returnCredit t e c g
  else if !x.queue.any (Place.isFor g) then s.returnCredit t e c g
  else
    let s := if st = .done then s else s.raise (strFlagsCa t) 3
    s.modEng t e c fun x => { x with queue := partMulticast g (if st = .done then some (data, fill) else none) x.queue }

end Sys2Proof.Machine
end

