-- ==== Sys2Proof/Machine/Flits.lean ====
section
/-! DEFINITION. The bits of a packet: flits, headers, payloads and their CRC (R174–R177, R190, R214). -/

namespace Sys2Proof.Machine

/-! ### Codes -/

/-- A response's status in ADDR[2:0] (R177). -/
def statusCode : NStatus → Nat
  | .done => 0
  | .addrErr => 1
  | .tagErr => 2

/-- A COHP's status in ADDR[2:0] (R214). -/
def cohStatusCode : CohSt → Nat
  | .done => 0
  | .addrErr => 1
  | .tagErr => 2
  | .retry => 3

/-- MSG of a coherence request (Table 9-5). -/
def reqMsg : CohReq → Nat
  | .readS => 0x01
  | .readX => 0x02
  | .upgrade => 0x03
  | .putM => 0x04
  | .putE => 0x05
  | .putS => 0x06
  | .xlat => 0x07
  | .prec => 0x08

/-- MSG of a coherence response (Table 9-5). -/
def rspMsg : CohRsp → Nat
  | .data => 0x10
  | .upgAck => 0x11
  | .fwdS => 0x12
  | .fwdX => 0x13
  | .inv => 0x14
  | .invAck => 0x15
  | .fwdAck => 0x16
  | .putAck => 0x17
  | .xlatR => 0x18
  | .tinv => 0x19
  | .tinvAck => 0x1A
  | .precAck => 0x1B

/-- GRANT of a Data message (Table 9-6). -/
def grantCode : LineSt → Nat
  | .s => 0
  | .e => 1
  | .m => 2
  | .i => 0

/-- Whether a message names a page and not a line (R214). -/
def pageMsg (m : Nat) : Bool := [0x07, 0x08, 0x18, 0x19, 0x1A, 0x1B].contains m

/-- ADDR of a coherence message (R214). -/
def cohAddr (msg : Nat) (b : CohBody) (st : Nat) : Nat :=
  (if pageMsg msg then b.line <<< 21 else b.line <<< 9) + msg <<< 4 + st

/-- The coherence word (Table 9-6). -/
def cohWord (b : CohBody) : Nat :=
  b.smask.toNat <<< 48 + (if b.keep then 1 <<< 47 else 0) + grantCode b.grant <<< 45 + (b.rqf % 64) <<< 39 +
    (b.rqtag % 1024) <<< 29 + (if b.fin then 1 <<< 28 else 0)

/-! ### ADDR and payload (R177, R190) -/

/-- The address as a request carries it: across modules ADDR[53:38] is the module register on the way out (R312), and
    SMOD from the delivering engine on (R316). -/
def carriedAddr (h : Head) (a : Nat) : Nat := if h.xm then a % 2 ^ 38 + (if h.dsite = 0x33 then h.dmod else h.smod) <<< 38 else a

/-- ADDR of a request: the data address, or for a multicast packet the group and the offset. -/
def requestAddr (h : Head) (a : Nat) : Nat :=
  match h.mcg with
  | some g => if h.dfield = 0x3E then g.group <<< 43 + a % 2 ^ 25 else a % 2 ^ 55
  | none => carriedAddr h a % 2 ^ 55

/-- ADDR of a response but for its status: the group of a multicast response, or the module and the endpoint of one that crosses
    the fabric (R316). -/
def responseAddr (h : Head) : Nat :=
  match h.mcg with
  | some g => if h.dfield = 0x3E then g.group <<< 43 else 0
  | none => match h.ret with
    | some (f, k) => h.dmod <<< 38 + f <<< 32 + k <<< 26
    | none => 0

/-- ADDR of a packet (R177, R214). The places of a path notice's mask and of the mark of error fill are not stated:
    DESIGN CHOICE, notes/assumptions/128 and 138. -/
def addrField (h : Head) : Body → Nat
  | .rd a _ => requestAddr h a
  | .wr a _ => requestAddr h a
  | .cac a _ _ _ => requestAddr h a
  | .bzw a _ => requestAddr h a
  | .regrd ca => ca.toNat
  | .regwr ca _ => ca.toNat
  | .cohq k b => cohAddr (reqMsg k) b 0
  | .cohp k b => cohAddr (rspMsg k) b (cohStatusCode b.st)
  | .rdata st _ fill => responseAddr h + (if fill then 1 <<< 5 else 0) + statusCode st
  | .wack st => responseAddr h + statusCode st
  | .bzack st => responseAddr h + statusCode st
  | .cacr st cst _ => responseAddr h + (cst % 4) <<< 3 + statusCode st
  | .tok c ty => (match h.mcg with | some g => g.group <<< 43 | none => 0) + c.val <<< 8 + ty.toNat
  | .epochNotice n e => 1 <<< 51 + (n % 2048) <<< 16 + e.toNat
  | .mcCredit e c units => 2 <<< 51 + (e % 2) <<< 20 + c.val <<< 18 + units % 256
  | .redCredit tree => 3 <<< 51 + tree % 4096
  | .pathNotice mask => 4 <<< 51 + mask.toNat
  | .nctlReserved sub => sub.val <<< 51
  | .red _ => 0
  | .reserved => 0

/-- A reduction packet's payload: ten lanes and the flag word (R190). -/
def redPayload (r : RedBody) : List Byte :=
  let lanes := ((List.range 10).map fun i => toBytes 12 ((r.lanes.getD i ⟨0, 0⟩).n % 2 ^ 96).toNat).flatten
  let fl := (List.range 10).foldl (fun w i => w + (r.lanes.getD i ⟨0, 0⟩).flags.toNat <<< (4 * i)) 0
  lanes ++ toBytes 8 (fl + (r.q % 2 ^ 16).toNat <<< 40)

/-- Bytes filled with zeros to a length. -/
def padTo (n : Nat) (bs : List Byte) : List Byte := bs ++ List.replicate (n - bs.length) 0

/-- The payload of a coherence message: its word, the PTE of an XLATR, and the line (R214). -/
def cohPayload (b : CohBody) (xlatr : Bool) : List Byte :=
  let first := toBytes 8 (cohWord b) ++ if xlatr then toBytes 8 b.pte.toNat else []
  match b.bytes with
  | some l => padTo 128 first ++ l
  | none => first

/-- The payload of a packet (Table 8-3). -/
def payload : Body → List Byte
  | .wr _ d => d
  | .rdata _ d _ => d
  | .bzw _ d => d
  | .cac _ op imm _ => padTo 8 (toBytes 4 imm ++ toBytes 1 (op % 16))
  | .regwr _ v => toBytes 8 v.toNat
  | .cacr _ _ v => toBytes 8 v.toNat
  | .cohq _ b => cohPayload b false
  | .cohp k b => cohPayload b (k == .xlatR)
  | .red r => redPayload r
  | _ => []

/-- The bytes that NFL and LASTB count: those of the payload, or for RD and REGRD those asked for (Table 8-2). -/
def lengthField : Body → Nat
  | .rd _ len => len
  | .regrd _ => 8
  | b => (payload b).length

/-! ### Flits (R174, R175, R190) -/

/-- The head flit's header but for its CRC (Tables 8-2 and 8-6). -/
def headHeader (h : Head) (b : Body) : Nat :=
  match b with
  | .red r =>
    0xA <<< 108 + h.job.val <<< 106 + h.ntag.toNat <<< 102 + (r.tree % 4096) <<< 90 + (r.cnt % 8192) <<< 77 + (r.chunk % 2 ^ 24) <<< 53
  | _ =>
    let n := lengthField b
    kindOf b <<< 108 + h.job.val <<< 106 + h.ntag.toNat <<< 102 + (h.dfield % 64) <<< 96 + (h.dsite % 64) <<< 90 +
      (if h.dlog then 1 <<< 89 else 0) + (h.sfield % 64) <<< 83 + (h.ssite % 64) <<< 77 + (if h.xm then 1 <<< 76 else 0) +
      (h.tag % 1024) <<< 66 + ((n - 1) / 128 % 16) <<< 62 + (n % 128) <<< 55 + addrField h b % 2 ^ 55

/-- The header of a later flit but for its CRC: KIND and the index. -/
def laterHeader (b : Body) (i : Nat) : Nat := kindOf b <<< 108 + (i % 16) <<< 104

/-- A CRC carried on over bytes by its step for one byte. Each value is matched before the next step, so that it is a number there
    and not an unfinished computation. -/
def crcOver (byte : Nat → Byte → Nat) : List Byte → Nat → Nat
  | [], c => c
  | b :: bs, 0 => crcOver byte bs (byte 0 b)
  | b :: bs, c + 1 => crcOver byte bs (byte (c + 1) b)

/-- One bit of CRC-16 with polynomial 0x1021, and one byte, least significant bit first (R174). -/
def crc16Bit (c : BitVec 16) (b : Bool) : BitVec 16 := if c.getLsbD 15 != b then (c <<< 1) ^^^ 0x1021 else c <<< 1
def crc16Byte (c : Nat) (b : Byte) : Nat := ((List.range 8).foldl (fun c i => crc16Bit c (b.getLsbD i)) (BitVec.ofNat 16 c)).toNat

/-- CRC-16 of bytes, from 0xFFFF (R174). -/
def crc16 (bs : List Byte) : BitVec 16 := BitVec.ofNat 16 (crcOver crc16Byte bs 0xFFFF)

/-- The payload of flit i. -/
def flitPayload (b : Body) (i : Nat) : List Byte := padTo 128 (((payload b).drop (128 * i)).take 128)

/-- Flit i of a packet: the header in its low 128 bits with the CRC on top of it, then the payload. -/
def flitBits (h : Head) (b : Body) (i : Nat) : BitVec 1152 :=
  let header := if i = 0 then headHeader h b else laterHeader b i
  let data := flitPayload b i
  let crc := crc16 (toBytes 14 header ++ data)
  BitVec.ofNat 1152 (ofBytes data <<< 128 + crc.toNat <<< 112 + header % 2 ^ 112)

/-- Whether a received flit's CRC holds (R174, R178). -/
def flitGood (w : BitVec 1152) : Bool :=
  crc16 (toBytes 14 (bits112 w) ++ toBytes 128 (w.toNat >>> 128)) == BitVec.ofNat 16 (w.toNat >>> 112)
where
  bits112 (w : BitVec 1152) : Nat := w.toNat % 2 ^ 112

/-! ### Fabric flits (R307, R313, R314) -/

/-- One bit of the CRC-32 of IEEE 802.3, reflected, and one byte (R307). -/
def crc32Bit (c : BitVec 32) : BitVec 32 := if c.getLsbD 0 then (c >>> 1) ^^^ 0xEDB88320 else c >>> 1
def crc32Byte (c : Nat) (b : Byte) : Nat :=
  ((List.range 8).foldl (fun c _ => crc32Bit c) (BitVec.ofNat 32 c ^^^ b.setWidth 32)).toNat

/-- CRC-32 of bytes: polynomial 0x04C11DB7 reflected in and out, initial value and final XOR 0xFFFFFFFF (R307). -/
def crc32 (bs : List Byte) : BitVec 32 := ~~~ BitVec.ofNat 32 (crcOver crc32Byte bs 0xFFFFFFFF)

/-- Bits [hi:lo] of a fabric flit, and a flit with v there. -/
def flitGet (w : FabFlit) (hi lo : Nat) : Nat := w.toNat >>> lo % 2 ^ (hi - lo + 1)
def flitSet (w : FabFlit) (hi lo v : Nat) : FabFlit :=
  let m : FabFlit := BitVec.ofNat 1280 ((2 ^ (hi - lo + 1) - 1) <<< lo)
  (w &&& ~~~m) ||| (BitVec.ofNat 1280 (v <<< lo) &&& m)

/-- The link CRC of a fabric flit: CRC-16 of header bytes 0–13, the extension and the payload (R313). -/
def linkCrc (w : FabFlit) : BitVec 16 := crc16 (toBytes 14 (flitGet w 111 0) ++ toBytes 144 (flitGet w 1279 128))

/-- A fabric flit with its link CRC computed, and whether a received one's holds. -/
def flitSeal (w : FabFlit) : FabFlit := flitSet w 127 112 (linkCrc w).toNat
def fabFlitGood (w : FabFlit) : Bool := linkCrc w == BitVec.ofNat 16 (flitGet w 127 112)

/-- The header of a fabric packet's head flit but for its CRC. A RED packet's DFIELD has no stated place in Table 8-6: bits
    [52:47], DESIGN CHOICE, notes/assumptions/138. -/
def fabHeader (p : FabPkt) : Nat :=
  match p.body with
  | .red _ => headHeader p.head p.body + (p.head.dfield % 64) <<< 47
  | _ => headHeader { p.head with xm := true } p.body / 2 ^ 55 * 2 ^ 55 + p.addr % 2 ^ 55

/-- The extension of a head flit but for ECRC (Table 14-2). -/
def fabExt (p : FabPkt) : Nat :=
  (p.head.dmod % 2 ^ 16) <<< 80 + (p.head.smod % 2 ^ 16) <<< 64 + (p.mcnt % 2 ^ 24) <<< 40 + (if p.down then 1 <<< 39 else 0) +
    (p.hop % 8) <<< 13 + (if p.val then 1 <<< 12 else 0) + (p.igrp % 1024) <<< 2

/-- The payload bytes of flit i. A CAC's requester has no stated place: bytes 8 to 12 of the payload, DESIGN CHOICE,
    notes/assumptions/138. -/
def fabPayload (p : FabPkt) (i : Nat) : List Byte :=
  match p.body with
  | .cac _ _ _ r => padTo 128 (payload p.body ++ toBytes 2 r.tile ++ toBytes 1 r.ctx ++ toBytes 2 r.epoch)
  | b => flitPayload b i

/-- The ECRC of a packet's flits: CRC-32 of header bytes 0–13 and extension bytes 2–11 of the head flit, then of the payload
    bytes of every flit in order (R314). -/
def ecrcOf (head : FabFlit) (later : List FabFlit) : BitVec 32 :=
  crc32 (toBytes 14 (flitGet head 111 0) ++ toBytes 10 (flitGet head 223 144) ++
    ((head :: later).map fun w => toBytes 128 (flitGet w 1279 256)).flatten)

/-- The fabric flits of a packet (R313), with the ECRC that its source engine computes. -/
def fabFlits (p : FabPkt) : List FabFlit :=
  let head : FabFlit := BitVec.ofNat 1280 (fabHeader p + fabExt p <<< 128 + ofBytes (fabPayload p 0) <<< 256)
  let later : List FabFlit := (List.range (flitsOf p.body - 1)).map fun i =>
    BitVec.ofNat 1280 (laterHeader p.body (i + 1) + ofBytes (fabPayload p (i + 1)) <<< 256)
  (flitSet head 255 224 (ecrcOf head later).toNat :: later).map flitSeal

/-- Whether a whole packet's ECRC holds. -/
def ecrcGood (head : FabFlit) (later : List FabFlit) : Bool := ecrcOf head later == BitVec.ofNat 32 (flitGet head 255 224)

/-- The KIND of a flit, and the flits of the packet whose head flit it is (R174, R175). -/
def flitKind (w : FabFlit) : Nat := flitGet w 111 108
def flitCount (w : FabFlit) : Nat :=
  if [0, 3].contains (flitKind w) || flitKind w == 10 then 1 else flitGet w 65 62 + 1

/-- A response's status as ADDR[2:0] gives it; a code that R177 does not assign is read as ADDRERR (DESIGN CHOICE,
    notes/assumptions/138). -/
def statusOf (n : Nat) : NStatus := if n = 0 then .done else if n = 2 then .tagErr else .addrErr

/-- A RED packet's body (R190, Table 8-6). -/
def redOf (head : FabFlit) : RedBody :=
  let data := flitGet head 1279 256
  let fl := data >>> 960
  { tree := flitGet head 101 90
    cnt := flitGet head 89 77
    chunk := flitGet head 76 53
    q := (BitVec.ofNat 16 (fl >>> 40)).toInt
    lanes := (List.range 10).map fun i => ⟨(BitVec.ofNat 96 (data >>> (96 * i))).toInt, BitVec.ofNat 4 (fl >>> (4 * i))⟩ }

/-- What a packet's flits carry; the KINDs that do not travel on the fabric are no packet (R315). -/
def fabBody (head : FabFlit) (later : List FabFlit) : Body :=
  let addr := flitGet head 54 0
  let len := 128 * flitGet head 65 62 + (if flitGet head 61 55 = 0 then 128 else flitGet head 61 55)
  let bytes := ((head :: later).map fun w => toBytes 128 (flitGet w 1279 256)).flatten
  let word (i n : Nat) : Nat := ofBytes ((bytes.drop i).take n)
  let st := statusOf (addr % 8)
  match flitKind head with
  | 0 => .rd (addr % 2 ^ 38) len
  | 1 => .wr (addr % 2 ^ 38) (bytes.take len)
  | 2 => .cac (addr % 2 ^ 38) (word 4 1 % 16) (word 0 4) ⟨word 8 2, word 10 1, word 11 2⟩
  | 6 => .rdata st (if st = .done then bytes.take len else []) (addr.testBit 5)
  | 7 => .wack st
  | 8 => .cacr st (addr / 8 % 4) (BitVec.ofNat 64 (word 0 8))
  | 10 => .red (redOf head)
  | 11 => .bzw (addr % 2 ^ 38) (bytes.take len)
  | 12 => .bzack st
  | _ => .reserved

/-- A packet read from its head flit and the flits after it. -/
def fabParse (head : FabFlit) (later : List FabFlit) : FabPkt :=
  let red := flitKind head == 10
  { head := {
      job := Fin.ofNat 4 (flitGet head 107 106)
      ntag := BitVec.ofNat 4 (flitGet head 105 102)
      dfield := if red then flitGet head 52 47 else flitGet head 101 96
      dsite := if red then 0x33 else flitGet head 95 90
      dlog := !red && flitGet head 89 89 == 1
      sfield := if red then flitGet head 52 47 else flitGet head 88 83
      ssite := if red then 0x33 else flitGet head 82 77
      xm := true
      tag := if red then 0 else flitGet head 75 66
      mcg := none
      smod := flitGet head 207 192
      dmod := flitGet head 223 208 }
    body := fabBody head later
    addr := if red then 0 else flitGet head 54 0
    hop := flitGet head 143 141
    val := flitGet head 140 140 == 1
    igrp := flitGet head 139 130
    mcnt := flitGet head 191 168
    down := flitGet head 167 167 == 1 }

/-- A head flit with HOP, and with VAL and IGRP, changed on its way (R314). -/
def flitHop (w : FabFlit) (hop : Nat) : FabFlit := flitSet w 143 141 hop
def flitRoute (w : FabFlit) (val : Bool) (igrp : Nat) : FabFlit := flitSet (flitSet w 140 140 (if val then 1 else 0)) 139 130 igrp

end Sys2Proof.Machine
end

