-- ==== Sys2Proof/Machine/Network.lean ====
section
/-! DEFINITION. The wafer network (chapter 8): routes, links and their spares, network tags, multicast. -/

namespace Sys2Proof.Machine

/-! ### Packets -/

/-- A status as a coherence response gives it. -/
def cohStatus : NStatus → CohSt
  | .done => .done
  | .addrErr => .addrErr
  | .tagErr => .tagErr

/-- The answer of a request with a status and no effect; none for a packet that is no request (R183). -/
def answerOf (st : NStatus) : Body → Option Body
  | .rd _ _ => some (.rdata st [] false)
  | .wr _ _ => some (.wack st)
  | .cac _ _ _ _ => some (.cacr st cstFault fillWord)
  | .regrd _ => some (.rdata st [] false)
  | .regwr _ _ => some (.wack st)
  | .cohq k b =>
    let r : CohRsp := match k with
      | .putM => .putAck
      | .putE => .putAck
      | .putS => .putAck
      | .xlat => .xlatR
      | .prec => .precAck
      | _ => .data
    some (.cohp r { line := b.line, st := cohStatus st, rqtag := b.rqtag })
  | .bzw _ _ => some (.bzack st)
  | _ => none

/-- The network tag of a job domain at a station (R183). -/
def State.stationTag (s : State) (f : FieldNo) (job : JobNo) : BitVec 4 :=
  BitVec.ofNat 4 (s.fld (stationCa f 1 0) (4 * job.val + 3) (4 * job.val))

/-- A field number as a field. -/
def fieldNo (f : Nat) : FieldNo := Fin.ofNat 48 f

/-- The tile of a key. -/
def tileOfKey (k : Nat) : Tile := ⟨Fin.ofNat 48 (k / 42), Fin.ofNat 42 (k % 42)⟩

/-- The network tag that an endpoint gives a packet: its own router's, or its field's station's. -/
def State.tagAt (s : State) (field site : Nat) (job : JobNo) : BitVec 4 :=
  if field < 48 then
    if h : site < 42 then s.ntagOf ⟨fieldNo field, ⟨site, h⟩⟩ job else s.stationTag (fieldNo field) job
  else 0

/-- The head of the answer to a request, sent by an endpoint; that of a request from another module goes to the field's
    engine (R316). -/
def State.replyHead (s : State) (h : Head) (field site : Nat) : Head :=
  let r := { h with ntag := s.tagAt field site h.job, dfield := h.sfield, dsite := h.ssite, dlog := false, sfield := field,
                    ssite := site, smod := h.dmod, dmod := h.smod, mcg := none, pte := 0 }
  if h.xm then { r with dfield := field, dsite := 0x33, ret := some (h.sfield, h.ssite) } else r

/-- The head of a packet between two nodes of the network. -/
def State.nodeHead (s : State) (job : JobNo) (field site dfield dsite : Nat) : Head :=
  { job := job, ntag := s.tagAt field site job, dfield := dfield, dsite := dsite, dlog := false, sfield := field,
    ssite := site, xm := false, tag := 0, mcg := none, smod := s.moduleId, dmod := s.moduleId }

/-- An answer sent by an endpoint. -/
def State.reply (s : State) (h : Head) (field site : Nat) (b : Body) : State := s.send (s.replyHead h field site) b

/-- A request answered with a status by an endpoint; a packet that is no request is dropped. -/
def State.refuseWith (s : State) (h : Head) (b : Body) (field site : Nat) (st : NStatus) : State :=
  match answerOf st b with
  | some a => s.reply h field site a
  | none => s

/-- The NET_ block of a node: a tile's router or a field's station. -/
def netCa (field site off : Nat) : Nat :=
  if site < 42 then mkCa field site 0x08 off else stationCa (fieldNo field) 1 off

/-- The tracker of a multicast write told a member's completion (R188). -/
def State.memberDone (s : State) (h : Head) (m : Fin 16) (st : NStatus) : State :=
  s.modField h.sfield fun x => { x with trackers := x.trackers.map fun k =>
    if k.head.ssite = h.ssite ∧ k.head.tag = h.tag then { k with status := k.status.set m.val (some st) } else k }

/-- A packet with a wrong network tag (R183): answered TAGERR or dropped, with NET_FLAGS.TAGMIS and an event.
    DEDUCED: notes/assumptions/50. -/
def State.tagMismatch (s : State) (h : Head) (b : Body) (field site : Nat) : State :=
  let s := (s.raise (netCa field site 8) 2).post 0x16 (some h.job.val) none field (if site < 42 then site else 0x34)
    (BitVec.ofNat 64 (kindOf b + h.ntag.toNat * 16 + h.job.val * 256))
  match h.mcg with
  | some g => match g.member, b with
    | some m, .wr _ _ => s.memberDone h m .tagErr
    | _, _ => s.refuseWith h b field site .tagErr
  | none => s.refuseWith h b field site .tagErr

/-- Whether a packet's tag is the one an endpoint of a field holds. -/
def State.tagOk (s : State) (h : Head) (field site : Nat) : Bool := decide (s.tagAt field site h.job = h.ntag)

/-- The packet in flight of a head and a body, if there is one. -/
def State.inFlight (s : State) (h : Head) (b : Body) : Option Packet := s.net.find? fun p => decide (p.head = h ∧ p.body = b)

/-- The first packet in flight of a head and a body taken off the network. -/
def State.takePacket (s : State) (h : Head) (b : Body) : State :=
  { s with net := s.net.eraseP fun p => decide (p.head = h ∧ p.body = b) }

/-- Whether all flits of a packet are in the buffer of its head flit. -/
def Packet.whole (p : Packet) : Bool :=
  match p.trail with
  | h :: _ => h.flits.length == flitsOf p.body
  | [] => true

/-- Whether a packet has come to the end of its way: a site, a spine block, the Rind or the edge segment; for a reduction packet
    the node at the end of its tree edge. -/
def Packet.ended (p : Packet) : Bool :=
  match p.trail, p.body with
  | [], _ => false
  | _ :: _, .red _ => (Packet.whole p)
  | h :: _, _ => (Packet.whole p) && (match h.node with
    | .site _ => true
    | .spine _ _ => true
    | .rind => true
    | .edge => true
    | _ => false)

/-- Whether a packet that has ended its way is taken before another there: its channel has the higher priority (R180), or it came
    into the same channel's buffer earlier (R182). -/
def Packet.precedes (q p : Packet) : Bool :=
  match q.trail, p.trail with
  | x :: _, y :: _ =>
    (Packet.ended q) && x.node == y.node &&
      (decide (vcOf (kindOf q.body) < vcOf (kindOf p.body)) ||
       (vcOf (kindOf q.body) == vcOf (kindOf p.body) && decide (x.seq < y.seq)))
  | _, _ => false

/-- Whether the endpoint can take a packet: one in flight has ended its way, and none there precedes it. A packet that the network
    does not hold arrives from outside what the network models.
    DEDUCED: notes/assumptions/52. -/
def State.mayTake (s : State) (h : Head) (b : Body) : Bool :=
  match s.inFlight h b with
  | none => true
  | some p => (Packet.ended p) && !s.net.any fun q => Packet.precedes q p

/-- A packet taken by its endpoint: off the network, and handled unless its network tag is wrong (R183). One still on its way, or
    behind another, is not taken. -/
def State.arrive (s : State) (h : Head) (b : Body) (field site : Nat) (f : State → State) : State :=
  if !s.mayTake h b then s
  else
    let s := s.takePacket h b
    if s.tagOk h field site then f s else s.tagMismatch h b field site

/-- A packet for a node, known by its body, taken and handled as `arrive` says. -/
def State.arriveAt (s : State) (field site : Nat) (b : Body) (f : State → State) : State :=
  match s.net.find? fun p => decide (p.head.dfield = field ∧ p.head.dsite = site ∧ p.head.dlog = false ∧ p.body = b) with
  | some p => s.arrive p.head b field site f
  | none => f s

/-! ### Places on the wafer (R10–R13) -/

def tileX (t : Tile) : Nat := 6 * (t.field.val % 8) + t.site.val % 6
def tileY (t : Tile) : Nat := 7 * (t.field.val / 8) + t.site.val / 6

/-- The tile site at global coordinates. -/
def tileAt (x y : Nat) : Tile :=
  ⟨Fin.ofNat 48 (8 * (y / 7) + x / 6), Fin.ofNat 42 (6 * (y % 7) + x % 6)⟩

/-- Site 16 of a field, which detours and mesh paths use (R168). -/
def site16 (f : FieldNo) : Tile := ⟨f, 16⟩

/-- The next site from one towards another on the mesh, X then Y. -/
def meshNext (a b : Tile) : Tile :=
  if tileX a < tileX b then tileAt (tileX a + 1) (tileY a)
  else if tileX b < tileX a then tileAt (tileX a - 1) (tileY a)
  else if tileY a < tileY b then tileAt (tileX a) (tileY a + 1)
  else tileAt (tileX a) (tileY a - 1)

/-! ### Links (R166–R173, R178, R179) -/

/-- JET_LINK_l of a station. -/
def jetLinkCa (f : FieldNo) (l : Nat) : Nat := stationCa f 0 (0x100 + 8 * l)

/-- Number of the express link of a station to another of its row or column. -/
def expressLink (f g : FieldNo) : Nat := if f.val % 8 = g.val % 8 then g.val / 8 else 6 + g.val % 8

/-- Whether the express link between two stations is INSERVICE. -/
def State.linkUp (s : State) (f g : FieldNo) : Bool := s.fld (jetLinkCa f (expressLink f g)) 2 0 == 2

/-- The first station on the express path to a field: by column link, then by row link (R168). -/
def nextStation (f g : FieldNo) : FieldNo :=
  if f.val / 8 ≠ g.val / 8 then fieldNo (8 * (g.val / 8) + f.val % 8) else g

/-- Whether the path from a station to a field is in service. -/
def State.pathUp (s : State) (f g : FieldNo) : Bool :=
  if f = g then true
  else
    let m := nextStation f g
    s.linkUp f m && s.up m.val && (decide (m = g) || (s.linkUp m g && s.up g.val))

/-- The path mask of a field's tiles (R168, R179). -/
def State.pathMask (s : State) (f : FieldNo) : BitVec 48 :=
  BitVec.ofNat 48 ((List.finRange 48).foldl (fun m g => if s.pathUp f g then m + 2 ^ g.val else m) 0)

/-- A station's path notice to every tile site of its field (R179).
    DEDUCED: notes/assumptions/47. -/
def State.notifyPaths (s : State) (f : FieldNo) : State :=
  let mask := s.pathMask f
  (sitesOf f).foldl (fun s t =>
    s.send { job := 0, ntag := s.stationTag f 0, dfield := f.val, dsite := t.site.val, dlog := false,
             sfield := f.val, ssite := 0x34, xm := false, tag := 0, mcg := none, smod := 0, dmod := 0 }
      (.pathNotice mask)) s

/-- A change of links, followed by the notices of the serving stations whose paths it changed (R179). -/
def State.changeLinks (s : State) (f : State → State) : State :=
  let s1 := f s
  (List.finRange 48).foldl (fun s2 g => if s1.up g.val && s1.pathMask g ≠ s.pathMask g then s2.notifyPaths g else s2) s1

/-- The other end of a link of a station: its station and its number there; mesh links have one entry. -/
def linkPeer (f : FieldNo) (l : Nat) : Option (FieldNo × Nat) :=
  if l < 6 then (if l = f.val / 8 then none else some (fieldNo (8 * l + f.val % 8), f.val / 8))
  else if l < 14 then (if l - 6 = f.val % 8 then none else some (fieldNo (8 * (f.val / 8) + (l - 6)), 6 + f.val % 8))
  else none

/-- A link's STATE at both its ends. -/
def State.setLink (s : State) (f : FieldNo) (l st : Nat) : State :=
  let s := s.setFld (jetLinkCa f l) 2 0 st
  match linkPeer f l with
  | some (g, m) => s.setFld (jetLinkCa g m) 2 0 st
  | none => s

/-- Whether a station owns a link (R172): express links to stations of higher number, and the east and north mesh
    links that exist. -/
def ownsLink (f : FieldNo) (l : Nat) : Bool :=
  if l < 6 then decide (f.val / 8 < l)
  else if l < 14 then decide (f.val % 8 < l - 6)
  else if l < 21 then decide (f.val % 8 < 7)
  else if l < 27 then decide (f.val / 8 < 5)
  else false

/-- Bundles per direction of a link (R172). -/
def linkBundles (l : Nat) : Nat := if l < 14 then 195 else 5

/-- A link-failure event of a wafer link (Table 15-15). -/
def State.linkFailure (s : State) (f : FieldNo) (l : Nat) : State :=
  (s.raise (stationCa f 1 8) 8).post 0x0E none none f.val 0x34 (BitVec.ofNat 64 (1 <<< 40 + l <<< 32))

/-- A path notice applied: NET_JETMASK, whose own bit always reads 1 (R179). -/
def State.applyMask (s : State) (t : Tile) (mask : BitVec 48) : State :=
  s.setFld (tileCa t 0x08 0x10) 47 0 (mask ||| BitVec.ofNat 48 (1 <<< t.field.val)).toNat

/-- PATH_NOTICE: a path notice from the station reaches a tile. -/
def execPathNotice (t : Tile) (mask : BitVec 48) (s : State) : Out :=
  if !s.serves t.field.val then .next s
  else .next (s.arriveAt t.field.val t.site.val (.pathNotice mask) fun s => s.applyMask t mask)

/-! ### Spare lanes (R173) -/

/-- JET_SPARE_l_d_w of a bundle, and the low bit of its byte. -/
def jetSpareCa (f : FieldNo) (l : Nat) (d : Bool) (bundle : Nat) : Nat :=
  stationCa f 0 (0x10000 + 0x1000 * l + (if d then 0x800 else 0) + 8 * (bundle / 8))

/-- The setting of a bundle's spare; 0x10 is unused. -/
def State.jetSpare (s : State) (f : FieldNo) (l : Nat) (d : Bool) (bundle : Nat) : Nat :=
  s.fld (jetSpareCa f l d bundle) (8 * (bundle % 8) + 7) (8 * (bundle % 8))

/-- Whether a bundle's spare is free: unused, and no switch of it in progress. -/
def State.spareFree (s : State) (f : FieldNo) (l : Nat) (d : Bool) (bundle : Nat) : Bool :=
  s.jetSpare f l d bundle == 0x10 &&
    !((s.fieldSt f.val).switches.any fun w => w.link == l && w.dir == d && w.bundle == bundle)

/-- A new-defect event about a lane (Table 15-15). -/
def State.laneDefect (s : State) (field site kind link : Nat) (d : Bool) (bundle lane : Nat) : State :=
  s.post 0x0D none none field site
    (BitVec.ofNat 64 (kind <<< 40 + link <<< 32 + (if d then 1 <<< 24 else 0) + bundle <<< 16 + lane))

/-- A lane's parity count in TEL_LANECNT: its place among the lanes of a station, and n more errors counted (R415). -/
def laneKey (l : Nat) (d : Bool) (bundle lane : Nat) : Nat := ((27 * (if d then 1 else 0) + l) * 195 + bundle) * 17 + lane
def State.countLane (s : State) (f : FieldNo) (k n : Nat) : State :=
  s.modField f.val fun x => { x with lanes := tset 0 x.lanes k (min 65535 (tget 0 x.lanes k + n)) }

/-- LANE_PARITY_THRESHOLD: a lane has had `errs` parity errors within a window; where they reach LTHRESH, its spare
    replaces it or the defect is reported (R173).
    DEDUCED: notes/assumptions/51. -/
def execLaneParityThreshold (f : FieldNo) (link : Fin 27) (dir : Bool) (bundle : Fin 195) (lane : Fin 17) (errs : BitVec 16) (s : State) : Out :=
  if !ownsLink f link.val || decide (linkBundles link.val ≤ bundle.val) || !s.serves f.val then .next s
  else
    let s := s.countLane f (laneKey link.val dir bundle.val lane.val) errs.toNat
    if errs.toNat < s.fld (stationCa f 0 0) 31 16 ∨ errs = 0 ∨ 16 ≤ lane.val then .next s
    else
      let free := s.spareFree f link.val dir bundle.val
      let auto := s.bit (stationCa f 0 0) 0 && free
      let s := if auto || !free then s.laneDefect f.val 0x34 1 link.val dir bundle.val lane.val else s
      .next (if auto then s.modField f.val fun x => { x with switches := x.switches ++ [⟨link.val, dir, bundle.val, lane.val, false⟩] }
        else s)

/-- JET_SPARECMD of a station. -/
def jetSparecmdCa (f : FieldNo) : Nat := stationCa f 0 0x200

/-- A write to JET_SPARECMD (R173, Table 8-16): rejected while BUSY, for a link not owned or for a bundle whose spare
    is in use; otherwise a switch starts. -/
def State.sparecmdWrite (s : State) (f : FieldNo) (ca : Nat) (v : Word) : State :=
  let l := bits v 44 40
  let d := v.getLsbD 39
  let b := bits v 37 30
  if s.bit ca 63 || !ownsLink f l || decide (linkBundles l ≤ b) || !s.spareFree f l d b then s.configError ca
  else (s.setFld ca 63 63 1).modField f.val fun x => { x with switches := x.switches ++ [⟨l, d, b, bits v 29 26, true⟩] }

/-- A switch of an express or mesh link's bundle done (R173). -/
def State.switched (s : State) (f : FieldNo) (w : Switch) : State :=
  let s := s.setFld (jetSpareCa f w.link w.dir w.bundle) (8 * (w.bundle % 8) + 7) (8 * (w.bundle % 8)) w.lane
  let s := s.setFld (jetLinkCa f w.link) 15 8 (s.fld (jetLinkCa f w.link) 15 8 + 1)
  let s := match linkPeer f w.link with
    | some (g, m) => s.setFld (jetLinkCa g m) 15 8 (s.fld (jetLinkCa g m) 15 8 + 1)
    | none => s
  if w.cmd then s.setFld (jetSparecmdCa f) 63 63 0 else s

/-! ### Routes (R168–R170) -/

/-- The field whose station a packet makes for: its own destination, or the one whose edge link it takes. -/
def State.destField (s : State) (h : Head) : FieldNo :=
  if h.dfield < 48 then fieldNo h.dfield
  else
    let link : Nat := match h.port with
      | some p => p.val
      | none => if h.sfield % 8 < 4 then 0 else 1
    let a : FieldNo := if link = 0 then 3 else 4
    let b : FieldNo := if link = 0 then 4 else 3
    if s.serves a.val then a else b

/-- The station at which a packet from the Rind enters the wafer (R170). -/
def State.entryStation (s : State) (h : Head) : FieldNo :=
  let link : Nat := match h.port with
    | some p => p.val
    | none => if h.dfield % 8 < 4 then 0 else 1
  let a : FieldNo := if link = 0 then 3 else 4
  let b : FieldNo := if link = 0 then 4 else 3
  if s.serves a.val then a else b

/-- The stitched mesh link between two neighbouring sites of different fields: the station that owns it and its number (R172). -/
def meshLink (a b : Tile) : Option (FieldNo × Nat) :=
  let owner := if tileX a < tileX b ∨ tileY a < tileY b then a else b
  if a.field = b.field then none
  else if tileY a = tileY b then some (owner.field, 14 + owner.site.val / 6)
  else some (owner.field, 21 + owner.site.val % 6)

/-- Whether the mesh link between two neighbouring sites is in service (R167, R179). -/
def State.meshUp (s : State) (a b : Tile) : Bool :=
  match meshLink a b with
  | none => true
  | some (f, l) => s.fld (jetLinkCa f l) 2 0 == 2

/-- Whether a field takes a packet: it serves, or is FREEZING and the packet is no request (R385). -/
def State.takes (s : State) (f : FieldNo) (b : Body) : Bool :=
  s.serves f.val || (s.fieldState f.val == 5 && vcOf (kindOf b) != 3)

/-- The result of one forwarding decision. -/
inductive HopTo where
  | wait
  | go (loc : Node) (detour : Bool)
  | unmapped (f : FieldNo)
  | notServed (f : FieldNo)
  | tagged (f : FieldNo)
  | stopped (f : FieldNo)
  deriving DecidableEq, Repr

/-- A multicast group's entry admits a packet (R189). -/
def State.groupOk (s : State) (f : FieldNo) (g : Group) (job : JobNo) : Bool :=
  s.bit (mcgCa f g.group 0) 63 && s.fld (mcgCa f g.group 0) 59 58 == job.val

/-- The decision of step 1 of R168 at a site, for its own packets. -/
def State.hopSite (s : State) (t : Tile) (p : Packet) : HopTo :=
  let fd := s.destField p.head
  if !s.up t.field.val then .wait
  else if !s.takes fd p.body && p.head.dfield != 0x3E then .notServed t.field
  else if decide (fd = t.field) || p.head.dfield == 0x3E || s.bit (tileCa t 0x08 0x10) fd.val then .go (.station t.field.val) p.detour
  else .go (.mesh t.key) p.detour

/-- The decision of a station (steps 2 and 3 of R168). A packet that did not come from a spine block waits for a link that is out
    of service, one from the Rind too: DESIGN CHOICE, notes/assumptions/130. -/
def State.hopStation (s : State) (f : FieldNo) (p : Packet) : HopTo :=
  let h := p.head
  let fd := s.destField h
  if h.dfield = 0x3E then .wait
  else if decide (h.sfield = f.val) && (match h.mcg, p.body with | some g, .rd _ _ => !s.groupOk f g h.job | _, _ => false) then
    .stopped f
  else if f ≠ fd then
    let m := nextStation f fd
    if !(if m = fd then s.takes m p.body else s.up m.val) then .notServed f else if s.linkUp f m then .go (.station m.val) false else .wait
  else if (h.dfield = 0x3C ∨ h.dfield = 0x3D) ∧ !s.serves f.val then .wait
  else if h.dfield = 0x3C then (if s.stationTag f h.job = h.ntag then .go .rind false else .tagged f)
  else if h.dfield = 0x3D then (if s.stationTag f h.job = h.ntag then .go .edge false else .tagged f)
  else if h.dlog then
    match s.siteOf f h.dsite with
    | some t =>
      if (s.fieldSt f.val).remap.any (fun r => r.tile = h.dsite ∧ (r.stage = .cutover ∨ vcOf (kindOf p.body) = 3)) then .wait
      else .go (.site t.key) false
    | none => .unmapped f
  else if hs : h.dsite < 42 then .go (.site (Tile.key ⟨f, ⟨h.dsite, hs⟩⟩)) false
  else if h.dsite = 0x33 ∧ s.engineOn f.val = false then .unmapped f
  else .go (.spine f.val h.dsite) false

/-- The node at the end of a reduction packet's tree edge. -/
def redNode (h : Head) : Node :=
  if h.dsite < 42 then .site (42 * h.dfield + h.dsite) else if h.dsite = 0x34 then .station h.dfield else .spine h.dfield h.dsite

/-- Whether the link of a reduction packet's tree edge is in service (R167, R179, R192). -/
def State.edgeUp (s : State) (h : Head) : Bool :=
  s.up h.sfield && s.up h.dfield &&
  (if hs : h.ssite < 42 then
    if hd : h.dsite < 42 then s.meshUp ⟨fieldNo h.sfield, ⟨h.ssite, hs⟩⟩ ⟨fieldNo h.dfield, ⟨h.dsite, hd⟩⟩ else true
  else h.sfield == h.dfield || s.linkUp (fieldNo h.sfield) (fieldNo h.dfield))

/-- The forwarding decision for a packet where it is; a reduction packet takes its tree edge alone (R168, R192). -/
def State.hopOf (s : State) (p : Packet) : HopTo :=
  let h := p.head
  match p.body, p.loc with
  | .red _, .source => if s.edgeUp h then .go (redNode h) false else .wait
  | .red _, _ => .wait
  | _, .source =>
    if h.sfield < 48 then
      if ht : h.ssite < 42 then s.hopSite ⟨fieldNo h.sfield, ⟨h.ssite, ht⟩⟩ p
      else
        let f := fieldNo h.sfield
        let fd := s.destField h
        if !s.up f.val then .wait
        else if h.dfield = 0x3E ∨ s.pathUp f fd then .go (.station f.val) false
        else if !s.takes fd p.body then .notServed f
        else .go (.detour (site16 f).key) true
    else if 48 ≤ h.dfield ∧ h.dfield ≠ 0x3E then .go .rind false
    else if s.serves (s.entryStation h).val then .go (.station (s.entryStation h).val) false else .wait
  | _, .detour k => s.hopSite (tileOfKey k) p
  | _, .mesh k =>
    let t := tileOfKey k
    let d := site16 (s.destField h)
    if t = d then .go (.station d.field.val) p.detour
    else
      let n := meshNext t d
      if !(if n.field = d.field then s.takes n.field p.body else s.up n.field.val) then (if n.field = d.field then .notServed t.field else .wait)
      else if s.meshUp t n then .go (.mesh n.key) p.detour else .wait
  | _, .station f => s.hopStation (fieldNo f) p
  | _, .spine f _ => if p.trail.isEmpty then .go (.station f) false else .wait
  | _, _ => .wait

/-- An address-error event about a request that is not served: it names the requesting unit, which for a request of the
    Rind is the host agent (R15, R24). DEDUCED: notes/assumptions/10. -/
def State.packetError (s : State) (p : Packet) : State :=
  let a : Nat := match p.body with
    | .rd a _ => carriedAddr p.head a
    | .wr a _ => carriedAddr p.head a
    | .cac a _ _ _ => carriedAddr p.head a
    | .bzw a _ => carriedAddr p.head a
    | .regrd ca => ca.toNat
    | .regwr ca _ => ca.toNat
    | .cohq _ b => b.line * 512
    | _ => 0
  s.post 0x05 (some p.head.job.val) none p.head.sfield (if p.head.sfield = 0x3C then 1 else p.head.ssite) (BitVec.ofNat 64 a)

/-- A packet that is not served where it leads (R18, R24, R385): a request is answered ADDRERR by the station, a copy
    for a group member completes as ADDRERR, any other packet is dropped; with an address-error event. A request on its
    way out to its field's engine is answered on this side of the fabric (R312). -/
def State.unserved (s : State) (p : Packet) (f : FieldNo) : State :=
  let s := (s.packetError p)
  let p := if p.head.dsite = 0x33 then { p with head := { p.head with xm := false } } else p
  match p.head.mcg with
  | some g =>
    match g.member, p.body with
    | some m, .wr _ _ => s.memberDone p.head m .addrErr
    | some _, _ => s
    | none, _ => s.refuseWith p.head p.body f.val 0x34 .addrErr
  | none => s.refuseWith p.head p.body f.val 0x34 .addrErr

/-- A multicast packet stopped at its source station (R189): a read or a write is answered ADDRERR, any other is dropped. A
    stopped read, or its response, is outstanding no more. -/
def State.groupMiss (s : State) (p : Packet) (g : Group) (f : FieldNo) : State :=
  let s := (s.raise (stationCa f 1 8) 6).post 0x04 (some p.head.job.val) none f.val 0x34
    (BitVec.ofNat 64 (g.group + p.head.job.val <<< 12 + kindOf p.body <<< 16))
  let s := s.mcReadPart g
  match p.body with
  | .wr _ _ => s.refuseWith p.head p.body f.val 0x34 .addrErr
  | .rd _ _ => s.refuseWith p.head p.body f.val 0x34 .addrErr
  | _ => s

/-- A station's counter TEL_CNT_k advanced. -/
def State.telStation (s : State) (f : FieldNo) (k n : Nat) : State := s.count (stationCa f 2 (0x100 + 8 * k)) n

/-- The flits of one hop counted (Table 18-1): injected and received at a router, and carried by drop and express
    links. `from_` is the router or station left, `to_` the one reached. -/
def State.countHop (s : State) (inject : Bool) (from_ to_ : Node) (n : Nat) : State :=
  let s := match from_ with
    | .site k => if inject then s.tel (tileOfKey k) 19 n else s
    | _ => s
  match from_, to_ with
  | .station f, .station g => s.telStation (fieldNo f) (expressLink (fieldNo f) (fieldNo g)) n
  | .station f, .site k => (s.telStation (fieldNo f) 14 n).tel (tileOfKey k) 20 n
  | .station f, .detour _ => s.telStation (fieldNo f) 14 n
  | .site _, .station f => s.telStation (fieldNo f) 15 n
  | .mesh _, .station f => s.telStation (fieldNo f) 15 n
  | .detour _, .station f => s.telStation (fieldNo f) 15 n
  | _, _ => s

/-! ### Buffers, credits and arbitration (R169, R178, R180–R182) -/

/-- The number of the place whose input buffers a node names: a tile's router, a station, a spine block, the Rind or the edge. -/
def Node.place : Node → Nat
  | .site k => k
  | .mesh k => k
  | .detour k => k
  | .station f => 2048 + f
  | .spine f k => 4096 + 64 * f + k
  | .rind => 8000
  | .edge => 8001
  | .source => 8002

/-- Where the flits of a packet that have not left yet are: its source's router or block, the Rind, or the station that copies it. -/
def Packet.start (p : Packet) : Node :=
  match p.origin with
  | .source =>
    if p.head.sfield < 48 then
      if p.head.ssite < 42 then .site (42 * p.head.sfield + p.head.ssite) else .spine p.head.sfield p.head.ssite
    else .rind
  | n => n

/-- The sizes of an input buffer: reserved for each VC, for each VC's detour packets, and shared (Table 8-4). -/
structure BufSize where
  own    : Nat
  detour : Nat
  shared : Nat
  deriving DecidableEq, Repr

/-- Flits per cycle of a spine port: the Vat's, the cellar's, the field controller's and the optical engine's (Table 8-1). -/
def spineWidth (k : Nat) : Nat := if k = 0x31 ∨ k = 0x32 then 16 else if k = 0x33 then 2 else 1

/-- The input buffer of a link (Table 8-4); a station takes its own packets without one. -/
def bufSize (a b : Node) : Option BufSize :=
  match a, b with
  | .spine _ k, .station _ => if k = 0x34 then none else some ⟨4, 0, 8 * spineWidth k⟩
  | .station _, .spine _ k => if k = 0x34 then none else some ⟨4, 0, 8 * spineWidth k⟩
  | .station _, .station _ => some ⟨32, 0, 640⟩
  | .station _, .rind => some ⟨8, 0, 128⟩
  | .station _, .edge => some ⟨8, 0, 128⟩
  | .rind, .station _ => some ⟨8, 0, 128⟩
  | .rind, _ => none
  | .spine _ _, _ => none
  | .station _, _ => some ⟨4, 2, 52⟩
  | _, .station _ => some ⟨4, 2, 52⟩
  | a, b => if (Node.place a) = (Node.place b) then none else some ⟨4, 2, 8⟩

/-- Flits per cycle of a link (Table 8-1). -/
def linkWidth (a b : Node) : Nat :=
  match a, b with
  | .station _, .station _ => 40
  | .station _, .spine _ k => spineWidth k
  | .spine _ k, .station _ => spineWidth k
  | .station _, .rind => 4
  | .rind, .station _ => 4
  | .station _, .edge => 4
  | _, _ => 1

/-- The key of a link direction. -/
def linkKey (a b : Node) : Nat := 8192 * (Node.place a) + (Node.place b)

/-- The node that the flits in buffer i of a packet came from. -/
def Packet.before (p : Packet) (i : Nat) : Node := ((p.trail[i + 1]?).map Hop.node).getD (Packet.start p)

/-- The flits of a packet that have not left yet. -/
def Packet.left (p : Packet) : Nat := flitsOf p.body - p.copied - (p.trail.map fun h => h.flits.length).sum

/-- The flits of a packet at place i of its way, counted from its head; behind its last buffer they have not left yet. -/
def Packet.held (p : Packet) (i : Nat) : Nat :=
  match p.trail[i]? with
  | some h => h.flits.length
  | none => if i = p.trail.length then (Packet.left p) else 0

/-- The node at place i of a packet's way. -/
def Packet.nodeAt (p : Packet) (i : Nat) : Node := ((p.trail[i]?).map Hop.node).getD (Packet.start p)

/-- The flits of a packet in the buffer of a link, of its VC and class, on reserved credits and on shared ones. -/
def Packet.using (p : Packet) (key vc : Nat) (detour : Bool) : Nat × Nat :=
  (p.trail.zipIdx.foldl (fun (n : Nat × Nat) h =>
    if linkKey (Packet.before p h.2) h.1.node = key then
      (n.1 + (if vcOf (kindOf p.body) = vc ∧ h.1.detour = detour then h.1.flits.count false else 0), n.2 + h.1.flits.count true)
    else n) (0, 0))

/-- The credits of a link that flits of a VC and class hold: reserved ones and shared ones. -/
def State.creditsHeld (s : State) (a b : Node) (vc : Nat) (detour : Bool) : Nat × Nat :=
  s.net.foldl (fun (n : Nat × Nat) p =>
    let v := Packet.using p (linkKey a b) vc detour
    (n.1 + v.1, n.2 + v.2)) (0, 0)

/-- A credit of a link for a flit: false from those reserved for its VC and class, true from the shared pool; none if there is
    none (R181). -/
def State.credit (s : State) (a b : Node) (vc : Nat) (detour : Bool) : Option Bool :=
  match bufSize a b with
  | none => some false
  | some z =>
    let u := s.creditsHeld a b vc detour
    if u.1 < (if detour then z.detour else z.own) then some false
    else if u.2 < z.shared then some true else none

/-- Whether two packets may go to one endpoint: either is a multicast packet, or their destinations are one tile or block, named
    logically or not (R182). -/
def State.sameEnd (s : State) (g h : Head) : Bool :=
  let site (h : Head) : Option Nat :=
    if h.dlog && decide (h.dfield < 48) then (s.siteOf (fieldNo h.dfield) h.dsite).map fun t => t.site.val else some h.dsite
  g.dfield == 0x3E || h.dfield == 0x3E || (g.dfield == h.dfield && (site g == site h || (g.dsite == h.dsite && g.dlog == h.dlog)))

/-- Whether a packet's head flit is behind another packet: in its buffer, one of its VC and class that came before it; at its
    source or its engine's spine port, an earlier one of its VC for the same endpoint (R182).
    DEDUCED: notes/assumptions/52. -/
def State.behind (s : State) (p : Packet) : Bool :=
  let vc := vcOf (kindOf p.body)
  match p.trail with
  | x :: _ => s.net.any fun q => vcOf (kindOf q.body) == vc && q.trail.zipIdx.any fun y =>
      !y.1.flits.isEmpty && decide (y.1.seq < x.seq) && y.1.detour == x.detour &&
      linkKey (Packet.before q y.2) y.1.node == linkKey (Packet.before p 0) x.node
  | [] => s.net.any fun q =>
      vcOf (kindOf q.body) == vc && q.origin == p.origin && decide (0 < (Packet.left q) ∧ q.seq < p.seq) &&
      (p.origin != .source || (q.head.sfield == p.head.sfield && q.head.ssite == p.head.ssite)) && s.sameEnd q.head p.head

/-- A flit that waits for an output: its packet, its place on the packet's way, the link it takes, its class there, its VC and the
    input it came by. -/
structure FlitMove where
  n      : Nat
  k      : Nat
  from_  : Node
  to_    : Node
  detour : Bool
  vc     : Nat
  input  : Nat
  deriving DecidableEq, Repr

/-- The input of a router or station that the flits at place i of a packet's way came by; its own endpoint's is the last. -/
def Packet.input (p : Packet) (i : Nat) : Nat := if i < p.trail.length then (Node.place (Packet.before p i)) else 8191

/-- The flit at place k of a packet's way and the link it waits for: place 0 holds the head flit, which goes where the route says;
    a later flit follows its head. -/
def State.moveOf (s : State) (n : Nat) (p : Packet) (k : Nat) : Option FlitMove :=
  if Packet.held p k = 0 ∨ (k = p.trail.length ∧ p.feed.isSome) then none
  else
    let vc := vcOf (kindOf p.body)
    match k with
    | 0 => if s.behind p then none else match s.hopOf p with
      | .go to_ d => some ⟨n, 0, Packet.nodeAt p 0, to_, d, vc, Packet.input p 0⟩
      | _ => none
    | j + 1 => match p.trail[j]? with
      | some h => some ⟨n, k, Packet.nodeAt p k, h.node, h.detour, vc, Packet.input p k⟩
      | none => none

/-- Every flit that waits for an output. -/
def State.moves (s : State) : List FlitMove :=
  s.net.zipIdx.flatMap fun p => (List.range (p.1.trail.length + 1)).filterMap fun k => s.moveOf p.2 p.1 k

/-- Whether two flits wait for one output. -/
def FlitMove.rival (m o : FlitMove) : Bool := linkKey m.from_ m.to_ == linkKey o.from_ o.to_

/-- Whether a packet of a VC has passed an output in part, so that it keeps the VC there (R180). -/
def State.keeps (s : State) (but : Option Nat) (key vc : Nat) : Bool :=
  s.net.zipIdx.any fun p => some p.2 != but && vcOf (kindOf p.1.body) == vc && p.1.trail.zipIdx.any fun h =>
    linkKey (Packet.before p.1 h.2) h.1.node == key && decide (0 < Packet.held p.1 (h.2 + 1))

/-- The turns from the input that begins a round to another (R180). -/
def turns (start input : Nat) : Nat := (input + 8192 - start % 8192) % 8192

/-- A branch of a multicast packet's tree at a station: the next node and the copy's head (R187). -/
structure Branch where
  to_  : Node
  head : Head
  deriving DecidableEq, Repr

/-- What a station finds for one member: a branch towards it, or why its copy is not sent (R187, R189). -/
inductive Towards where
  | branch (b : Branch)
  | pathDown
  | unmapped
  | none
  deriving DecidableEq, Repr

/-- How a multicast packet came to a station: by a column link, by a row link, or from its source. -/
def Packet.cameBy (p : Packet) (f : FieldNo) : Option Bool :=
  match Packet.before p 0 with
  | .station g => some (decide (g % 8 = f.val % 8))
  | _ => none

/-- The branch of a station's tree towards member m: by column link to the member's row, then by row link to its field, then down
    the drop link of its site (R187). -/
def State.towards (s : State) (f : FieldNo) (p : Packet) (g : Group) (m : Fin 16) : Towards :=
  let k := s.member f g.group m.val
  let d := fieldNo (k.tile / 40)
  let link (n : FieldNo) : Towards :=
    if s.linkUp f n && (if n = d then s.takes d p.body else s.up n.val) then .branch ⟨.station n.val, p.head⟩ else .pathDown
  if d.val / 8 ≠ f.val / 8 then
    (if Packet.cameBy p f = none then link (nextStation f d) else .none)
  else if d ≠ f then
    (if Packet.cameBy p f = some false then .none else link d)
  else match s.siteOf f (k.tile % 40) with
    | some t => .branch ⟨.site t.key, { p.head with dfield := f.val, dsite := k.tile % 40, dlog := true, mcg := some { g with member := some m } }⟩
    | Option.none => .unmapped

/-- The members of a group. -/
def State.members (s : State) (f : FieldNo) (g : Group) : List (Fin 16) :=
  (List.finRange 16).filter fun m => decide (m.val < s.groupSize f g.group)

/-- The members to whom a packet's copies go on from a station: at its source all of them; beyond, those whose way lies through
    it. -/
def State.branches (s : State) (f : FieldNo) (p : Packet) (g : Group) : List Branch :=
  ((s.members f g).filterMap fun m => match s.towards f p g m with
    | .branch b => some b
    | _ => none).eraseDups

/-- Whether the router or station that a node names takes cycles: its field's clock is not stopped (R379). -/
def State.nodeRuns (s : State) : Node → Bool
  | .site k => !s.rind.power.stopped.contains (k / 42)
  | .mesh k => !s.rind.power.stopped.contains (k / 42)
  | .detour k => !s.rind.power.stopped.contains (k / 42)
  | .station f => !s.rind.power.stopped.contains f
  | .spine f site => site == 0x33 || !s.rind.power.stopped.contains f
  | _ => true

/-- Whether a station may send a flit of a multicast packet to its branches: each has a credit for its VC, and at none does a
    flit of a higher VC wait or another packet keep the VC (R180, R187). -/
def State.branchReady (s : State) (n : Nat) (from_ : Node) (vc : Nat) (to_ : Node) (first : Bool) : Bool :=
  let key := linkKey from_ to_
  (s.credit from_ to_ vc false).isSome && s.nodeRuns to_ &&
  !(s.moves.any fun o => linkKey o.from_ o.to_ == key && decide (o.vc < vc) && (s.credit o.from_ o.to_ o.vc o.detour).isSome) &&
  (!first || !s.keeps (some n) key vc)

/-- Whether the links of a station's branches have a credit for each flit that goes over them in one cycle: members at one site share
    its link (R187). -/
def State.fanRoom (s : State) (from_ : Node) (vc : Nat) (outs : List Node) : Bool :=
  outs.all fun b => match bufSize from_ b with
    | none => true
    | some z =>
      let u := s.creditsHeld from_ b vc false
      decide (outs.count b ≤ (z.own - u.1) + (z.shared - u.2))

/-- Whether a multicast packet of a higher VC, whose next flit its station may send, takes a flit's output first (R180, R187). -/
def State.copyFirst (s : State) (m : FlitMove) : Bool :=
  s.net.zipIdx.any fun q => match m.from_, q.1.head.mcg with
    | .station f, some g =>
      q.1.loc == m.from_ && q.1.head.dfield == 0x3E && decide (vcOf (kindOf q.1.body) < m.vc ∧ 0 < Packet.held q.1 0) && !s.behind q.1 &&
      (let bs := s.branches (fieldNo f) q.1 g
       bs.any (fun b => b.to_ == m.to_) && bs.all fun b => s.branchReady q.2 m.from_ (vcOf (kindOf q.1.body)) b.to_ (q.1.copied == 0))
    | _, _ => false

/-- Whether an output grants a waiting flit (R180): it has a credit; no flit of a higher VC that has one waits there; and if it is
    a head flit, no other packet keeps its VC there and no head flit of its VC that has a credit comes before it in the round of
    the inputs.
    DESIGN CHOICE: notes/assumptions/131. -/
def State.granted (s : State) (m : FlitMove) : Bool :=
  let key := linkKey m.from_ m.to_
  let others := s.moves.filter fun o => FlitMove.rival m o && (o.n != m.n || o.k != m.k) && (s.credit o.from_ o.to_ o.vc o.detour).isSome
  let start := tget 0 (tget {} s.links key).rounds m.vc
  (s.credit m.from_ m.to_ m.vc m.detour).isSome &&
  !others.any (fun o => decide (o.vc < m.vc)) && !s.copyFirst m &&
  (m.k != 0 ||
    (!s.keeps (some m.n) key m.vc &&
     !others.any fun o => o.k == 0 && o.vc == m.vc && decide (turns start o.input < turns start m.input)))

/-- A cycle in which a flit waits for a credit, counted at a tile's injection port and at a station's express link (Table 18-1).
    DESIGN CHOICE: notes/assumptions/99. -/
def State.creditWait (s : State) (inject : Bool) (from_ to_ : Node) : State :=
  match from_, to_ with
  | .site k, _ => if inject then s.tel (tileOfKey k) 21 1 else s
  | .station f, .station _ => s.telStation (fieldNo f) 16 1
  | _, _ => s

/-- A packet without the empty buffers behind its last flit. -/
def Packet.trim (p : Packet) : Packet :=
  if (Packet.left p) = 0 ∧ p.feed.isNone then
    { p with trail := (p.trail.reverse.dropWhile fun h => h.flits.isEmpty).reverse }
  else p

/-- A packet whose flit at place k has gone one buffer on, with the credit that it took. -/
def Packet.advance (p : Packet) (m : FlitMove) (credit : Bool) (seq : Nat) : Packet :=
  let drop (t : List Hop) : List Hop := t.modify m.k fun h => { h with flits := h.flits.drop 1 }
  match m.k with
  | 0 => Packet.trim { p with trail := ⟨m.to_, m.detour, seq, [credit]⟩ :: drop p.trail }
  | j + 1 => Packet.trim { p with trail := (drop p.trail).modify j fun h => { h with flits := h.flits ++ [credit] } }

/-- A flit sent on a link: counted by both ends, and kept in the sender's replay buffer for the flits of 32 cycles (R178). The
    input behind the one served begins the channel's next round (R180). -/
def State.linkSend (s : State) (m : FlitMove) (w : BitVec 1152) : State :=
  let key := linkKey m.from_ m.to_
  let x := tget {} s.links key
  let keep := 32 * linkWidth m.from_ m.to_
  let replay := x.replay ++ [w]
  let y : LinkSt := {
    count := x.count + 1
    rounds := if m.k = 0 then tset 0 x.rounds m.vc (m.input + 1) else x.rounds
    replay := replay.drop (replay.length - keep) }
  { s with links := tset {} s.links key y }

/-- The number of a packet's flit that is next to leave place k of its way. -/
def Packet.flitNo (p : Packet) (k : Nat) : Nat := p.copied + ((p.trail.take k).map fun h => h.flits.length).sum

/-- Whether the flits at place k of a packet's way are its source's, not yet injected. -/
def Packet.injects (p : Packet) (k : Nat) : Bool := decide (k = p.trail.length ∧ p.origin = .source)

/-- A flit that its output grants goes over the link. The station at the wafer end of an edge link writes the tag into a packet
    from the Rind (R183). -/
def State.flitGo (s : State) (m : FlitMove) (p : Packet) : State :=
  match s.credit m.from_ m.to_ m.vc m.detour with
  | none => s
  | some c =>
    let h := if m.k = 0 ∧ p.origin = .source ∧ p.trail.isEmpty ∧ 48 ≤ p.head.sfield then
        { p.head with ntag := s.stationTag (s.entryStation p.head) p.head.job } else p.head
    let q := Packet.advance { p with head := h } m c s.netSeq
    let s1 : State := { s with net := s.net.set m.n q, netSeq := s.netSeq + 1 }
    (s1.linkSend m (flitBits h p.body (Packet.flitNo p m.k))).countHop (Packet.injects p m.k) m.from_ m.to_ 1

/-- The router or station that receives a packet where its head flit is: its field and site, as events name them. -/
def Packet.receiver (p : Packet) : Nat × Nat :=
  match Packet.nodeAt p 0 with
  | .site k => (k / 42, k % 42)
  | .mesh k => (k / 42, k % 42)
  | .detour k => (k / 42, k % 42)
  | .station f => (f, 0x34)
  | .spine f _ => (f, 0x34)
  | _ => (0x3C, 1)

/-- Whether a packet holds a reserved KIND or SUB (R176, R177). -/
def isReserved : Body → Bool
  | .reserved => true
  | .nctlReserved _ => true
  | _ => false

/-- A packet dropped, with a configuration-error event of the router or station that receives it (R176). -/
def State.dropReserved (s : State) (p : Packet) : State :=
  s.post 0x04 (some p.head.job.val) none (Packet.receiver p).1 (Packet.receiver p).2 0

/-- PACKET_FORWARD: the flit at place k of the n-th packet in flight goes over the link that it waits for, if its output grants it
    (R168–R170, R177, R180–R183); a packet that its router or station does not pass on is answered or dropped there. -/
def execPacketForward (n k : Nat) (s : State) : Out :=
  match s.net[n]? with
  | none => .next s
  | some p =>
    let gone : State := { s with net := s.net.eraseIdx n }
    if isReserved p.body then .next (gone.dropReserved p)
    else match s.moveOf n p k with
      | some m =>
        if !s.nodeRuns m.from_ || !s.nodeRuns m.to_ then .next s
        else if (s.credit m.from_ m.to_ m.vc m.detour).isNone then .next (s.creditWait (Packet.injects p m.k) m.from_ m.to_)
        else .next (if s.granted m then s.flitGo m p else s)
      | none =>
        if k ≠ 0 ∨ s.behind p ∨ !s.nodeRuns (Packet.nodeAt p 0) then .next s
        else match s.hopOf p with
          | .unmapped f => .next (gone.unserved p f)
          | .notServed f => .next (gone.unserved p f)
          | .tagged f => .next (gone.tagMismatch p.head p.body f.val 0x34)
          | .stopped f => .next (gone.groupMiss p (p.head.mcg.getD { group := 0 }) f)
          | _ => .next s

/-- FLIT_REPLAY (R178, R179): the flit at place `k` of the n-th packet, sent by a router or station, failed its CRC `fails` times in
    a row. The receiver discards it and every later flit each time, and the sender replays from it: it is still before the link,
    and it goes over when it is good. At RETRYMAX failures a link with a JET_LINK entry enters FAILED, and the flit stays.
    DEDUCED: notes/assumptions/46. -/
def execFlitReplay (f : FieldNo) (site : Option SiteNo) (link : Option (Fin 27)) (fails : BitVec 8) (n k : Nat) (s : State) : Out :=
  if fails = 0 ∨ !s.serves f.val then .next s
  else
    let s := s.raise (netCa f.val (match site with | some t => t.val | none => 0x34) 8) 7
    match link with
    | none => execPacketForward n k s
    | some l =>
      let s := s.bumpSat (jetLinkCa f l.val) 63 32 fails.toNat
      if fails.toNat < s.fld (stationCa f 0 0) 15 8 ∨ s.fld (jetLinkCa f l.val) 2 0 ≠ 2 then execPacketForward n k s
      else .next ((s.changeLinks fun s => s.setLink f l.val 3).linkFailure f l.val)

/-- Whether a multicast packet carries data that a tracker awaits: a write. -/
def needsTracker : Body → Bool
  | .wr _ _ => true
  | _ => false

/-- The members whose path or map entry fails at a station: each completes as ADDRERR, and a path that is out of service records
    an address-error event (R189). DESIGN CHOICE: the event gives the member's logical tile, notes/assumptions/132. -/
def State.failMembers (s : State) (f : FieldNo) (p : Packet) (g : Group) : State :=
  let fail (s : State) (m : Fin 16) : State := if needsTracker p.body then s.memberDone p.head m .addrErr else s
  (s.members f g).foldl (fun s m => match s.towards f p g m with
    | .pathDown => fail (s.post 0x05 (some p.head.job.val) none f.val 0x34 (BitVec.ofNat 64 (s.member f g.group m.val).tile)) m
    | .unmapped => fail (s.post 0x05 (some p.head.job.val) none f.val 0x34 (BitVec.ofNat 64 (s.member f g.group m.val).tile)) m
    | _ => s) s

/-- The first flit of a multicast packet sent to its branches, each copy with a credit of its link. -/
def State.copyOut (s : State) (p : Packet) (from_ : Node) (bs : List Branch) : State :=
  let vc := vcOf (kindOf p.body)
  bs.foldl (fun s b => match s.credit from_ b.to_ vc false with
    | none => s
    | some c =>
      let q : Packet := { head := b.head, body := p.body, origin := from_, seq := s.netSeq, feed := some p.seq, trail := [⟨b.to_, false, s.netSeq, [c]⟩] }
      let m : FlitMove := ⟨0, 0, from_, b.to_, false, vc, Packet.input p 0⟩
      let s1 : State := { s with net := s.net ++ [q], netSeq := s.netSeq + 1 }
      (s1.linkSend m (flitBits b.head p.body 0)).countHop false from_ b.to_ 1) s

/-- A later flit of a multicast packet sent to its copies. -/
def State.fanNext (s : State) (p : Packet) (from_ : Node) : State :=
  let vc := vcOf (kindOf p.body)
  (List.range s.net.length).foldl (fun s i => match s.net[i]? with
    | none => s
    | some q =>
      if q.feed ≠ some p.seq then s
      else
        let j := q.trail.length - 1
        let to_ := Packet.nodeAt q j
        match s.credit from_ to_ vc false with
        | none => s
        | some c =>
          let s1 : State := { s with net := s.net.set i { q with trail := q.trail.modify j fun h => { h with flits := h.flits ++ [c] } } }
          (s1.linkSend ⟨0, 1, from_, to_, false, vc, 0⟩ (flitBits q.head q.body p.copied)).countHop false from_ to_ 1) s

/-- A multicast packet whose next flit has gone to its copies; after its last it is no more, and they go their own ways. -/
def State.copyTaken (s : State) (p : Packet) : State :=
  let q := { p with copied := p.copied + 1, trail := p.trail.modify 0 fun h => { h with flits := h.flits.drop 1 } }
  if q.copied < flitsOf p.body then { s with net := s.net.map fun x => if x.seq = p.seq then q else x }
  else { s with net := (s.net.filter fun x => decide (x.seq ≠ p.seq)).map fun x => if x.feed = some p.seq then Packet.trim { x with feed := none } else x }

/-- MULTICAST_REPLICATE: the next flit of the n-th packet in flight, a multicast packet at a station, is sent to the branches of its
    tree in one cycle, when every branch has a credit; or the packet is stopped at its source station (R187–R189). A write
    waits there for a free tracker.
    DEDUCED: notes/assumptions/48. -/
def execMulticastReplicate (n : Nat) (s : State) : Out :=
  match s.net[n]? with
  | none => .next s
  | some p =>
    match p.loc, p.head.mcg with
    | .station f0, some g =>
      let f := fieldNo f0
      let vc := vcOf (kindOf p.body)
      if p.head.dfield ≠ 0x3E ∨ Packet.held p 0 = 0 ∨ !s.nodeRuns (.station f0) then .next s
      else if 0 < p.copied then
        let outs := (s.net.filter fun q => q.feed == some p.seq).map fun q => Packet.nodeAt q (q.trail.length - 1)
        .next (if s.fanRoom (.station f0) vc outs && outs.all fun b => s.branchReady n (.station f0) vc b false then (s.fanNext p (.station f0)).copyTaken p else s)
      else if s.behind p then .next s
      else
        let gone : State := { s with net := s.net.eraseIdx n }
        let atSource := (Packet.cameBy p f).isNone
        if atSource && !s.groupOk f g p.head.job then .next (gone.groupMiss p g f)
        else if atSource && needsTracker p.body && decide (256 ≤ (s.fieldSt f.val).trackers.length) then .next s
        else
          let bs := s.branches f p g
          if !(s.fanRoom (.station f0) vc (bs.map (·.to_)) && bs.all fun b => s.branchReady n (.station f0) vc b.to_ true) then .next s
          else
            let s1 := if atSource && needsTracker p.body then
                s.modField f.val fun x => { x with trackers := x.trackers ++ [⟨p.head, g.group, (s.members f g).map fun _ => none⟩] }
              else s
            let s1 := s1.failMembers f p g
            let s1 := if atSource then (match p.body with | .rdata _ _ _ => s1.mcReadPart g | _ => s1) else s1
            if bs.isEmpty then .next { s1 with net := s1.net.eraseIdx n }
            else .next ((s1.copyOut p (.station f0) bs).copyTaken p)
    | _, _ => .next s

/-- The status a multicast write returns: the first that is not DONE, in member order (R188). -/
def firstBad : List (Option NStatus) → NStatus
  | [] => .done
  | some .done :: r => firstBad r
  | some st :: _ => st
  | none :: r => firstBad r

/-- MULTICAST_WACK: when every member has completed, the source station returns one WACK and frees its tracker. -/
def execMulticastWack (f : FieldNo) (n : Nat) (s : State) : Out :=
  match (s.fieldSt f.val).trackers[n]? with
  | none => .next s
  | some k =>
    if k.status.any Option.isNone then .next s
    else
      let s := s.modField f.val fun x => { x with trackers := x.trackers.eraseIdx n }
      .next (s.reply k.head f.val 0x34 (.wack (firstBad k.status)))

end Sys2Proof.Machine
end

