-- ==== Sys2Proof/Machine/Matrix.lean ====
section
/-! DEFINITION. The matrix engine (chapter 3): weight buffers, passes, the check column and the accumulator windows. -/

namespace Sys2Proof.Machine

/-! ### The arithmetic of a pass (R56, R61, R62, R65) -/

/-- KMAX of a mode (Table 3-1). -/
def kmax : Fmt → Nat
  | .bs8 => 256
  | .bs4 => 512
  | .bs16 => 128

/-- Bytes of an activation row or weight row entry (Table 3-1, R445). -/
def engineRowBytes (f : Fmt) : Nat := rowBytes f (kmax f / 32)

/-- A block as the array reads it: its exponent byte (0 where it lies wholly at or beyond KLEN), its effective
    mantissas, and whether a poison code lies inside KLEN. -/
structure BlockRead where
  e  : Nat
  m  : List Int
  pz : Bool
  deriving DecidableEq, Repr

/-- Block b of a row, after R56 and R61. -/
def readBlock (f : Fmt) (klen b : Nat) (bytes : List Byte) (ebyte : Nat) : BlockRead :=
  let inside := (mantissas f bytes).take (klen - 32 * b)
  ⟨if klen ≤ 32 * b then 0 else ebyte, inside.map (effMant f ebyte) ++ List.replicate (32 - inside.length) 0,
   inside.any (· == poisonMant f)⟩

/-- A row entry as the array reads it. -/
def readRow (f : Fmt) (klen : Nat) (bytes : List Byte) : List BlockRead :=
  let nb := kmax f / 32
  (List.range nb).map fun b =>
    readBlock f klen b ((bytes.drop (b * blockBytes f)).take (blockBytes f)) (bytes.getD (nb * blockBytes f + b) 0).toNat

/-- A sum of products. -/
def dot (xs ys : List Int) : Int := (xs.zipWith (· * ·) ys).foldl (· + ·) 0

/-- The result of a pass in one lane (R62). -/
def passLane (f : Fmt) (x w : List BlockRead) : Num × Flags :=
  let ps := x.zip w
  if x.any (·.pz) || w.any (·.pz) then (.poison, fPZ)
  else if ps.any (fun p => p.1.e == 255 || p.2.e == 255) then
    let z := ps.foldl (fun z p => if p.1.e == 255 || p.2.e == 255 then z + dot p.1.m p.2.m else z) 0
    (.ovf (z < 0), fOV)
  else
    let pe := (ps.filter fun p => p.1.e ≠ 0 && p.2.e ≠ 0).map fun p => (dot p.1.m p.2.m, p.1.e + p.2.e)
    let nz := pe.filter fun p => p.1 ≠ 0
    if nz.isEmpty then (.fin 0 0, 0)
    else
      let emax := nz.foldl (fun m p => max m p.2) 0
      let term (p : Int × Nat) : Int := rneInt (p.1 * 65536) ((emax : Int) - p.2)
      let tsum := nz.foldl (fun t p => t + term p) 0
      let inexact := nz.any fun p => lostBits (p.1.natAbs * 65536) ((emax : Int) - p.2)
      (.fin tsum ((emax : Int) - 254 - 2 * (f.w - 2 : Nat) - 16),
       if inexact then (if tsum = 0 then fNX ||| fUF else fNX) else 0)

/-- An exact sum of two finite values. -/
def addFin (m e m' e' : Int) : Int × Int :=
  let e0 := min e e'
  (m * ((1 <<< (e - e0).toNat : Nat) : Int) + m' * ((1 <<< (e' - e0).toNat : Nat) : Int), e0)

/-- Flags ORed into an element's flag bits (R64). -/
def orElemFlags (w : Word) (fl : Flags) : Word := setBits w 5 2 ((w48Flags w ||| fl).toNat % 16)

/-- A pass result combined with its element (R65): the element after, and the flags raised. -/
def accumulate (acc : Bool) (old : Word) (r : Num) (fl : Flags) : Word × Flags :=
  let old := if acc then old else 0
  let keep := w48Flags old
  match w48Value old, r with
  | .poison, _ => (w48Word .poison (keep ||| fl ||| fPZ), fl ||| fPZ)
  | _, .poison => (w48Word .poison (keep ||| fl ||| fPZ), fl ||| fPZ)
  | .ovf _, _ => (orElemFlags old (fl ||| fOV), fl ||| fOV)
  | _, .ovf n => (w48Word (.ovf n) (keep ||| fl ||| fOV), fl ||| fOV)
  | .fin m e, .fin tm te =>
    if tm = 0 then (orElemFlags old fl, fl)
    else
      let (sm, se) := addFin m e tm te
      let (v, fl') := roundW48 sm se
      (w48Word v (keep ||| fl ||| fl'), fl ||| fl')

/-! ### The check column (R68, R69) -/

/-- The digits of a mantissa in BS16 (R49). -/
def highDigit (m : Int) : Int := m.fdiv 256
def lowDigit (m : Int) : Int := m.fmod 256

/-- What one weight row adds to the check entries: one entry per contraction index, two in BS16 (R68). -/
def checkTerms (f : Fmt) (row : List BlockRead) : List Int :=
  let ms := row.flatMap (·.m)
  match f with
  | .bs16 => ms.flatMap fun m => [highDigit m, lowDigit m]
  | _ => ms

/-- Two lists of numbers added, the shorter extended by zeros. -/
def addLists : List Int → List Int → List Int
  | [], ys => ys
  | xs, [] => xs
  | x :: xs, y :: ys => (x + y) :: addLists xs ys

/-- The value of the check entries of each contraction index. -/
def checkValues (f : Fmt) (check : List Int) : List Int :=
  match f with
  | .bs16 => (chunks 2 (check.length / 2) check).map fun p => 256 * p.getD 0 0 + p.getD 1 0
  | _ => check

/-- The blocks of a row whose compare fails (R69): one compare per block, and in BS16 per digit. -/
def badBlocks (f : Fmt) (x : List BlockRead) (ws : List (List BlockRead)) (check : List Int) : List Nat :=
  let cv := checkValues f check
  let digits : List (Int → Int) := match f with
    | .bs16 => [highDigit, lowDigit]
    | _ => [id]
  (List.range (kmax f / 32)).filter fun b => digits.any fun dg =>
    let xb := ((x.getD b ⟨0, [], false⟩).m).map dg
    let left := ws.foldl (fun t w => t + dot xb (w.getD b ⟨0, [], false⟩).m) 0
    decide (left ≠ dot xb ((cv.drop (32 * b)).take 32))

/-- Whether every compare of a row holds (R69). -/
def checkRow (f : Fmt) (x : List BlockRead) (ws : List (List BlockRead)) (check : List Int) : Bool :=
  (badBlocks f x ws check).isEmpty

/-! ### Weight buffers (R53, R58, R443) -/

/-- The shadow buffer. -/
def Matrix.shadow (m : Matrix) : WeightBuf := if m.active then m.buf0 else m.buf1

/-- The active buffer. -/
def Matrix.loaded (m : Matrix) : WeightBuf := if m.active then m.buf1 else m.buf0

/-- The shadow buffer changed. -/
def Matrix.setShadow (m : Matrix) (b : WeightBuf) : Matrix := if m.active then { m with buf0 := b } else { m with buf1 := b }

/-- A full buffer: 256 weight rows, after a mask where the run takes one. -/
def WeightBuf.full (b : WeightBuf) : Bool := decide (b.rows.length = 256)

/-- The run whose stream-in B queue the next load takes from (R443). -/
def Matrix.loadFor (m : Matrix) : Option RunDesc :=
  match m.run with
  | some r => if !r.swapped || decide (r.prob + 1 < r.desc.nprob) then some r.desc else m.queued
  | none => m.queued

/-- The size of the entry a load takes next. -/
def loadSize (d : RunDesc) (b : WeightBuf) : Nat :=
  if d.cpred && b.mask.isNone && b.rows.isEmpty then 32 else engineRowBytes d.fmt

/-- WEIGHT_LOAD: one entry is taken from stream-in B and shifted into the shadow buffer, its check entries formed;
    a mask comes ahead of the first row. Anything else at the head stops the load (R58, R68, R159, R445).
    DEDUCED: notes/assumptions/16. -/
def execWeightLoad (t : Tile) (s : State) : Out :=
  if !s.clocked t.field then .next s
  else
    let m := (s.tile t).mxe
    match Matrix.loadFor m with
    | none => .next s
    | some d =>
      let b := Matrix.shadow m
      if WeightBuf.full b then .next s
      else match StreamCtx.head (s.eng t 1 d.ctx) with
        | some (.data bytes _) =>
          if bytes.length ≠ loadSize d b then .next s
          else
            let b' : WeightBuf :=
              if d.cpred && b.mask.isNone && b.rows.isEmpty then { b with mask := some bytes }
              else { b with rows := b.rows ++ [bytes],
                            check := addLists b.check (checkTerms d.fmt (readRow d.fmt d.klen bytes)) }
            .next ((s.modEng t 1 d.ctx StreamCtx.drop).modTile t fun x => { x with mxe := Matrix.setShadow x.mxe b' })
        | _ => .next s

/-! ### Scheduled actions of the engine -/

/-- What stops a take from a stream-in queue. -/
inductive HeadProblem where
  | missing | token | size
  deriving DecidableEq, Repr

/-- Whether the head of a queue is a data entry of the size due (R98, R445). -/
def StreamCtx.problem (x : StreamCtx) (size : Nat) : Option HeadProblem :=
  match StreamCtx.head x with
  | none => some .missing
  | some (.token _) => some .token
  | some (.data b _) => if b.length = size then none else some .size

def seqFlagsCa (t : Tile) : Nat := tileCa t 0x01 0x08

/-- A hold on a queue head recorded once: TOKHEAD or ENTSIZE and the entry-at-head event (R98, R445). -/
def State.headNote (s : State) (t : Tile) (c : CtxNo) (e : Nat) (p : HeadProblem) : State :=
  if (s.ctx t c).seen.contains e || p == .missing then s
  else
    let size := p == .size
    let s := s.raise (seqFlagsCa t) (if size then 8 else 2)
    let s := s.postCtx 0x0A t c (BitVec.ofNat 64 (e + 1 + if size then 256 else 0))
    s.modCtx t c fun x => { x with seen := x.seen ++ [e] }

/-- What stops the engine's due swap: the shadow buffer is not full. The queue problem behind it, if any, is that of
    the load (R58, R445). -/
def State.swapBlock (s : State) (t : Tile) (d : RunDesc) : Option HeadProblem :=
  let b := Matrix.shadow (s.tile t).mxe
  if WeightBuf.full b then none
  else some ((StreamCtx.problem (s.eng t 1 d.ctx) (loadSize d b)).getD .missing)

/-- The swap performed (R58). -/
def State.swapDo (s : State) (t : Tile) (r : Run) : State :=
  s.modTile t fun x =>
    let m := { x.mxe with active := !x.mxe.active, run := some { r with swapped := true } }
    { x with mxe := Matrix.setShadow m {} }

/-- The mask bit of a lane under MXE_COLMASK_c_n and the tile's own mask (R55). -/
def State.laneOn (s : State) (t : Tile) (d : RunDesc) (m : Option (List Byte)) (j : Nat) : Bool :=
  s.bit (tileCa t 0x02 (0x2000 + 0x80 * d.ctx.val + 0x20 * d.cmsel + 8 * (j / 64))) (j % 64) &&
  (match m with
   | some bs => (bs.getD (j / 8) 0).getLsbD (j % 8)
   | none => true)

/-- What the presentations of one row come to (R70): how many of them mismatched, whether the last permitted one did, the
    injection count left (R73), and the block of the last mismatch. -/
structure Tries where
  bad    : Nat
  failed : Bool
  inj    : Nat
  last   : Nat
  deriving DecidableEq, Repr

/-- The presentations of one row from the k-th on (R69–R73). In each, the blocks that mismatch are `real`, that of a fault while
    k < `mism`, and that of an injection while its count is not used up; a presentation uses up one count.
    DEDUCED: notes/assumptions/17. -/
def attempts (retry mism : Nat) (real : List Nat) (faultBlk injBlk : Nat) : Nat → Nat → Nat → Nat → Tries
  | 0, _, inj, last => ⟨0, false, inj, last⟩
  | fuel + 1, k, inj, last =>
    match real ++ (if k < mism then [faultBlk] else []) ++ (if 0 < inj then [injBlk] else []) with
    | [] => ⟨k, false, inj, last⟩
    | b :: bs =>
      let last := bs.foldl max b
      if k = retry then ⟨k + 1, true, inj - 1, last⟩
      else attempts retry mism real faultBlk injBlk fuel (k + 1) (inj - 1) last

/-! ### The replay buffer (R70, R71) -/

/-- A row presented: the replay buffer keeps the last 10. -/
def Matrix.present (m : Matrix) (row : List Byte × Bool) : Matrix :=
  { m with replay := (m.replay ++ [row]).drop (m.replay.length + 1 - 10) }

/-- Rows presented behind a row that mismatches: taken from stream-in A while their entries are there, and kept for the
    re-presentation (R70). Answers how many there were. -/
def State.takeBehind (s : State) (t : Tile) (d : RunDesc) : Nat → Nat × State
  | 0 => (0, s)
  | n + 1 =>
    match StreamCtx.head (s.eng t 0 d.ctx) with
    | some (.data bytes pred) =>
      if bytes.length = engineRowBytes d.fmt then
        let s := (s.modEng t 0 d.ctx StreamCtx.drop).modTile t fun x => { x with mxe := Matrix.present x.mxe (bytes, pred) }
        let (k, s) := State.takeBehind s t d n
        (k + 1, s)
      else (0, s)
    | _ => (0, s)

/-- The rows that a mismatch discards with the mismatching one: those that wait for re-presentation already, and those of the
    same problem that have entered the pipeline since, at most 9, or 4 in BS16. Answers how many wait.
    DEDUCED: notes/assumptions/18. -/
def State.discardBehind (s : State) (t : Tile) (r : Run) (behind : Nat) : Nat × State :=
  let redo := (s.tile t).mxe.redo
  let most := min (min behind (if r.desc.fmt = .bs16 then 4 else 9)) (r.desc.nrow - 1 - r.row)
  let (k, s) := s.takeBehind t r.desc (most - redo)
  (redo + k, s.modTile t fun x => { x with mxe := { x.mxe with redo := redo + k } })

/-- One lane of a row written (R57, R65, R72).
    DEDUCED: notes/assumptions/19. -/
def State.lanePass (s : State) (t : Tile) (g j : Nat) (acc : Bool) (r : Num) (fl : Flags) : Flags × State :=
  let (old, s) := if acc then s.readAcc t g j else (0, s)
  let (w, fl) := accumulate acc old r fl
  (fl, s.writeAcc t g j w)

/-- The lanes of a row written in order; a result of none is a masked lane. -/
def State.lanesPass (s : State) (t : Tile) (g : Nat) (acc : Bool) : Nat → List (Option (Num × Flags)) → List Flags × State
  | _, [] => ([], s)
  | j, none :: rs =>
    let (fls, s) := State.lanesPass s t g acc (j + 1) rs
    (0 :: fls, s)
  | j, some (r, fl) :: rs =>
    let (fl, s) := s.lanePass t g j acc r fl
    let (fls, s) := State.lanesPass s t g acc (j + 1) rs
    (fl :: fls, s)

/-- The engine's flags and lane flags after a row. -/
def State.mxeFlags (s : State) (t : Tile) (fls : List Flags) : State :=
  (s.laneFlags (tileCa t 0x02 0x100) 4 fls).orReg (mxeFlagsCa t) (BitVec.ofNat 64 ((orFlags fls).toNat % 16))

/-- The run after one row (R52): the next row, the next problem, or the end. -/
def Run.next (r : Run) : Option Run :=
  if r.row + 1 < r.desc.nrow then some { r with row := r.row + 1 }
  else if r.prob + 1 < r.desc.nprob then some { r with prob := r.prob + 1, row := 0, swapped := false }
  else none

/-- A row that is not masked, presented and written: its compares, each mismatch with the rows behind it discarded and its hold
    of 10 cycles, and its lanes or poison (R57, R62, R70, R71). -/
def State.rowWrite (s : State) (t : Tile) (r : Run) (bytes : List Byte) (fault : RowFault) : State :=
  let d := r.desc
  let g := (if d.bank = 1 then 512 else 0) + (d.rowbase + r.prob * d.pstep + r.row) % 512
  let buf := Matrix.loaded (s.tile t).mxe
  let x := readRow d.fmt d.klen bytes
  let ws := buf.rows.map (readRow d.fmt d.klen)
  let retry := s.fld (tileCa t 0x02 0) 11 8
  let perRow := if d.fmt = .bs16 then 2 else 1
  let (block, count) := (s.tile t).mxe.inject
  let inj := if block < kmax d.fmt / 32 then count else 0
  let tries := attempts retry fault.mism (badBlocks d.fmt x ws buf.check) fault.block.val block 9 0 inj 0
  let bad := tries.bad
  let failed := tries.failed
  let last := tries.last
  let halts := failed && s.bit (tileCa t 0x02 0) 0
  let (behind, s) := if bad = 0 then (0, s) else s.discardBehind t r fault.behind.val
  let s := s.modTile t fun y => { y with mxe := { y.mxe with
    inject := (block, if block < kmax d.fmt / 32 then tries.inj else count), hold := y.mxe.hold + 10 * (if halts then bad - 1 else bad) } }
  let s := s.tel t 0 (min bad retry + bad * behind)
  let s := s.tel t 2 ((min bad retry + 1) * perRow)
  let s := if bad = 0 then s else (s.setFld (mxeChklogCa t) 3 0 last)
  let s := if min bad retry = 0 then s else (s.raise (mxeFlagsCa t) 8).bumpSat (mxeChklogCa t) 63 32 (min bad retry)
  let s := if failed then
      let s := (s.raise (mxeFlagsCa t) 9).bumpSat (mxeChklogCa t) 31 16 1
      let s := s.postCtx 0x07 t d.ctx (BitVec.ofNat 64 last)
      if halts then s.modTile t fun y => { y with mxe := { y.mxe with halted := true } } else s
    else s
  if !s.accBound t d.ctx g then (s.raise (mxeFlagsCa t) 10).postCtx 0x06 t d.ctx (BitVec.ofNat 64 g)
  else
    let s := s.upsetAcc t g fault.upsets
    let lanes := (List.range 256).map fun j =>
      if !s.laneOn t d buf.mask j then none
      else if failed then some (Num.poison, fPZ)
      else some (passLane d.fmt x (ws.getD j []))
    let (fls, s) := s.lanesPass t g d.acc 0 lanes
    s.mxeFlags t fls

/-- What stops the presentation of the next row: nothing while rows wait in the replay buffer (R70, R71), and otherwise what its
    stream-in A queue has at its head. -/
def State.rowBlock (s : State) (t : Tile) (d : RunDesc) : Option HeadProblem :=
  if 0 < (s.tile t).mxe.redo then none else StreamCtx.problem (s.eng t 0 d.ctx) (engineRowBytes d.fmt)

/-- The next row of a run and the state in which it is presented: from the replay buffer while discarded rows wait there,
    otherwise from stream-in A. -/
def State.nextRow (s : State) (t : Tile) (d : RunDesc) : Option ((List Byte × Bool) × State) :=
  let m := (s.tile t).mxe
  if 0 < m.redo then
    (m.replay[m.replay.length - m.redo]?).map fun row => (row, s.modTile t fun x => { x with mxe := { x.mxe with redo := m.redo - 1 } })
  else match StreamCtx.head (s.eng t 0 d.ctx) with
    | some (.data bytes pred) => some ((bytes, pred),
        (s.modEng t 0 d.ctx StreamCtx.drop).modTile t fun x => { x with mxe := Matrix.present x.mxe (bytes, pred) })
    | _ => none

/-- The next row presented: taken, written unless its predicate masks it (R54), and the run on. -/
def State.rowDo (s : State) (t : Tile) (r : Run) (fault : RowFault) : State :=
  match s.nextRow t r.desc with
  | some ((bytes, pred), s) =>
    let s := s.tel t 0 1
    let s := if r.desc.rpred && !pred then s else s.rowWrite t r bytes fault
    s.modTile t fun x => { x with mxe := { x.mxe with run := Run.next r } }
  | none => s

/-- Whether a context may take scheduled actions: it is current and live, its tile's field serves, and neither a switch
    cycle, the hold of a retry, a stopped engine nor a debug halt stands in the way (R70, R71, R82, R101). -/
def State.canAct (s : State) (t : Tile) (c : CtxNo) : Bool :=
  let x := s.tile t
  s.clocked t.field && x.current == some c && !x.switching && !x.mxe.halted && x.mxe.hold == 0 && !x.dbg.halted && Ctx.live (s.ctx t c)

/-- WEIGHT_SWAP: the shadow buffer becomes active, or the swap waits with cause INB (R58). -/
def execWeightSwap (t : Tile) (s : State) : Out :=
  match (s.tile t).mxe.run with
  | none => .next s
  | some r =>
    if !s.canAct t r.desc.ctx || r.swapped then .next s
    else match s.swapBlock t r.desc with
      | none => .next (s.swapDo t r)
      | some p => .next (s.headNote t r.desc.ctx 1 p)

/-- ROW_PASS: one activation row is presented and its pass written (R52, R59, R62, R65).
    DESIGN CHOICE: notes/assumptions/7.
    DEDUCED: notes/assumptions/18. -/
def execRowPass (t : Tile) (fault : RowFault) (s : State) : Out :=
  match (s.tile t).mxe.run with
  | none => .next s
  | some r =>
    if !s.canAct t r.desc.ctx || !r.swapped then .next s
    else match s.rowBlock t r.desc with
      | none => .next (s.rowDo t r fault)
      | some p => .next (s.headNote t r.desc.ctx 0 p)

/-- The queued run made the run in progress, where none is (R50, R443). -/
def Matrix.startQueued (m : Matrix) : Matrix :=
  match m.run, m.queued with
  | none, some d => { m with run := some { desc := d }, queued := none }
  | _, _ => m

/-- RUN_START: the queued run starts when no run is in progress, as a scheduled action of its context (R50, R81, R443). -/
def execRunStart (t : Tile) (s : State) : Out :=
  match (s.tile t).mxe.queued with
  | none => .next s
  | some d => if !s.canAct t d.ctx then .next s else .next (s.modTile t fun x => { x with mxe := Matrix.startQueued x.mxe })

/-! ### Registers of the engine -/

/-- The engine after CLRHALT: a stopped one restarts, and bundle issue resumes 10 cycles after the restart (R71). -/
def Matrix.restart (m : Matrix) : Matrix := { m with halted := false, hold := if m.halted then m.hold + 10 else m.hold }

/-- A write to MXE_CTL: the plain fields, and CLRHALT restarts a stopped engine (R71). -/
def State.mxeCtlWrite (s : State) (t : Tile) (ca : Nat) (g : RegGroup) (v : Word) : State :=
  let s := s.plainWrite ca g v
  if v.getLsbD 4 then s.modTile t fun x => { x with mxe := Matrix.restart x.mxe } else s

/-- CLRHALT: a write of 1 to MXE_CTL.CLRHALT, the other fields rewritten as they stand (R71). -/
def execClrhalt (t : Tile) (s : State) : Out :=
  if !s.serves t.field then .next (s.caError (tileCa t 0x02 0))
  else .next (s.modTile t fun x => { x with mxe := Matrix.restart x.mxe })

/-- A write to MXE_CHKINJ (R73): while debug is unlocked an injection begins or, with COUNT = 0, ends. -/
def State.chkinjWrite (s : State) (t : Tile) (v : Word) (unlocked : Bool) : State :=
  if !unlocked then s.configError (tileCa t 0x02 0x20)
  else s.modTile t fun x => { x with mxe := { x.mxe with inject := (bits v 7 4, bits v 3 0) } }

/-- A control-window write of an element (R64, R75): lost where a pass writes the element in the same cycle. -/
def State.accWindowWrite (s : State) (t : Tile) (g j : Nat) (v : Word) (collide : Bool) : State :=
  if collide then s.accHazard t g else s.writeAcc t g j v

/-- ACC_WINDOW_WRITE (R64, R75, R76). While the chain or a stream engine has port S the access waits, to be commanded again (R74).
    DEDUCED: notes/assumptions/12, 120. -/
def execAccWindowWrite (t : Tile) (row : Fin 1024) (lane : Fin 256) (v : Word) (collide portS : Bool) (s : State) : Out :=
  if !s.serves t.field then .next (s.caError (accCa t row.val lane.val))
  else if portS then .next s
  else .next (s.accWindowWrite t row.val lane.val v collide)

/-- ACC_WINDOW_READ (R72, R76): the element, or poison where its residue fails; the value read is left in the tile's
    bank output. While the chain or a stream engine has port S the access waits, to be commanded again (R74).
    DEDUCED: notes/assumptions/120. -/
def execAccWindowRead (t : Tile) (row : Fin 1024) (lane : Fin 256) (upset portS : Bool) (s : State) : Out :=
  if !s.serves t.field then .next (s.caError (accCa t row.val lane.val))
  else if portS then .next s
  else
    let s := if upset then s.upsetAcc t row.val [lane] else s
    let (w, s) := s.readAcc t row.val lane.val
    .next (s.modTile t fun x => { x with bankOut := toBytes 8 w.toNat })

end Sys2Proof.Machine
end

