-- ==== Sys2Proof/Machine/Sfu.lean ====
section
/-! DEFINITION. The special functions (chapter 6): native evaluation (R133–R139) and Velhal mode (R143–R145).
A result is a pure function of the value, the function and the mode (R132). -/

namespace Sys2Proof.Machine

/-! ### Fixed point: integers in units of 2^−300, in which the coefficients of R134 are worked out -/

def fxBits : Nat := 300
def fxOne : Int := (1 <<< fxBits : Nat)
def fxMul (a b : Int) : Int := (a * b) >>> fxBits
def fxDiv (a b : Int) : Int := (a <<< fxBits) / b
def fxLn2 : Int := 0xb17217f7d1cf79abc9e3b39803f2f6af40f343267298b62d8a0d175b8baafa2be7b876206df
def fxTwoPi : Int := 0x6487ed5110b4611a62633145c06e0e68948127044533e63a0105df531d89cd9128a5043cc71a
def fxTwoOverSqrtPi : Int := 0x120dd750429b6d11ae3a914fed7fd8688281341d7587cea2e7342b06199cc416180eb39f0b25

/-- A fixed-point value rounded to the nearest multiple of 2^−44, ties to even (R134). -/
def toGrid (x : Int) : Int := rneInt x (fxBits - 44 : Nat)

/-- The integer square root, bit by bit. -/
def isqrtFrom (n : Nat) : Nat → Nat → Nat
  | 0, r => r
  | k + 1, r =>
    let r' := r + 1 <<< k
    isqrtFrom n k (if r' * r' ≤ n then r' else r)

/-- The square root of a fixed-point value. -/
def fxSqrt (x : Int) : Int := (isqrtFrom (x.toNat <<< fxBits) 310 0 : Nat)

/-- x^n. -/
def fxPow (x : Int) : Nat → Int
  | 0 => fxOne
  | n + 1 => fxMul x (fxPow x n)

/-- f applied n times. -/
def iter {α : Type} (f : α → α) : Nat → α → α
  | 0, x => x
  | n + 1, x => iter f n (f x)

/-- 2^(s/64). -/
def fxExp2 (s : Nat) : Int := fxPow (iter fxSqrt 6 (2 * fxOne)) s

/-- A sum of n terms, each got from the one before by `next k`; `weight` divides a term as it is added. -/
def fxSeries (next : Nat → Int → Int) (weight : Nat → Int) : Nat → Nat → Int → Int
  | 0, _, _ => 0
  | n + 1, k, term => term / weight k + fxSeries next weight n (k + 1) (next k term)

/-- ln((64 + s)/64), by 2·artanh(s/(128 + s)). -/
def fxLnSeg (s : Nat) : Int :=
  let z := fxOne * s / (128 + s : Nat)
  2 * fxSeries (fun _ t => fxMul (fxMul t z) z) (fun k => (2 * k + 1 : Nat)) 120 0 z

/-- sin and cos of an angle. -/
def fxSin (x : Int) : Int :=
  fxSeries (fun k t => -(fxMul (fxMul t x) x) / ((2 * k + 2) * (2 * k + 3) : Nat)) (fun _ => 1) 60 0 x
def fxCos (x : Int) : Int :=
  fxSeries (fun k t => -(fxMul (fxMul t x) x) / ((2 * k + 1) * (2 * k + 2) : Nat)) (fun _ => 1) 60 0 fxOne

/-- e^(−x²) and erf x. -/
def fxGauss (x : Int) : Int :=
  fxSeries (fun k t => -(fxMul (fxMul t x) x) / (k + 1 : Nat)) (fun _ => 1) 400 0 fxOne
def fxErf (x : Int) : Int :=
  fxMul fxTwoOverSqrtPi
    (fxSeries (fun k t => -(fxMul (fxMul t x) x) / (k + 1 : Nat)) (fun k => (2 * k + 1 : Nat)) 400 0 x)

/-- The Hermite polynomials H_n(x) (for the derivatives of erf). -/
def fxHermite (x : Int) : Nat → Int × Int
  | 0 => (fxOne, 0)
  | n + 1 =>
    let (h, h') := fxHermite x n
    (2 * fxMul x h - 2 * n * h', h)

/-- k!. -/
def fact : Nat → Nat
  | 0 => 1
  | n + 1 => (n + 1) * fact n

/-! ### Coefficients (R134) -/

/-- The functions of Table 6-1. -/
inductive SfuFn where
  | exp2 | log2 | rcp | rsqrt | sqrt | tanh | sigm | erf | sint | cost
  deriving DecidableEq, Repr

/-- A function code; none where it is reserved (R131). -/
def sfuFnOf : Nat → Option SfuFn
  | 1 => some .exp2
  | 2 => some .log2
  | 3 => some .rcp
  | 4 => some .rsqrt
  | 5 => some .sqrt
  | 6 => some .tanh
  | 7 => some .sigm
  | 8 => some .erf
  | 9 => some .sint
  | 10 => some .cost
  | _ => none

def sfuFnCode : SfuFn → Nat
  | .exp2 => 1
  | .log2 => 2
  | .rcp => 3
  | .rsqrt => 4
  | .sqrt => 5
  | .tanh => 6
  | .sigm => 7
  | .erf => 8
  | .sint => 9
  | .cost => 10

/-- The reduced functions that have coefficient tables. -/
inductive Poly where
  | exp2 | log2 | log2p | rcp | rsqrt | sqrt | sin | sinp | cos | erf | erfp | tanhp
  deriving DecidableEq, Repr

/-- Their degrees (Table 6-2). -/
def Poly.degree : Poly → Nat
  | .exp2 => 5
  | .log2 => 7
  | .log2p => 7
  | .rcp => 7
  | .rsqrt => 6
  | .sqrt => 6
  | .sin => 6
  | .sinp => 6
  | .cos => 6
  | .erf => 9
  | .erfp => 9
  | .tanhp => 6

/-- The alternating sign (−1)^k. -/
def altSign (k : Nat) : Int := if k % 2 = 0 then 1 else -1

/-- The Taylor coefficient c_k of a segment, in fixed point. -/
def Poly.taylor (p : Poly) (s k : Nat) : Int :=
  let m : Int := (64 + s : Nat)
  match p with
  | .exp2 => fxMul (fxExp2 s) (fxPow fxLn2 k) / fact k
  | .log2 =>
    if k = 0 then fxDiv (fxLnSeg s) fxLn2
    else altSign (k + 1) * (fxDiv fxOne fxLn2 * 64 ^ k / (k * m ^ k))
  | .log2p => altSign k * (fxDiv fxOne fxLn2 / (k + 1 : Nat))
  | .rcp => altSign k * (fxOne * 64 ^ (k + 1) / m ^ (k + 1))
  | .rsqrt =>
    let r := fxSqrt (fxOne * 64 / m)
    (List.range k).foldl (fun (c : Int) (i : Nat) => c * (-(1 + 2 * (i : Int))) * 64 / (2 * ((i : Int) + 1) * m)) r
  | .sqrt =>
    let r := fxSqrt (fxOne * m / 64)
    (List.range k).foldl (fun (c : Int) (i : Nat) => c * (1 - 2 * (i : Int)) * 64 / (2 * ((i : Int) + 1) * m)) r
  | .sin =>
    let x := fxTwoPi * s / 256
    let v := if k % 4 = 0 then fxSin x else if k % 4 = 1 then fxCos x else if k % 4 = 2 then -fxSin x else -fxCos x
    fxMul v (fxPow fxTwoPi k) / fact k
  | .cos =>
    let x := fxTwoPi * s / 256
    let v := if k % 4 = 0 then fxCos x else if k % 4 = 1 then -fxSin x else if k % 4 = 2 then -fxCos x else fxSin x
    fxMul v (fxPow fxTwoPi k) / fact k
  | .sinp => altSign k * (fxPow fxTwoPi (2 * k + 1) / fact (2 * k + 1))
  | .erf =>
    let x := fxOne * s / 16
    match k with
    | 0 => fxErf x
    | j + 1 => altSign j * (fxMul (fxMul fxTwoOverSqrtPi (fxGauss x)) (fxHermite x j).1 / fact (j + 1))
  | .erfp => altSign k * (fxTwoOverSqrtPi / (fact k * (2 * k + 1) : Nat))
  | .tanhp =>
    match k with
    | 0 => fxOne
    | 1 => -(fxOne / 3)
    | 2 => fxOne * 2 / 15
    | 3 => -(fxOne * 17 / 315)
    | 4 => fxOne * 62 / 2835
    | 5 => -(fxOne * 1382 / 155925)
    | _ => fxOne * 21844 / 6081075

/-- The coefficient C_k of a segment, in units of 2^−44. -/
def Poly.coef (p : Poly) (s k : Nat) : Int := toGrid (Poly.taylor p s k)

/-- One step of the evaluation: C[k] plus acc·d rounded to the grid. -/
def hornerStep (c d acc : Int) : Int := c + rneInt (acc * d) 44

/-- The polynomial of a segment at an offset d in units of 2^−44 (R134). -/
def Poly.eval (p : Poly) (s : Nat) (d : Int) : Int :=
  (List.range (Poly.degree p)).foldl (fun acc i =>
    let k := Poly.degree p - 1 - i
    hornerStep (Poly.coef p s k) d acc) (Poly.coef p s (Poly.degree p))

/-! ### Native evaluation -/

/-- m·2^e in units of 2^−g, rounded to nearest even. -/
def toUnits (m e : Int) (g : Int) : Int := rneInt m (-(e + g))

/-- An assembled value m·2^e rounded once (R135), with NX unless the case is exact (R136). -/
def roundNative (m e : Int) (exact : Bool) : Num × Flags :=
  if m = 0 then (.fin 0 0, if exact then 0 else fNX)
  else
    let grid := max (floorLog2 m e - 31) (-556)
    let q := rneInt m (grid - e)
    if q = 0 then (.fin 0 0, fUF ||| fNX)
    else if floorLog2 q grid ≥ 512 then (.ovf (m < 0), fOV ||| fNX)
    else (.fin q grid, if exact then 0 else fNX)

/-- The power-of-two reduction of |x| = m·2^e: n, m rounded to 2^−40 in those units, and m itself minus 1 as a pair
    (its significance kept), after the carry of R133. -/
def reduceBinade (a : Nat) (e : Int) : Int × Nat × (Int × Int) :=
  let n := floorLog2 a e
  let r := (toUnits a (e - n) 40).toNat
  if r = 2 ^ 41 then (n + 1, 2 ^ 40, addOne a (e - n - 1)) else (n, r, addOne a (e - n))
where
  addOne (a : Nat) (e : Int) : Int × Int :=
    if e < 0 then ((a : Int) - (1 <<< (-e).toNat : Nat), e) else ((a <<< e.toNat : Nat) - 1, 0)

/-- The 4^n reduction: n and m in [1, 4) in units of 2^−40, after the carry. -/
def reduceQuad (a : Nat) (e : Int) : Int × Nat :=
  let n := (floorLog2 a e).fdiv 2
  let r := (toUnits a (e - 2 * n) 40).toNat
  if r = 2 ^ 42 then (n + 1, 2 ^ 40) else (n, r)

/-- The segment and offset of an argument r in [1, 4) in units of 2^−40: width 1/64, offset in units of 2^−44. -/
def segOf (r : Nat) : Nat × Int := ((r - 2 ^ 40) / 2 ^ 34, ((r % 2 ^ 34 * 16 : Nat) : Int))

/-- EXP2 of xr·2^−40: n and g in units of 2^−44. -/
def exp2Core (xr : Int) : Int × Int :=
  let a := (xr.fmod (2 ^ 40)).toNat
  (xr.fdiv (2 ^ 40), Poly.eval .exp2 (a / 2 ^ 34) (a % 2 ^ 34 * 16 : Nat))

/-- RCP of a value v·2^−44 in [1, 2]: n and g in units of 2^−44, the value being 2^−n·g. -/
def rcpCore (v : Nat) : Int × Int :=
  let (n, r, _) := reduceBinade v (-44)
  let (s, d) := segOf r
  (n, Poly.eval .rcp s d)

/-- log2 e to 2^−44 (R134). -/
def log2eGrid : Int := toGrid (fxDiv fxOne fxLn2)

/-- e = 2^(−y) for y = c·|x|·log2 e ≥ 0, as n and g (R133, R134). -/
def expNeg (c : Nat) (a : Nat) (e : Int) : Int × Int :=
  let y := rneInt ((c * a : Nat) * log2eGrid) (-e)
  exp2Core (rneInt (-y) 4)

/-- n and g brought to the grid of 2^−44. -/
def onGrid (n g : Int) : Int := rneInt g (-n)

/-- The fraction of a turn f = x mod 1 = k/4 + u: the quadrant, u in units of 2^−42 and u itself (R133). -/
def reduceTurn (m e : Int) : Nat × Nat × (Int × Int) :=
  if e ≥ 0 then (0, 0, (0, 0))
  else
    let q : Int := (1 <<< (-e).toNat : Nat)
    let f := m.fmod q
    let k := (4 * f).fdiv q
    let r := (toUnits (4 * f - k * q) (e - 2) 42).toNat
    if r = 2 ^ 40 then (((k + 1) % 4).toNat, 0, (4 * f - (k + 1) * q, e - 2)) else (k.toNat, r, (4 * f - k * q, e - 2))

/-- S = sin 2πu and C = cos 2πu as integers times powers of two (R133). -/
def sinTurn (r : Nat) (u : Int × Int) : Int × Int :=
  let s := r / 2 ^ 34
  if s = 0 then
    let d := rneInt ((r * r : Nat) : Int) 40
    (u.1 * Poly.eval .sinp 0 d, u.2 - 44)
  else (Poly.eval .sin s (r % 2 ^ 34 * 4 : Nat), -44)
def cosTurn (r : Nat) : Int × Int := (Poly.eval .cos (r / 2 ^ 34) (r % 2 ^ 34 * 4 : Nat), -44)

/-- Whether m·2^e, m ≠ 0, is a power of two. -/
def isPow2 (m : Nat) : Bool := m == 1 <<< Nat.log2 m

/-- The native result for a finite value m·2^e ≠ 0 (R133–R137). Where the grid of 2^−44 is too coarse for the bound of R137 (LOG2
    just below 1, SINT just below a multiple of 1/2, COST just below an odd multiple of 1/4) the evaluation of R133 and R134 stands
    (DESIGN CHOICE, notes/assumptions/124). -/
def nativeFin (fn : SfuFn) (m e : Int) : Num × Flags :=
  let a := m.natAbs
  let neg := m < 0
  let sg (v : Int) : Int := if neg then -v else v
  let l := floorLog2 m e
  match fn with
  | .exp2 =>
    if l ≥ 10 then (if neg then (.fin 0 0, fUF ||| fNX) else (.ovf false, fOV ||| fNX))
    else
      let (n, g) := exp2Core (toUnits m e 40)
      roundNative g (n - 44) (e ≥ 0 ∨ m % (1 <<< (-e).toNat : Nat) = 0)
  | .log2 =>
    if neg then (.fin 0 0, fDM)
    else
      let (n, r, u) := reduceBinade a e
      let (s, d) := segOf r
      if s = 0 then
        let p := u.1 * Poly.eval .log2p 0 d
        let k := u.2 - 44
        roundNative (n * (1 <<< (-k).toNat : Nat) + p) k (isPow2 a)
      else roundNative (n * 2 ^ 44 + Poly.eval .log2 s d) (-44) false
  | .rcp =>
    let (n, r, _) := reduceBinade a e
    let (s, d) := segOf r
    roundNative (sg (Poly.eval .rcp s d)) (-n - 44) (isPow2 a)
  | .rsqrt =>
    if neg then (.fin 0 0, fDM)
    else
      let (n, r) := reduceQuad a e
      let (s, d) := segOf r
      roundNative (Poly.eval .rsqrt s d) (-n - 44) (isPow2 a && l % 2 == 0)
  | .sqrt =>
    if neg then (.fin 0 0, fDM)
    else
      let (n, r) := reduceQuad a e
      let (s, d) := segOf r
      roundNative (Poly.eval .sqrt s d) (n - 44) (isPow2 a && l % 2 == 0)
  | .tanh =>
    if l < -3 then
      let d := if l < -40 then 0 else toUnits (m * m) (2 * e) 44
      roundNative (m * Poly.eval .tanhp 0 d) (e - 44) false
    else if l ≥ 4 then roundNative (sg 1) 0 false
    else
      let (n, g) := expNeg 2 a e
      let x := onGrid n g
      let (k, r) := rcpCore (2 ^ 44 + x).toNat
      roundNative (sg (rneInt ((2 ^ 44 - x) * r) 44)) (-k - 44) false
  | .sigm =>
    if l ≥ 10 then (if neg then (.fin 0 0, fUF ||| fNX) else roundNative 1 0 false)
    else
      let (n, g) := if l < -60 then (0, 2 ^ 44) else expNeg 1 a e
      let (k, r) := rcpCore (2 ^ 44 + onGrid n g).toNat
      if neg then roundNative (rneInt (g * r) 44) (n - k - 44) false else roundNative r (-k - 44) false
  | .erf =>
    let r := if l ≥ 3 then 6 * 2 ^ 40 else (toUnits a e 40).toNat
    if r ≥ 6 * 2 ^ 40 then roundNative (sg 1) 0 false
    else
      let s := r / 2 ^ 36
      if s = 0 then roundNative (m * Poly.eval .erfp 0 (rneInt ((r * r : Nat) : Int) 36)) (e - 44) false
      else roundNative (sg (Poly.eval .erf s (r % 2 ^ 36 * 16 : Nat))) (-44) false
  | .sint =>
    let (k, r, u) := reduceTurn m e
    let exact := u.1 == 0
    let (v, x) := if k % 2 = 0 then sinTurn r u else cosTurn r
    roundNative (if k < 2 then v else -v) x exact
  | .cost =>
    let (k, r, u) := reduceTurn m e
    let exact := u.1 == 0
    let (v, x) := if k % 2 = 0 then cosTurn r else sinTurn r u
    roundNative (if k = 0 ∨ k = 3 then v else -v) x exact

/-- The value 1 and the like. -/
def numPow (neg : Bool) (e : Int) : Num := .fin (if neg then -1 else 1) e

/-- Native evaluation with the edges of R138 and Table 6-4.
    DEDUCED: notes/assumptions/35. -/
def sfuNative (fn : SfuFn) (x : Num) : Num × Flags :=
  match x with
  | .poison => (.poison, fPZ)
  | .ovf neg =>
    match fn with
    | .exp2 => (if neg then .fin 0 0 else .ovf false, fOV)
    | .log2 => if neg then (.fin 0 0, fDM ||| fOV) else (.ovf false, fOV)
    | .rcp => (.fin 0 0, fOV)
    | .rsqrt => (.fin 0 0, if neg then fDM ||| fOV else fOV)
    | .sqrt => if neg then (.fin 0 0, fDM ||| fOV) else (.ovf false, fOV)
    | .tanh => (numPow neg 0, fOV)
    | .sigm => (if neg then .fin 0 0 else numPow false 0, fOV)
    | .erf => (numPow neg 0, fOV)
    | .sint => (.fin 0 0, fDM ||| fOV)
    | .cost => (.fin 0 0, fDM ||| fOV)
  | .fin m e =>
    if m = 0 then
      match fn with
      | .exp2 => (numPow false 0, 0)
      | .log2 => (.ovf true, fDZ)
      | .rcp => (.ovf false, fDZ)
      | .rsqrt => (.ovf false, fDZ)
      | .sigm => (numPow false (-1), 0)
      | .cost => (numPow false 0, 0)
      | _ => (.fin 0 0, 0)
    else nativeFin fn m e

/-! ### Velhal mode (R143–R145) -/

/-- A value truncated toward zero to 24 significant bits. -/
def trunc24 (m e : Int) : Int × Int :=
  let b := Nat.log2 m.natAbs
  if b < 24 then (m, e) else (withSign (m < 0) (m.natAbs >>> (b - 23)), e + (b - 23 : Nat))

/-- The largest Velhal magnitude (2^24 − 1)·2^104. -/
def velMax (neg : Bool) : Int × Int := (if neg then -(2 ^ 24 - 1) else 2 ^ 24 - 1, 104)

/-- A value narrowed as steps 1 and 4 of R143 narrow it. A value of exactly zero raises no UF, which is the flag of an underflow
    flushed to zero (DESIGN CHOICE, notes/assumptions/125). -/
def velOut (m e : Int) : (Int × Int) × Flags :=
  if m = 0 then ((0, 0), 0)
  else if floorLog2 m e ≥ 128 then (velMax (m < 0), fOV)
  else if floorLog2 m e < -126 then ((0, 0), fUF)
  else (trunc24 m e, 0)

/-- The samples of g at j/64 of the native segment grid, in units of 2^−26, nearest with ties away (R143). -/
def velSample (p : Poly) (j : Nat) : Int := (2 * Poly.taylor p j 0 + 1 <<< (fxBits - 26)) >>> (fxBits - 25)

/-- Interpolation on one of 32 segments whose samples lie at j0, j0 + h and j0 + 2h: g(a) in units of 2^−26. -/
def velInterp (p : Poly) (j0 h : Nat) (r : Nat) : Int :=
  let u : Int := 2 * r - 2 ^ 19
  let u2 := (u * u).tdiv (2 ^ 19)
  let ya := velSample p j0
  let ym := velSample p (j0 + h)
  let yb := velSample p (j0 + 2 * h)
  (2 * ym * 2 ^ 19 + u * (yb - ya) + u2 * (ya + yb - 2 * ym)).tdiv (2 ^ 20)

/-- Velhal EXP2 (Table 6-6, R143). -/
def velExp2 (m e : Int) : (Int × Int) × Flags :=
  if m = 0 then ((1, 0), 0)
  else if m > 0 ∧ floorLog2 m e ≥ 7 then (velMax false, fOV)
  else if m < 0 ∧ (floorLog2 m e ≥ 7 ∨ m * (1 <<< e.toNat : Nat) < -126 * (1 <<< (-e).toNat : Nat)) then ((0, 0), fUF)
  else
    let x := if e + 24 ≥ 0 then m * (1 <<< (e + 24).toNat : Nat) else m >>> (-(e + 24)).toNat
    let a := (x.fmod (2 ^ 24)).toNat
    let g := velInterp .exp2 (2 * (a / 2 ^ 19)) 1 (a % 2 ^ 19)
    velOut g (x.fdiv (2 ^ 24) - 26)

/-- n and m − 1 in units of 2^−24 for |x| of at most 24 significant bits. -/
def velBinade (a : Nat) (e : Int) : Int × Nat :=
  let n := floorLog2 a e
  (n, (toUnits a (e - n) 24).toNat - 2 ^ 24)

/-- Velhal LOG2 of a positive value. Near 1 the samples of R143 are too coarse for the bound of R145; the pseudocode stands (DESIGN
    CHOICE, notes/assumptions/126). -/
def velLog2 (a : Nat) (e : Int) : (Int × Int) × Flags :=
  let (n, f) := velBinade a e
  velOut (n * 2 ^ 26 + velInterp .log2 (2 * (f / 2 ^ 19)) 1 (f % 2 ^ 19)) (-26)

/-- Velhal RCP. -/
def velRcp (m e : Int) : (Int × Int) × Flags :=
  if m = 0 then (velMax false, fDZ)
  else
    let (n, f) := velBinade m.natAbs e
    let g := velInterp .rcp (2 * (f / 2 ^ 19)) 1 (f % 2 ^ 19)
    velOut (if m < 0 then -g else g) (-n - 26)

/-- Velhal RSQRT of a positive value. -/
def velRsqrt (a : Nat) (e : Int) : (Int × Int) × Flags :=
  let n := (floorLog2 a e).fdiv 2
  let r := (toUnits a (e - 2 * n) 24).toNat
  let g := if r < 2 ^ 25 then
      let f := r - 2 ^ 24
      velInterp .rsqrt (2 * (f / 2 ^ 19)) 1 (f % 2 ^ 19)
    else
      let f := r - 2 ^ 25
      velInterp .rsqrt (64 + 4 * (f / 2 ^ 20)) 2 (f % 2 ^ 20 / 2)
  velOut g (-n - 26)

/-- |x|·log2 e with the constant 0xB8AA3B·2^−23, truncated. -/
def velLog2e (a : Nat) (e : Int) : Int × Int := trunc24 ((a * 0xB8AA3B : Nat) : Int) (e - 23)

/-- 1 ± v, truncated. -/
def velOnePlus (v : Int × Int) (neg : Bool) : Int × Int :=
  let k := min v.2 0
  let one : Int := (1 <<< (-k).toNat : Nat)
  let w := v.1 * (1 <<< (v.2 - k).toNat : Nat)
  trunc24 (if neg then one - w else one + w) k

/-- An inner evaluation of a composition: step 1 of R143 on its argument, then the function. -/
def velInner (g : Int → Int → (Int × Int) × Flags) (a : Int × Int) : (Int × Int) × Flags :=
  let ((m, e), f1) := velOut a.1 a.2
  let (r, f2) := g m e
  (r, f1 ||| f2)

/-- Velhal SIGM and TANH (R143): every inner EXP2 and RCP is the whole Velhal evaluation, its step 1 included. TANH of a small
    argument follows the composition, which the bound of R145 would not allow (DESIGN CHOICE, notes/assumptions/126).
    DEDUCED: notes/assumptions/36. -/
def velSigm (m e : Int) : (Int × Int) × Flags :=
  let (ym, ye) := velLog2e m.natAbs e
  let (x, f1) := velInner velExp2 (if m < 0 then ym else -ym, ye)
  let (r, f2) := velInner velRcp (velOnePlus x false)
  (r, f1 ||| f2)
def velTanh (m e : Int) : (Int × Int) × Flags :=
  let (ym, ye) := velLog2e m.natAbs (e + 1)
  let (x, f1) := velInner velExp2 (-ym, ye)
  let (r, f2) := velInner velRcp (velOnePlus x false)
  let (dm, de) := velOnePlus x true
  let (p, f3) := velOut (dm * r.1) (de + r.2)
  ((if m < 0 then -p.1 else p.1, p.2), f1 ||| f2 ||| f3)

/-- Step 1 of R143: the value saturated, flushed or truncated. -/
def velIn (x : Num) : (Int × Int) × Flags :=
  match x with
  | .poison => ((0, 0), fPZ)
  | .ovf neg => (velMax neg, fOV)
  | .fin m e => velOut m e

/-- Velhal evaluation with Table 6-6. -/
def sfuVelhal (fn : SfuFn) (x : Num) : Num × Flags :=
  if x = .poison then (.poison, fPZ)
  else
    let ((m, e), f1) := velIn x
    let out (r : (Int × Int) × Flags) (f : Flags) : Num × Flags := (.fin r.1.1 r.1.2, f1 ||| r.2 ||| f)
    match fn with
    | .exp2 => out (velExp2 m e) 0
    | .log2 =>
      if m = 0 then out ((-128, 0), fDZ) 0
      else out (velLog2 m.natAbs e) (if m < 0 then fDM else 0)
    | .rcp => out (velRcp m e) 0
    | .rsqrt =>
      if m = 0 then out (velMax false, fDZ) 0
      else out (velRsqrt m.natAbs e) (if m < 0 then fDM else 0)
    | .tanh =>
      if m = 0 then out ((0, 0), 0) 0
      else if floorLog2 m e ≥ 4 ∨ (floorLog2 m e = 3 ∧ toUnits m.natAbs e 21 ≥ 9 * 2 ^ 21) then
        out ((if m < 0 then -(2 ^ 24 - 1) else 2 ^ 24 - 1, -24), 0) 0
      else out (velTanh m e) 0
    | .sigm => if m = 0 then out ((1, -1), 0) 0 else out (velSigm m e) 0
    | _ => (.fin 0 0, f1 ||| fDM)

/-- Whether Velhal lacks a function (Table 6-6). -/
def velLacks : SfuFn → Bool
  | .sqrt => true
  | .erf => true
  | .sint => true
  | .cost => true
  | _ => false

/-- An SFU result and its flags (R132); the result is canonical. -/
def sfuEval (velhal : Bool) (fn : SfuFn) (x : Num) : Num × Flags :=
  let (v, f) := if velhal then sfuVelhal fn x else sfuNative fn x
  (canonW48 v, f)

end Sys2Proof.Machine
end

