-- ==== Sys2Proof/Machine/Chain.lean ====
section
/-! DEFINITION. The vector chain (chapter 5): configurations, stages, row statistics, row state and output. -/

namespace Sys2Proof.Machine

def vchFlagsCa (t : Tile) : Nat := tileCa t 0x03 0x08
def vchCfgCa (t : Tile) (c : CtxNo) (g : Fin 16) (w : Nat) : Nat := tileCa t 0x03 (0x1000 + 0x800 * c.val + 0x80 * g.val + 8 * w)
def vchVecCa (t : Tile) (c : CtxNo) (v l : Nat) : Nat := tileCa t 0x03 (0x4000 + 0x1000 * c.val + 0x800 * v + 8 * l)
def rowStateCa (t : Tile) (g w : Nat) : Nat := tileCa t 0x03 (0x8000 + 0x20 * g + 8 * w)
def lcCa (t : Tile) (c : CtxNo) (n : Nat) : Nat := tileCa t 0x01 (0x100 + 0x40 * c.val + 8 * n)

/-! ### Configurations (Tables 5-1 to 5-3) -/

/-- A stage word decoded. -/
structure Stage where
  op    : Nat
  tgt   : Nat
  selb  : Nat
  selc  : Nat
  emit  : Bool
  param : Nat
  deriving DecidableEq, Repr

def stageOf (w : Word) : Stage := ⟨bits w 63 59, bits w 58 57, bits w 56 53, bits w 52 49, w.getLsbD 48, bits w 47 32⟩

/-- Header fields. -/
def cfgNstage (h : Word) : Nat := bits h 63 60
def cfgSideq (h : Word) : Nat := bits h 59 58
def cfgSidekind (h : Word) : Nat := bits h 57 55
def cfgPreload (h : Word) : Nat := bits h 53 52

/-- The stages an invocation runs. -/
def cfgStages (ws : List Word) : List Stage :=
  ((ws.drop 1).take (cfgNstage (ws.getD 0 0))).map stageOf

/-- Whether an OP's result names B, and C (R115, Table 5-6). -/
def usesB (op : Nat) : Bool := [0x01, 0x02, 0x03, 0x04, 0x05, 0x06, 0x07, 0x08, 0x09, 0x0A, 0x0C, 0x12].contains op
def usesC (op : Nat) : Bool := [0x05, 0x06, 0x07, 0x0A].contains op

/-- The selectors a stage chooses. -/
def Stage.chosen (s : Stage) : List Nat := (if usesB s.op then [s.selb] else []) ++ (if usesC s.op then [s.selc] else [])

/-- Whether a TGT is allowed for an OP (Table 5-6). -/
def tgtAllowed (op tgt : Nat) : Bool :=
  if op = 0x00 ∨ op = 0x12 ∨ op = 0x13 then tgt == 0
  else if op = 0x0F ∨ op = 0x10 ∨ op = 0x11 then tgt != 0
  else true

/-- Stages in order: no stage chooses P0 or P1 before an earlier one has written it. -/
def regsWritten : Bool → Bool → List Stage → Bool
  | _, _, [] => true
  | p0, p1, s :: ss =>
    (p0 || !(Stage.chosen s).contains 0xC) && (p1 || !(Stage.chosen s).contains 0xD) &&
    regsWritten (p0 || s.tgt == 1) (p1 || s.tgt == 2) ss

/-- Whether a PARAM is a code of its OP (R110, Table 5-6). -/
def paramOk (op param : Nat) : Bool :=
  if op = 0x0D ∨ op = 0x10 ∨ op = 0x11 ∨ op = 0x13 then true
  else if op = 0x0E then (sfuFnOf (param / 256)).isSome && param % 256 == 0
  else if op = 0x12 then decide (param < 3)
  else param == 0

/-- The checks of R115, and that no PARAM is reserved. -/
def cfgOk (ws : List Word) : Bool :=
  let h := ws.getD 0 0
  let o := ws.getD 9 0
  let ss := cfgStages ws
  let side := cfgSidekind h != 0 || h.getLsbD 54 || cfgPreload h != 0
  let sl := decide (1 ≤ cfgSidekind h ∧ cfgSidekind h ≤ 4)
  let sc := decide (cfgSidekind h = 5 ∨ cfgSidekind h = 6)
  ((cfgSideq h != 0) == side) &&
  ss.all (fun s => (sl || !(Stage.chosen s).contains 0x7) && (sc || !((Stage.chosen s).contains 0x8 || (Stage.chosen s).contains 0x9))
    && tgtAllowed s.op s.tgt && (!s.emit || s.op == 0x10 || s.op == 0x11) && paramOk s.op s.param && decide (s.op ≤ 0x13)) &&
  regsWritten false false ss &&
  (!o.getLsbD 60 || decide (1 ≤ bits o 63 61 ∧ bits o 63 61 ≤ 3))

/-- Whether the word that a write leaves in a stage word holds a PARAM reserved for its OP (R110). An OP that is itself reserved
    leaves the old one. -/
def stageClash (fs : List RegField) (old v : Word) : Bool :=
  let st := stageOf (storeFields fs old v)
  !paramOk st.op st.param

/-- A write to a configuration word or lane vector (R110): while the context is EMPTY or STOPPED. A PARAM reserved for the OP leaves
    the whole word; a reserved OP, TGT or selector alone leaves its field (R7).
    DEDUCED: notes/assumptions/34. -/
def State.vchCfgWrite (s : State) (t : Tile) (c : CtxNo) (ca : Nat) (g : RegGroup) (word : Nat) (v : Word) : State :=
  let clash := decide (1 ≤ word ∧ word ≤ 8) && stageClash g.fields (s.reg ca) v
  if !Ctx.idle (s.ctx t c) || clash then s.configError ca else s.plainWrite ca g v

/-! ### Values (R109, R117) -/

/-- The sign of a value; zero counts as positive (R117). -/
def Num.isNeg : Num → Bool
  | .poison => false
  | .ovf n => n
  | .fin m _ => decide (m < 0)

/-- a < b for values that are not poison (R117). -/
def numLt (a b : Num) : Bool :=
  match a, b with
  | .ovf n, .ovf n' => n && !n'
  | .ovf n, _ => n
  | _, .ovf n' => !n'
  | .fin m e, .fin m' e' => decide ((addFin m e (-m') e').1 < 0)
  | _, _ => false

/-- The larger and the smaller of x and b; equal values yield x (R117). -/
def numMax (x b : Num) : Num := if numLt x b then b else x
def numMin (x b : Num) : Num := if numLt b x then b else x

/-- A copied value and its flags (Table 5-7). -/
def copied (v : Num) : Num × Flags :=
  match v with
  | .poison => (.poison, fPZ)
  | .ovf n => (.ovf n, fOV)
  | v => (v, 0)

/-- An exact sum rounded, and an exact product. -/
def sumRounded (m e m' e' : Int) : Num × Flags :=
  let (a, b) := addFin m e m' e'
  roundW48 a b

/-- x + y. -/
def numAdd (x y : Num) : Num × Flags :=
  match x, y with
  | .poison, _ => (.poison, fPZ)
  | _, .poison => (.poison, fPZ)
  | .ovf n, _ => (.ovf n, fOV)
  | _, .ovf n => (.ovf n, fOV)
  | .fin m e, .fin m' e' => sumRounded m e m' e'

/-- −x. -/
def numNeg : Num → Num
  | .poison => .poison
  | .ovf n => .ovf (!n)
  | .fin m e => .fin (-m) e

/-- x × y before rounding. -/
def numMulExact (x y : Num) : Num :=
  match x, y with
  | .poison, _ => .poison
  | _, .poison => .poison
  | .fin m e, .fin m' e' => .fin (m * m') (e + e')
  | x, y => .ovf (Num.isNeg x != Num.isNeg y)

/-- An exact value rounded to W48. -/
def numRound : Num → Num × Flags
  | .fin m e => roundW48 m e
  | v => copied v

/-- The result of an OP of Table 5-6 other than the reductions and REF, on x and its operands. -/
def stageOp (velhal : Bool) (st : Stage) (x b c : Num) : Num × Flags :=
  match st.op with
  | 0x01 => copied b
  | 0x02 => numAdd x b
  | 0x03 => numAdd x (numNeg b)
  | 0x04 => numRound (numMulExact x b)
  | 0x05 => numRound (numMulExact b c)
  | 0x06 => numAdd (numMulExact x b) c
  | 0x07 => numAdd x (numNeg (numMulExact b c))
  | 0x08 => if x = .poison ∨ b = .poison then (.poison, fPZ) else copied (numMax x b)
  | 0x09 => if x = .poison ∨ b = .poison then (.poison, fPZ) else copied (numMin x b)
  | 0x0A => if x = .poison ∨ b = .poison ∨ c = .poison then (.poison, fPZ) else copied (numMin (numMax x b) c)
  | 0x0B => copied (if Num.isNeg x then numNeg x else x)
  | 0x0C => if Num.isNeg x then numRound (numMulExact x b) else copied x
  | 0x0D =>
    match x with
    | .fin m e => roundW48 m (e + signed 16 st.param)
    | v => copied v
  | 0x0E =>
    match sfuFnOf (st.param / 256) with
    | some fn => sfuEval velhal fn x
    | none => copied x
  | _ => copied x

/-! ### One row -/

/-- A row on its way through the stages: lane values and row flags, flags of RSUM and RSSQ contributions, row registers,
    row-level flags and emitted records (R111, R118, R124). -/
structure RowState where
  x    : List Num
  fl   : List Flags
  cf   : List Flags
  p0   : Num := .fin 0 0
  p1   : Num := .fin 0 0
  rl   : Flags := 0
  recs : List S96 := []
  deriving DecidableEq, Repr

/-- What a row brings: its global row, whether that lies within bounds, constants, vectors, side values, the lanes as
    read, the unmasked lanes and the mode (Table 5-4). -/
structure RowEnv where
  g      : Nat
  inB    : Bool
  k      : List Num
  v0     : List Num
  v1     : List Num
  sl     : List Num
  s0     : Num
  s1     : Num
  x0     : List Num
  u      : List Bool
  velhal : Bool
  deriving DecidableEq, Repr

/-- A lane of a list of values. -/
def laneAt (l : List Num) (i : Nat) : Num := l.getD i (.fin 0 0)

/-- The reference M and the SUM of a row-state entry as selectors deliver them (Table 5-4, R123). -/
def State.rowM (s : State) (t : Tile) (e : RowEnv) : Num :=
  if !e.inB then .poison
  else if s.bit (rowStateCa t e.g 1) 0 then w48Value (s.reg (rowStateCa t e.g 0)) else .fin 0 0
def State.rowSum (s : State) (t : Tile) (g : Nat) : S96 := s96OfWords (s.reg (rowStateCa t g 2)) (s.reg (rowStateCa t g 3))
def State.rowS (s : State) (t : Tile) (e : RowEnv) : Num :=
  if !e.inB then .poison else s96ToW48 (s.rowSum t e.g)

/-- An operand of a lane by its selector (Table 5-4). -/
def State.operand (s : State) (t : Tile) (e : RowEnv) (r : RowState) (sel lane : Nat) : Num :=
  match sel with
  | 0x0 => .fin 0 0
  | 0x1 => laneAt e.k 0
  | 0x2 => laneAt e.k 1
  | 0x3 => laneAt e.k 2
  | 0x4 => laneAt e.k 3
  | 0x5 => laneAt e.v0 lane
  | 0x6 => laneAt e.v1 lane
  | 0x7 => laneAt e.sl lane
  | 0x8 => e.s0
  | 0x9 => e.s1
  | 0xA => s.rowM t e
  | 0xB => s.rowS t e
  | 0xC => r.p0
  | 0xD => r.p1
  | 0xE => laneAt e.x0 lane
  | _ => .fin 0 0

/-- Flag sets ORed lane by lane, where a lane is unmasked. -/
def orLanes (u : List Bool) (a b : List Flags) : List Flags :=
  (List.range a.length).map fun i => a.getD i 0 ||| (if u.getD i false then b.getD i 0 else 0)

/-- A row register written. -/
def RowState.setP (r : RowState) (tgt : Nat) (v : Num) : RowState := if tgt = 1 then { r with p0 := v } else { r with p1 := v }

/-- The largest unmasked lane value (R118): the value and the flags. -/
def rowMax (vs : List (Num × Bool)) : Num × Flags :=
  let on := vs.filterMap fun p => if p.2 then some p.1 else none
  if on.contains .poison then (.poison, fPZ)
  else match on with
    | [] => (.fin 0 0, 0)
    | v :: rest => (rest.foldl numMax v, 0)

/-- The record added into a row's SUM (R122): the SUM after, the row-level flags, and whether anchors met. The OV or PZ raised for
    SUM is a row-level flag alone (R124): SUM.FLAGS takes the flags of SUM and of the record. -/
def raccSum (sum rec : S96) : S96 × Flags × Bool :=
  let mix := decide (sum.n ≠ 0 ∧ sum.q ≠ rec.q)
  if sum.n = s96Poison ∨ rec.n = s96Poison then
    (⟨s96Poison, rec.q, sum.flags ||| rec.flags⟩, fPZ, mix)
  else
    let n := sum.n + rec.n
    let top : Int := 2 ^ 95 - 1
    if n > top then (⟨top, rec.q, sum.flags ||| rec.flags⟩, fOV, mix)
    else if n < -top then (⟨-top, rec.q, sum.flags ||| rec.flags⟩, fOV, mix)
    else (⟨n, rec.q, sum.flags ||| rec.flags⟩, 0, mix)

/-- A SUM stored in a row-state entry. -/
def State.setRowSum (s : State) (t : Tile) (g : Nat) (r : S96) : State :=
  let (lo, hi) := s96Words r
  (s.setReg (rowStateCa t g 2) lo).setReg (rowStateCa t g 3) hi

/-- A reference stored, valid. -/
def State.setRowM (s : State) (t : Tile) (g : Nat) (v : Num) : State :=
  (s.setReg (rowStateCa t g 0) (w48Word (canonW48 v) 0)).setReg (rowStateCa t g 1) 1

/-- REF on a row (R121): the row-level flags and the state after. -/
def State.refStage (s : State) (t : Tile) (e : RowEnv) (mode : Nat) (b : Num) : Flags × State :=
  let any := e.u.any id
  let valid := s.bit (rowStateCa t e.g 1) 0
  if !e.inB then (0, s)
  else match mode with
    | 0 => (0, if !valid && any then s.setRowM t e.g b else s)
    | 1 =>
      if !any then (0, s)
      else
        let m := s.rowM t e
        if b = .poison ∨ (valid = true ∧ m = .poison) then (fPZ, s.setRowM t e.g .poison)
        else if valid then
          let (v, f) := copied (numMax m b)
          (f, s.setRowM t e.g v)
        else (0, s.setRowM t e.g b)
    | _ =>
      let s := s.setRowSum t e.g ⟨0, 0, 0⟩
      (0, if any then s.setRowM t e.g b else s.setReg (rowStateCa t e.g 1) 0)

/-- An SFU stage's parity errors, applied to a result (R141). -/
def parityHit (errs : List ParityErr) (stage lane : Nat) : Bool := errs.any fun p => p.stage == stage && p.lane.val == lane

/-- One stage of a row (R116–R123). REF, whose TGT is 0b00, takes the value of lane 0 where SELB names a per-lane value: R111 gives
    lane 0 to row registers alone (DESIGN CHOICE, notes/assumptions/122). -/
def State.chainStage (s : State) (t : Tile) (e : RowEnv) (errs : List ParityErr) (n : Nat) (st : Stage) (r : RowState) :
    RowState × State :=
  let q := signed 16 st.param
  match st.op with
  | 0x0F =>
    let (v, f) := rowMax (r.x.zip e.u)
    ({ RowState.setP r st.tgt v with rl := r.rl ||| f }, s)
  | 0x10 =>
    let (rec, fs) := s96Record q (r.x.zip e.u)
    ({ RowState.setP r st.tgt (s96ToW48 rec) with
        cf := orLanes e.u r.cf fs, rl := r.rl ||| orFlags fs, recs := if st.emit then r.recs ++ [rec] else r.recs }, s)
  | 0x11 =>
    let (rec, fs) := s96Record q ((r.x.map sqNum).zip e.u)
    ({ RowState.setP r st.tgt (s96ToW48 rec) with
        cf := orLanes e.u r.cf fs, rl := r.rl ||| orFlags fs, recs := if st.emit then r.recs ++ [rec] else r.recs }, s)
  | 0x12 =>
    let (f, s) := s.refStage t e (st.param % 4) (s.operand t e r st.selb 0)
    ({ r with rl := r.rl ||| f }, s)
  | 0x13 =>
    let (rec, fs) := s96Record q (r.x.zip e.u)
    let r := { r with fl := orLanes e.u r.fl fs }
    if !e.inB then (r, s)
    else
      let (sum, f, mix) := raccSum (s.rowSum t e.g) rec
      let s := s.setRowSum t e.g sum
      ({ r with rl := r.rl ||| f }, if mix then s.raise (vchFlagsCa t) 10 else s)
  | op =>
    let one (x : Num) (lane : Nat) : Num × Flags :=
      if op = 0x0E ∧ parityHit errs n lane then (.poison, fPZ)
      else stageOp e.velhal st x (s.operand t e r st.selb lane) (s.operand t e r st.selc lane)
    if st.tgt = 0 then
      let res := (List.range 256).map fun l => one (laneAt r.x l) l
      ({ r with x := res.map (·.1), fl := orLanes e.u r.fl (res.map (·.2)) }, s)
    else
      let (v, f) := one (if st.tgt = 1 then r.p0 else r.p1) 0
      ({ RowState.setP r st.tgt v with rl := r.rl ||| f }, s)

/-- The stages of a row in order. -/
def State.chainStages (s : State) (t : Tile) (e : RowEnv) (errs : List ParityErr) : Nat → List Stage → RowState → RowState × State
  | _, [], r => (r, s)
  | n, st :: ss, r =>
    let (r, s) := s.chainStage t e errs n st r
    State.chainStages s t e errs (n + 1) ss r

/-! ### Output (R125–R127) -/

/-- The block format of an OKIND. -/
def okindFmt : Nat → Option Fmt
  | 1 => some .bs4
  | 2 => some .bs8
  | 3 => some .bs16
  | _ => none

/-- The dither of a row's lanes (R127). -/
def rowDither (v : Invocation) (o : Word) (i : Nat) : List Nat :=
  let base := bits o 31 0 + if o.getLsbD 58 then 2 ^ 17 * v.lcIdx else 0
  (List.range 256).map fun l => dither v.seed v.step (bits o 47 32) ((base + 256 * i + l) % 2 ^ 40)

/-- A row's data entry and the row flags with those of its requantisation. -/
def rowData (v : Invocation) (o : Word) (i : Nat) (u : List Bool) (r : RowState) : List (List Byte) × List Flags :=
  match okindFmt (bits o 63 61) with
  | some f =>
    let ds := rowDither v o i
    let bs := (List.range 8).map fun b =>
      requantBlock f (o.getLsbD 60) ((ds.drop (32 * b)).take 32)
        (((r.x.drop (32 * b)).take 32).zip ((u.drop (32 * b)).take 32))
    ([(bs.map fun p => packMantissas f (p.2.map (·.1))).flatten ++ bs.map fun p => BitVec.ofNat 8 p.1],
     orLanes u r.fl (bs.map fun p => p.2.map (·.2)).flatten)
  | none =>
    if bits o 63 61 = 4 then
      ([((List.range 256).map fun l =>
          toBytes 8 (if u.getD l false then (w48Word (canonW48 (laneAt r.x l)) (r.fl.getD l 0)).toNat else 0)).flatten], r.fl)
    else ([], r.fl)

/-- The bytes of a record (Table 5-8). -/
def s96Bytes (r : S96) : List Byte :=
  let (lo, hi) := s96Words r
  toBytes 8 lo.toNat ++ toBytes 8 hi.toNat

/-- The flag word of a row (R125). -/
def flagWord (fl : List Flags) (rl : Flags) : List Byte := toBytes 8 ((orFlags fl).toNat % 64 + (rl.toNat % 64) * 256)

/-- The entries of a masked row (R114). -/
def maskedEntries (o : Word) (ss : List Stage) : List (List Byte) :=
  (match okindFmt (bits o 63 61) with
   | some f => [List.replicate (rowBytes f 8) (0 : Byte)]
   | none => if bits o 63 61 = 4 then [List.replicate 2048 (0 : Byte)] else []) ++
  (ss.filter (·.emit)).map (fun st => s96Bytes ⟨0, signed 16 st.param, 0⟩) ++
  (if o.getLsbD 59 then [List.replicate 8 0] else [])

/-! ### Side entries (R112, Table 5-5) -/

/-- Bytes of a side entry. -/
def sideSize : Nat → Nat
  | 1 => 136
  | 2 => 264
  | 3 => 520
  | 4 => 2048
  | 5 => 16
  | 6 => 32
  | 7 => 32
  | _ => 0

/-- The words of some bytes. -/
def wordsIn (n : Nat) (bs : List Byte) : List Word := (chunks 8 n bs).map fun b => BitVec.ofNat 64 (ofBytes b)

/-- The lane values of a block row. -/
def blockLanes (f : Fmt) (bs : List Byte) : List Num :=
  (List.range 8).flatMap fun b =>
    (mantissas f ((bs.drop (b * blockBytes f)).take (blockBytes f))).map
      (elemValue f (bs.getD (8 * blockBytes f + b) 0).toNat)

/-- What a side entry gives: SL, S0, S1 and the lane mask. -/
def sideValues (kind : Nat) (bs : List Byte) : List Num × Num × Num × Option (List Byte) :=
  match kind with
  | 1 => (blockLanes .bs4 bs, .fin 0 0, .fin 0 0, none)
  | 2 => (blockLanes .bs8 bs, .fin 0 0, .fin 0 0, none)
  | 3 => (blockLanes .bs16 bs, .fin 0 0, .fin 0 0, none)
  | 4 => ((wordsIn 256 bs).map w48Value, .fin 0 0, .fin 0 0, none)
  | 5 =>
    let ws := wordsIn 2 bs
    ([], w48Value (ws.getD 0 0), w48Value (ws.getD 1 0), none)
  | 6 =>
    let ws := wordsIn 4 bs
    ([], s96ToW48 (s96OfWords (ws.getD 0 0) (ws.getD 1 0)), s96ToW48 (s96OfWords (ws.getD 2 0) (ws.getD 3 0)), none)
  | 7 => ([], .fin 0 0, .fin 0 0, some bs)
  | _ => ([], .fin 0 0, .fin 0 0, none)

/-- The engine of the side queue: 0 stream-in A, 1 stream-in B. -/
def sideEngine (h : Word) : Fin 3 := if cfgSideq h = 2 then 1 else 0

/-! ### Invocations (R107, R130) -/

/-- Preload entries a header asks for. -/
def preloads (h : Word) : Nat := match cfgPreload h with
  | 0 => 0
  | 3 => 2
  | _ => 1

/-- An invocation as it starts: configuration copied, and the values of R127 and R142 read.
    DEDUCED: notes/assumptions/32. -/
def State.beginInvocation (s : State) (t : Tile) (v : Invocation) : Invocation :=
  let ws := (List.range 16).map fun w => s.reg (vchCfgCa t v.ctx v.cfg w)
  { v with
    words := ws
    lcIdx := s.fld (lcCa t v.ctx (bits (ws.getD 9 0) 57 55)) 23 0
    seed := s.reg (tileCa t 0x09 (0x100 + 8 * (s.jobOf t v.ctx).val))
    step := s.fld (tileCa t 0x09 (0x140 + 8 * v.ctx.val)) 31 0
    velhal := s.bit (tileCa t 0x04 0) v.ctx.val }

/-- An invocation started on a chain. -/
def State.startInvocation (s : State) (t : Tile) (v : Invocation) : State :=
  let v := s.beginInvocation t v
  s.modTile t fun x => { x with chain := { x.chain with run := some v, loaded := 0, done := 0, unsup := [] } }

/-- Whether the chain has an invocation in progress: rows to read or results to place. -/
def Chain.busy (c : Chain) : Bool := c.run.isSome || !c.out.isEmpty

/-- Whether another context's invocation holds the chain (R93). -/
def Chain.heldFrom (h : Chain) (c : CtxNo) : Bool :=
  (match h.run with | some v => v.ctx != c | none => false) || h.out.any fun p => p.1 != c

/-- Whether the queued invocation may start: no other context's holds the chain, and the one in progress has read its last row
    (R130). -/
def Chain.mayStart (c : Chain) (q : Invocation) : Bool :=
  !Chain.heldFrom c q.ctx && (match c.run with | some v => decide (c.done = v.nrows) | none => true)

/-- Whether the invocation in progress has preload reads to make that wait until every entry of the earlier one is placed: V0 and
    V1 serve that one until then (R130). -/
def Chain.preloadWaits (c : Chain) (v : Invocation) : Bool := decide (c.loaded < preloads (v.words.getD 0 0)) && !c.out.isEmpty

/-- The queued invocation started, its place free. -/
def State.startQueuedInvocation (s : State) (t : Tile) (q : Invocation) : State :=
  (s.startInvocation t q).modTile t fun x => { x with chain := { x.chain with queued := none } }

/-- INVOCATION_START: the queued invocation starts when it may, as a scheduled action of its context (R81, R130). -/
def execInvocationStart (t : Tile) (s : State) : Out :=
  let ch := (s.tile t).chain
  match ch.queued with
  | none => .next s
  | some q => if !s.canAct t q.ctx || !Chain.mayStart ch q then .next s else .next (s.startQueuedInvocation t q)

/-- What stops the chain's next preload read or row: the engine of the queue and the problem. -/
def State.sideBlock (s : State) (t : Tile) (v : Invocation) (size : Nat) : Option HeadProblem :=
  StreamCtx.problem (s.eng t (sideEngine (v.words.getD 0 0)) v.ctx) size

/-- A preload entry taken into V0 or V1 (R112). -/
def State.preloadDo (s : State) (t : Tile) (v : Invocation) : State :=
  let h := v.words.getD 0 0
  let e := sideEngine h
  match StreamCtx.head (s.eng t e v.ctx) with
  | some (.data bs _) =>
    let vec := if cfgPreload h = 2 then 1 else (s.tile t).chain.loaded
    let s := s.modEng t e v.ctx StreamCtx.drop
    let s := (List.range 256).foldl (fun s l => s.setReg (vchVecCa t v.ctx vec l) (setBits ((wordsIn 256 bs).getD l 0) 5 0 0)) s
    s.modTile t fun x => { x with chain := { x.chain with loaded := x.chain.loaded + 1 } }
  | _ => s

/-- The row's elements: read with their residues checked, or poison outside the context's bounds (R93, R108). R93 does not say
    whether that poison carries the PZ flag bit: it carries none (DESIGN CHOICE, notes/assumptions/121).
    DEDUCED: notes/assumptions/33. -/
def State.chainRead (s : State) (t : Tile) (c : CtxNo) (g : Nat) (upsets : List (Fin 256)) : List Word × Bool × State :=
  let s := s.tel t 3 1
  if s.accBound t c g then
    let (ws, s) := (s.upsetAcc t g upsets).readAccRow t g
    (ws, true, s)
  else
    (List.replicate 256 (w48Word .poison 0), false,
     (s.raise (vchFlagsCa t) 9).postCtx 0x06 t c (BitVec.ofNat 64 g))

/-- Functions Velhal lacks, reported once for each invocation and stage (Table 6-8). -/
def State.reportUnsup (s : State) (t : Tile) (v : Invocation) : Nat → List Stage → State
  | _, [] => s
  | n, st :: ss =>
    let lacks := st.op == 0x0E && (match sfuFnOf (st.param / 256) with | some fn => velLacks fn | none => false)
    let s := if v.velhal && lacks then
        let s := s.raise (tileCa t 0x04 0x08) 1
        if (s.tile t).chain.unsup.contains n then s
        else (s.postCtx 0x04 t v.ctx (BitVec.ofNat 64 (st.param / 256))).modTile t fun x =>
          { x with chain := { x.chain with unsup := x.chain.unsup ++ [n] } }
      else s
    State.reportUnsup s t v (n + 1) ss

/-- The cycles of an SFU stage over lanes, `left` of them still to come: in each the arbiter ranks the four lane groups, all of
    which it serves. Answers the ranking of each cycle (R140). -/
def State.sfuCycles (s : State) (t : Tile) : Nat → List (List Nat) × State
  | 0 => ([], s)
  | left + 1 =>
    let (rank, s) := s.arbRun (arbBase (.sfu t)) (List.replicate 4 ⟨true, 1, 0, left == 0, false⟩)
    let (ranks, s) := State.sfuCycles s t left
    (rank :: ranks, s)

/-- The rankings of every stage of a row, in stage order: four cycles for an SFU stage over lanes, none for any other (R140). -/
def State.sfuRanks (s : State) (t : Tile) : List Stage → List (List (List Nat)) × State
  | [] => ([], s)
  | st :: ss =>
    let (r, s) := if st.op = 0x0E ∧ st.tgt = 0 then s.sfuCycles t 4 else ([], s)
    let (rs, s) := State.sfuRanks s t ss
    (r :: rs, s)

/-- The pipe that evaluates a lane of a stage: that of its group's rank in the cycle of the lane's part, and pipe 0 for a row
    register (R140). -/
def pipeOf (ranks : List (List (List Nat))) (p : ParityErr) : Nat :=
  match ranks.getD (p.stage - 1) [] with
  | [] => 0
  | cycles => (cycles.getD (p.lane.val % 64 / 16) []).idxOf (p.lane.val / 64)

/-- The parity errors of a row recorded: one for each pipe and cycle (R141, Table 6-9). -/
def State.reportParity (s : State) (t : Tile) (c : CtxNo) (ss : List Stage) (ranks : List (List (List Nat)))
    (errs : List ParityErr) : State :=
  let hits := errs.filter fun p => let st := ss.getD (p.stage - 1) ⟨0, 0, 0, 0, false, 0⟩
    st.op == 0x0E && p.stage ≠ 0 && (st.tgt == 0 || p.lane.val == 0)
  let pipe := pipeOf ranks
  let cell (p : ParityErr) : Nat × Nat × Nat := (p.stage, p.lane.val % 64 / 16, pipe p)
  let firsts := (List.range hits.length).filterMap fun i =>
    match hits[i]? with
    | some p => if (hits.take i).any (fun q => cell q == cell p) then none else some p
    | none => none
  if firsts.isEmpty then s
  else
    let fn (p : ParityErr) : Nat := (ss.getD (p.stage - 1) ⟨0, 0, 0, 0, false, 0⟩).param / 256
    let s := firsts.foldl (fun s p =>
      s.postCtx 0x07 t c (BitVec.ofNat 64 (pipe p + fn p * 65536 + p.seg.val * 16777216))) s
    let later (p q : ParityErr) : ParityErr :=
      let a := (p.stage * 4 + p.lane.val % 64 / 16)
      let b := (q.stage * 4 + q.lane.val % 64 / 16)
      if a < b ∨ (a = b ∧ pipe q < pipe p) then q else p
    let last := firsts.foldl later (firsts.headD ⟨1, 0, 0⟩)
    let ca := tileCa t 0x04 0x10
    let s := (s.raise (tileCa t 0x04 0x08) 0).bumpSat ca 47 32 firsts.length
    ((s.setFld ca 17 16 (pipe last)).setFld ca 15 8 (fn last)).setFld ca 7 0 last.seg.val

/-- The next row of an invocation, through every stage to its entries (R107–R127). `upsets` are the lanes of the row
    whose stored bits an upset has changed, `errs` the evaluations that met a coefficient of bad parity. The SFU stages of a
    masked row take their cycles, and report neither parity errors nor functions that Velhal lacks (DESIGN CHOICE,
    notes/assumptions/123). -/
def State.chainRowDo (s : State) (t : Tile) (v : Invocation) (upsets : List (Fin 256)) (errs : List ParityErr) : State :=
  let i := (s.tile t).chain.done
  let h := v.words.getD 0 0
  let o := v.words.getD 9 0
  let ss := cfgStages v.words
  let g := (v.row + i) % 1024
  let e := sideEngine h
  let (bs, pred) := match StreamCtx.head (s.eng t e v.ctx) with
    | some (.data b p) => if cfgSidekind h = 0 then ([], true) else (b, p)
    | _ => ([], true)
  let s := if cfgSidekind h = 0 then s else s.modEng t e v.ctx StreamCtx.drop
  let (ws, inB, s) := s.chainRead t v.ctx g upsets
  let (ranks, s) := s.sfuRanks t ss
  let (ents, s) :=
    if h.getLsbD 54 && !pred then (maskedEntries o ss, s)
    else
      let (sl, s0, s1, mask) := sideValues (cfgSidekind h) bs
      let u := (List.range 256).map fun l =>
        (!h.getLsbD 51 || s.bit (tileCa t 0x02 (0x2000 + 0x80 * v.ctx.val + 0x20 * bits h 50 49 + 8 * (l / 64))) (l % 64)) &&
        (match mask with | some m => (m.getD (l / 8) 0).getLsbD (l % 8) | none => true)
      let x := ws.map w48Value
      let vec n := (List.range 256).map fun l => w48Value (s.reg (vchVecCa t v.ctx n l))
      let env : RowEnv := ⟨g, inB, (List.range 4).map fun k => w48Value (v.words.getD (10 + k) 0), vec 0, vec 1, sl, s0, s1, x, u, v.velhal⟩
      let zero : List Flags := List.replicate 256 0
      let r0 : RowState := { x := x, fl := orLanes u zero (ws.map w48Flags), cf := zero }
      let s := s.reportUnsup t v 1 ss
      let s := s.reportParity t v.ctx ss ranks errs
      let (r, s) := s.chainStages t env errs 1 ss r0
      let (data, fl) := rowData v o i u r
      let s := (s.laneFlags (tileCa t 0x03 0x100) 8 (orLanes u fl r.cf)).orReg (vchFlagsCa t)
        (BitVec.ofNat 64 ((orFlags fl ||| orFlags r.cf ||| r.rl).toNat % 64))
      (data ++ r.recs.map s96Bytes ++ (if o.getLsbD 59 then [flagWord fl r.rl] else []), s)
  let nsfu := ss.foldl (fun n st => if st.op = 0x0E then n + (if st.tgt = 0 then 4 else 1) else n) 0
  let s := s.tel t 4 nsfu
  s.modTile t fun x =>
    let ch := { x.chain with done := i + 1, lastRow := i, out := x.chain.out ++ ents.map fun b => (v.ctx, .data b true) }
    { x with chain := if ch.done = v.nrows ∧ ch.out.isEmpty then { ch with run := none } else ch }

/-- What stops the next row: the side entry, or the preload entry before the first row. -/
def State.chainBlock (s : State) (t : Tile) (v : Invocation) : Option HeadProblem :=
  let h := v.words.getD 0 0
  if (s.tile t).chain.loaded < preloads h then s.sideBlock t v 2048
  else if cfgSidekind h = 0 then none
  else s.sideBlock t v (sideSize (cfgSidekind h))

/-- PRELOAD_READ: a preload entry is taken from the side queue (R112, R113). -/
def execPreloadRead (t : Tile) (s : State) : Out :=
  match (s.tile t).chain.run with
  | none => .next s
  | some v =>
    if !s.canAct t v.ctx || decide (preloads (v.words.getD 0 0) ≤ (s.tile t).chain.loaded) || Chain.preloadWaits (s.tile t).chain v then .next s
    else match s.chainBlock t v with
      | none => .next (s.preloadDo t v)
      | some p => .next (s.headNote t v.ctx (sideEngine (v.words.getD 0 0)).val p)

/-- CHAIN_ROW: one row is read with its side entry and passes through the stages (R107). -/
def execChainRow (t : Tile) (upsets : List (Fin 256)) (errs : List ParityErr) (s : State) : Out :=
  match (s.tile t).chain.run with
  | none => .next s
  | some v =>
    let ch := (s.tile t).chain
    if !s.canAct t v.ctx || decide (ch.loaded < preloads (v.words.getD 0 0)) || decide (v.nrows ≤ ch.done) then .next s
    else match s.chainBlock t v with
      | none => .next (s.chainRowDo t v upsets errs)
      | some p => .next (s.headNote t v.ctx (sideEngine (v.words.getD 0 0)).val p)

/-- Whether the chain's next entry has room in its stream-out queue (R125, R160). -/
def State.placeBlock (s : State) (t : Tile) : Bool :=
  match (s.tile t).chain.out with
  | (c, e) :: _ => !StreamCtx.fits (s.eng t 2 c) (unitsFor (Entry.size e))
  | [] => false

/-- The chain's next entry placed in its context's stream-out queue. -/
def State.placeDo (s : State) (t : Tile) : State :=
  match (s.tile t).chain.out with
  | [] => s
  | (c, e) :: rest =>
    let s := s.modEng t 2 c fun x => { x with queue := x.queue ++ [.ready e] }
    s.modTile t fun x =>
      let ch := { x.chain with out := rest }
      { x with chain := match ch.run with
          | some v => if ch.done = v.nrows ∧ rest.isEmpty then { ch with run := none } else ch
          | none => ch }

/-- CHAIN_ENTRY_PLACE: the next entry enters the stream-out queue, or waits for room with cause OUT (R125, R130). -/
def execChainEntryPlace (t : Tile) (s : State) : Out :=
  match (s.tile t).chain.out with
  | [] => .next s
  | (c, _) :: _ => if !s.canAct t c || s.placeBlock t then .next s else .next (s.placeDo t)

end Sys2Proof.Machine
end

