-- ==== Sys2Proof/Machine/Sequencer.lean ====
section
/-! DEFINITION. The sequencer (chapter 4): bundle issue and its slots, tokens, waits, stalls and context choice. -/

namespace Sys2Proof.Machine

/-! ### Registers -/

def cycCa (t : Tile) (c : CtxNo) : Nat := tileCa t 0x01 (0x200 + 0x80 * c.val)
def advCa (t : Tile) (c : CtxNo) : Nat := tileCa t 0x01 (0x208 + 0x80 * c.val)
def waitCa (t : Tile) (c : CtxNo) : Nat := tileCa t 0x01 (0x210 + 0x80 * c.val)
def stallCa (t : Tile) (c : CtxNo) (k : Nat) : Nat := tileCa t 0x01 (0x240 + 0x80 * c.val + 8 * k)

/-- LCn of a context. -/
def State.lc (s : State) (t : Tile) (c : CtxNo) (n : Fin 8) : Nat := s.fld (lcCa t c n.val) 23 0

/-- LCn given a value modulo 2^24. -/
def State.setLc (s : State) (t : Tile) (c : CtxNo) (n : Fin 8) (v : Nat) : State := s.setReg (lcCa t c n.val) (BitVec.ofNat 64 (v % 2 ^ 24))

/-- BASE and LIMIT of a context's region (R79). -/
def State.base (s : State) (t : Tile) (c : CtxNo) : Nat := s.fld (ctxcfgCa t c) 28 16
def State.limit (s : State) (t : Tile) (c : CtxNo) : Nat := s.fld (ctxcfgCa t c) 44 32

/-- Whether an index lies in a context's region. -/
def State.inRegion (s : State) (t : Tile) (c : CtxNo) (i : Nat) : Bool := decide (s.base t c ≤ i ∧ i ≤ s.limit t c)

/-! ### Cycle counts (R105, R106) -/

/-- One context's counts for a cycle in which it does not advance, with its cause. Only the current context's own holds count
    towards THRESH (R100). -/
def State.countStall (s : State) (t : Tile) (c : CtxNo) (k : Nat) : State :=
  let s := (s.count (cycCa t c) 1).count (stallCa t c k) 1
  s.modCtx t c fun x => { x with cause := k, held := if k = 7 then x.held else x.held + 1 }

/-- One context's counts for a cycle in which it advances. -/
def State.countAdvance (s : State) (t : Tile) (c : CtxNo) (issued idle : Bool) : State :=
  let s := (s.count (cycCa t c) 1).count (advCa t c) 1
  let s := if issued then s else s.count (waitCa t c) 1
  s.modCtx t c fun x => { x with cause := if issued then 9 else 8, held := if idle then x.held + 1 else 0 }

/-- Every live context but the current one counts SWOUT (R105). -/
def State.countOthers (s : State) (t : Tile) (cur : Option CtxNo) : State :=
  allCtx.foldl (fun s c => if cur ≠ some c ∧ Ctx.live (s.ctx t c) then s.countStall t c 7 else s) s

/-- A context's hold for a cycle, with the others'. -/
def State.hold (s : State) (t : Tile) (c : CtxNo) (k : Nat) : State := (s.countStall t c k).countOthers t (some c)

/-! ### Work in progress (R90, R99) -/

/-- Whether a context has a run in progress or queued. -/
def State.hasRun (s : State) (t : Tile) (c : CtxNo) : Bool :=
  let m := (s.tile t).mxe
  (match m.run with | some r => r.desc.ctx == c | none => false) || (match m.queued with | some d => d.ctx == c | none => false)

/-- Whether a context has an invocation in progress or queued, or a result of one still to be placed. -/
def State.hasInvocation (s : State) (t : Tile) (c : CtxNo) : Bool :=
  let h := (s.tile t).chain
  (match h.run with | some v => v.ctx == c | none => false) || (match h.queued with | some v => v.ctx == c | none => false) ||
  h.out.any (fun p => p.1 == c)

/-- Whether a context's stream-out queue is empty and every write it sent is acknowledged (Table 4-5). -/
def State.soDone (s : State) (t : Tile) (c : CtxNo) : Bool :=
  (s.eng t 2 c).queue.isEmpty && !(s.tile t).txns.any fun p => p.2 == some (.write c.val)

/-- Whether a context's stream-in programs have finished and every entry they requested has come. -/
def State.siDone (s : State) (t : Tile) (c : CtxNo) : Bool :=
  [(0 : Fin 3), 1].all fun e =>
    let x := s.eng t e c
    x.run.isNone && x.queued.isNone &&
    x.queue.all (fun p => match p with | .reserved _ => false | .ready _ => true) &&
    !(s.tile t).txns.any fun p => match p.2 with
      | some (.entry e' c' _ _ _) => e' == e.val && c' == c.val
      | _ => false

/-- The conditions of Table 4-5, COND 6 by the cycles left. -/
def State.waitMet (s : State) (t : Tile) (c : CtxNo) (cond left : Nat) : Bool :=
  match cond with
  | 1 => !s.hasRun t c
  | 2 => !s.hasInvocation t c
  | 3 => s.siDone t c
  | 4 => s.soDone t c
  | 5 => !s.hasRun t c && !s.hasInvocation t c && s.siDone t c && s.soDone t c
  | 6 => decide (left = 0)
  | 7 => !(s.ctx t c).tokens.isEmpty
  | _ => false

/-- Whether a context has work in progress: a run, an invocation or a stream-out transfer. -/
def State.hasWork (s : State) (t : Tile) (c : CtxNo) : Bool := s.hasRun t c || s.hasInvocation t c || !s.soDone t c

/-! ### Tokens (R95–R97) -/

/-- A token that reaches a context: queued, or dropped and recorded (R97). -/
def State.tokenArrive (s : State) (t : Tile) (c : CtxNo) (ty : Byte) (job : Nat) : State :=
  let x := s.ctx t c
  let drop (s : State) (flag extra : Nat) : State :=
    (s.raise (seqFlagsCa t) flag).postCtx 0x09 t c (BitVec.ofNat 64 (ty.toNat + extra))
  if x.state = .empty then drop s 3 256
  else if job ≠ (s.jobOf t c).val then drop s 4 0
  else if x.tokens.length ≥ 16 then drop s 3 256
  else s.modCtx t c fun x => { x with tokens := x.tokens ++ [ty] }

/-- The tile or group number of a network slot (R95). -/
def State.tokNumber (s : State) (t : Tile) (c : CtxNo) (k : TokSlot) : Nat :=
  (k.num.toNat + if k.dofs then s.lc t c k.dlc else 0) % 4096

/-- Whether a network slot needs a VC-B credit: not to this tile, and not where it is unmapped. -/
def State.tokNeedsCredit (s : State) (t : Tile) (c : CtxNo) (k : TokSlot) : Bool :=
  match k.dest with
  | .own => false
  | .group => true
  | .tile => match s.tileOfLogical (s.tokNumber t c k) with
    | some u => u ≠ t
    | none => false

/-- A network slot performed (R95): a token to this tile is delivered in the next cycle, any other enters the network. `n` is its
    destination number, read at the start of the cycle.
    DEDUCED: notes/assumptions/23. -/
def State.tokSend (s : State) (t : Tile) (c : CtxNo) (k : TokSlot) (n : Nat) : State :=
  let job := s.jobOf t c
  match k.dest with
  | .own => own
  | .group => s.send { s.tileHead t job 0x3E 0 false 0 with mcg := some { group := n } } (.tok k.ctx k.ty)
  | .tile =>
    match s.tileOfLogical n with
    | none => (s.raise (seqFlagsCa t) 5).postCtx 0x05 t c (BitVec.ofNat 64 n)
    | some u =>
      if u = t then own
      else s.send (s.tileHead t job (n / 40) (n % 40) true 0) (.tok k.ctx k.ty)
where
  own : State := s.modTile t fun x => { x with ownToks := x.ownToks ++ [(k.ctx, k.ty, (s.jobOf t c).val)] }

/-! ### Runs and invocations from slots (R51, R92, R93, R103, R115, R444) -/

/-- A matrix descriptor with the overrides of a slot (Tables 3-2, 4-6). -/
def runDesc (c : CtxNo) (w : Word) (ofs : Nat) (bankx : Bool) : RunDesc :=
  { ctx := c, fmt := (fmtOf (bits w 63 62)).getD .bs8, acc := w.getLsbD 61,
    bank := if bankx then 1 - bits w 60 60 else bits w 60 60,
    rowbase := (bits w 59 51 + ofs) % 512, nrow := bits w 50 41, klen := bits w 40 31, cmsel := bits w 30 29,
    nprob := if bits w 28 21 = 0 then 256 else bits w 28 21, pstep := bits w 20 12,
    rpred := w.getLsbD 11, cpred := w.getLsbD 10 }

def mxeDescCa (t : Tile) (c : CtxNo) (d : Nat) : Nat := tileCa t 0x02 (0x1000 + 0x40 * c.val + 8 * d)

/-- The flag register and bit of the rule that refuses a run, the first that applies (R444). -/
def State.runRefusal (s : State) (t : Tile) (d : RunDesc) : Option (Nat × Nat) :=
  let lim := s.fld (ctxcfgCa t d.ctx) 63 56
  if d.fmt = .bs4 ∧ s.bit (ctxcfgCa t d.ctx) 7 = false then some (tileCa t 0x0A 0x08, 4)
  else if d.fmt = .bs16 ∧ s.fieldState t.field = 3 then some (mxeFlagsCa t, 11)
  else if d.klen > kmax d.fmt then some (mxeFlagsCa t, 11)
  else if lim ≠ 0 ∧ d.nprob * d.nrow > 64 * lim then some (seqFlagsCa t, 7)
  else none

/-- A matrix slot performed: the copied run is queued, to start in a later cycle, or is refused once (R50, R443, R444).
    DEDUCED: notes/assumptions/15.
    DEDUCED: notes/assumptions/24. -/
def State.runIssue (s : State) (t : Tile) (c : CtxNo) (k : RunSlot) (lcv : Nat) : State :=
  let ca := mxeDescCa t c k.desc.val
  let d := runDesc c (s.reg ca) (if k.rofs then lcv else 0) k.bankx
  match s.runRefusal t d with
  | some (fca, n) => (s.raise fca n).postCtx 0x04 t c (BitVec.ofNat 64 ca)
  | none => s.modTile t fun x => { x with mxe := { x.mxe with queued := some d } }

/-- A vector slot performed: the invocation starts, is queued, or is refused (R93, R115). -/
def State.chainIssue (s : State) (t : Tile) (c : CtxNo) (k : ChainSlot) (lcv : Nat) : State :=
  let ws := (List.range 16).map fun w => s.reg (vchCfgCa t c k.cfg w)
  if !cfgOk ws then
    (s.raise (vchFlagsCa t) 8).postCtx 0x04 t c (BitVec.ofNat 64 (vchCfgCa t c k.cfg 0))
  else
    let v : Invocation := { ctx := c, cfg := k.cfg, row := (k.row.toNat + if k.rofs then lcv else 0) % 1024, nrows := k.nrows }
    if Chain.busy (s.tile t).chain then s.modTile t fun x => { x with chain := { x.chain with queued := some v } }
    else s.startInvocation t v

/-- A stream slot performed (R94); a START takes its parameter as it stood at the start of the cycle. -/
def State.streamIssue (s : State) (t : Tile) (e : Fin 3) (c : CtxNo) (k : StreamSlot) (lcv : Nat) : State :=
  match k with
  | .nop => s
  | .start prog psrc _ param => s.modEng t e c fun x =>
      StreamCtx.start x prog.val ((param.toNat + if psrc then lcv else 0) % 2 ^ 24)
  | .stop => s.modEng t e c StreamCtx.stop
  | .newgen => s.modEng t e c fun x => StreamCtx.newgen x e

/-- Whether a stream slot makes its context hold with cause STQ (R94, R161). -/
def State.streamHolds (s : State) (t : Tile) (e : Fin 3) (c : CtxNo) (k : StreamSlot) : Bool :=
  match k with
  | .start _ _ _ _ => (s.eng t e c).run.isSome && (s.eng t e c).queued.isSome
  | .newgen => s.newgenHolds t e c
  | _ => false

/-! ### Faults and the program counter (R79, R80, R99) -/

/-- A context fault: the flag, the event with the PC of the bundle, and STOPPING on the way to FAULT. -/
def State.ctxFault (s : State) (t : Tile) (c : CtxNo) (flag : Nat) : State :=
  let s := (s.raise (seqFlagsCa t) flag).postCtx 0x03 t c ((s.ctx t c).pc.setWidth 64)
  s.modCtx t c fun x => { x with state := .stopping, goal := .fault, wait := .no }

/-- The PC moved to an index of the region; outside it the context faults with PCRANGE (R79).
    DEDUCED: notes/assumptions/21. -/
def State.goTo (s : State) (t : Tile) (c : CtxNo) (i : Nat) : State :=
  if s.inRegion t c i then s.modCtx t c fun x => { x with pc := BitVec.ofNat 13 i }
  else s.ctxFault t c 0

/-- The PC moved past a bundle without a taken branch. -/
def State.fallOn (s : State) (t : Tile) (c : CtxNo) : State :=
  let i := (s.ctx t c).pc.toNat + 1
  if i ≤ s.limit t c then s.modCtx t c fun x => { x with pc := BitVec.ofNat 13 i } else s.ctxFault t c 0

/-- What a BRTOK finds at the head of its queue (R89): nothing, a token of its type, or something else. -/
inductive HeadTest where
  | empty | hit | other
  deriving DecidableEq, Repr

/-- The test of a BRTOK. -/
def State.brtokTest (s : State) (t : Tile) (c : CtxNo) (src : Nat) (ty : Byte) : HeadTest :=
  if src = 0 then
    match (s.ctx t c).tokens with
    | [] => .empty
    | k :: _ => if k = ty then .hit else .other
  else match StreamCtx.head (s.eng t (Fin.ofNat 3 (src - 1)) c) with
    | none => .empty
    | some (.token k) => if k = ty then .hit else .other
    | some (.data _ _) => .other

/-- The token that a BRTOK finds is removed. -/
def State.brtokTake (s : State) (t : Tile) (c : CtxNo) (src : Nat) (h : HeadTest) : State :=
  if h ≠ .hit then s
  else if src = 0 then s.modCtx t c fun x => { x with tokens := x.tokens.tail }
  else s.modEng t (Fin.ofNat 3 (src - 1)) c StreamCtx.drop

/-- The branch of a BRTOK: taken where it found its token; otherwise execution falls through. -/
def State.brtokGo (s : State) (t : Tile) (c : CtxNo) (target : Nat) (h : HeadTest) : State :=
  if h = .hit then s.goTo t c target else s.fallOn t c

/-- LDLC (R88): the low 24 bits of a scratchpad word into LCn; refused or uncorrectable, LCn stays and LDERR is set. The
    address-error event of a refusal names the context (Table 4-21). -/
def State.ldlc (s : State) (t : Tile) (c : CtxNo) (n : Fin 8) (word : Nat) : State :=
  let off := 8 * word
  let job := (s.jobOf t c).val
  if !s.inBounds t job off 8 then
    ((s.raise (spdFlagsCa t) 0).raise (seqFlagsCa t) 6).postCtx 0x05 t c (BitVec.ofNat 64 (padAddr t off))
  else
    let (d, s) := s.padRead t off 8
    match d with
    | some bs => s.setLc t c n (ofBytes bs)
    | none => s.raise (seqFlagsCa t) 6

/-- The sequencer slot performed; `s0` is the state at the start of the cycle (R85, R87–R90). The token that a BRTOK finds has
    been removed. -/
def State.seqIssue (s : State) (t : Tile) (c : CtxNo) (k : SeqSlot) (s0 : State) : State :=
  match k with
  | .nop => s.fallOn t c
  | .setlc n imm => (s.setLc t c n imm.toNat).fallOn t c
  | .addlc n imm => (s.setLc t c n (s0.lc t c n + imm.toNat)).fallOn t c
  | .djnz n target =>
    let v := (s0.lc t c n + (2 ^ 24 - 1)) % 2 ^ 24
    let s := s.setLc t c n v
    if v ≠ 0 then s.goTo t c target.toNat else s.fallOn t c
  | .jmp target => s.goTo t c target.toNat
  | .brz n target => if s0.lc t c n = 0 then s.goTo t c target.toNat else s.fallOn t c
  | .ldlc n word => (s.ldlc t c n word.toNat).fallOn t c
  | .brtok src ty target =>
    match s0.brtokTest t c src.val ty with
    | .empty => s.modCtx t c fun x => { x with wait := .brtok src.val ty target.toNat }
    | h => s.brtokGo t c target.toNat h
  | .wait cond n => (s.fallOn t c).modCtx t c fun x => if x.state = .running then { x with wait := .cond cond.val n.toNat } else x
  | .yield => (s.fallOn t c).modCtx t c fun x => { x with yield := true }
  | .notify code => (s.postCtx 0x01 t c (code.setWidth 64)).fallOn t c
  | .endCtx code => (s.postCtx 0x02 t c (code.setWidth 64)).modCtx t c fun x =>
      { x with pc := x.pc + 1, state := .stopping, goal := .ended }

/-! ### One cycle of the current context (R82, R85) -/

/-- Whether the engine has no place for another run of a context: one is in progress and another queued, or another context's
    waits to start (R50, R92). -/
def Matrix.full (m : Matrix) (c : CtxNo) : Bool :=
  match m.queued with
  | some d => m.run.isSome || d.ctx != c
  | none => false

/-- Whether the chain has no place for another invocation of a context (R93). -/
def Chain.full (h : Chain) (c : CtxNo) : Bool :=
  match h.queued with
  | some v => Chain.busy h || v.ctx != c
  | none => false

/-- The lowest stall cause that keeps a bundle from issuing (Table 4-17). -/
def State.slotBlock (s : State) (t : Tile) (c : CtxNo) (b : Bundle) (credit : Bool) : Option Nat :=
  if (match b.tok with | some k => s.tokNeedsCredit t c k && !credit | none => false) then some 2
  else if b.run.isSome && Matrix.full (s.tile t).mxe c then some 3
  else if b.chain.isSome && Chain.full (s.tile t).chain c then some 4
  else if s.streamHolds t 0 c b.sia || s.streamHolds t 1 c b.sib || s.streamHolds t 2 c b.out then some 5
  else none

/-- The loop counter a stream slot adds. -/
def State.slotLc (s : State) (t : Tile) (c : CtxNo) : StreamSlot → Nat
  | .start _ psrc plc _ => if psrc then s.lc t c plc else 0
  | _ => 0

/-- What a bundle's BRTOK finds, with the queue it tests. -/
def State.bundleTest (s : State) (t : Tile) (c : CtxNo) (k : SeqSlot) : Nat × HeadTest :=
  match k with
  | .brtok src ty _ => (src.val, s.brtokTest t c src.val ty)
  | _ => (0, .other)

/-- Every slot of an issuing bundle acts, on loop counters and queue heads as they stood at the start of the cycle; the token that
    a BRTOK found goes before anything is placed (R85, R86). -/
def State.slots (s : State) (t : Tile) (c : CtxNo) (b : Bundle) (s0 : State) : State :=
  let (src, h) := s0.bundleTest t c b.seq
  let s := s.brtokTake t c src h
  let s := match b.run with | some k => s.runIssue t c k (s0.lc t c k.rofslc) | none => s
  let s := match b.chain with | some k => s.chainIssue t c k (s0.lc t c k.rofslc) | none => s
  let s := s.streamIssue t 0 c b.sia (s0.slotLc t c b.sia)
  let s := s.streamIssue t 1 c b.sib (s0.slotLc t c b.sib)
  let s := s.streamIssue t 2 c b.out (s0.slotLc t c b.out)
  let s := match b.tok with | some k => s.tokSend t c k (s0.tokNumber t c k) | none => s
  s.seqIssue t c b.seq s0

/-- What keeps a due action from being performed: its cause, and the queue problem to record. None where the action
    is not the current context's or nothing stands in its way (R82, R98). -/
def State.dueBlock (s : State) (t : Tile) (c : CtxNo) (d : Due) : Option (Nat × Option HeadProblem) :=
  let x := s.tile t
  match d with
  | .swap => match x.mxe.run with
    | some r => if r.desc.ctx = c ∧ !r.swapped then (s.swapBlock t r.desc).map fun p => (1, some p) else none
    | none => none
  | .row _ => match x.mxe.run with
    | some r => if r.desc.ctx = c ∧ r.swapped then (s.rowBlock t r.desc).map fun p => (0, some p) else none
    | none => none
  | .runStart => match x.mxe.run, x.mxe.queued with
    | some r, some d => if d.ctx = c ∧ r.desc.ctx ≠ c then some (3, none) else none
    | _, _ => none
  | .invStart => match x.chain.queued with
    | some q => if q.ctx = c ∧ Chain.heldFrom x.chain c then some (4, none) else none
    | none => none
  | .preload => side x fun v => decide (x.chain.loaded < preloads (v.words.getD 0 0))
  | .chainRow _ _ => side x fun v => decide (x.chain.done < v.nrows)
  | .place => match x.chain.out with
    | (c', _) :: _ => if c' = c ∧ s.placeBlock t then some (2, none) else none
    | [] => none
where
  side (x : TileSt) (left : Invocation → Bool) : Option (Nat × Option HeadProblem) :=
    match x.chain.run with
    | some v => if v.ctx = c ∧ left v ∧ !Chain.preloadWaits x.chain v then
        (s.chainBlock t v).map fun p => ((sideEngine (v.words.getD 0 0)).val, some p) else none
    | none => none

/-- One due action performed. -/
def State.dueDo (s : State) (t : Tile) (c : CtxNo) (d : Due) : State :=
  let x := s.tile t
  match d with
  | .swap => match x.mxe.run with
    | some r => if r.desc.ctx = c ∧ !r.swapped then s.swapDo t r else s
    | none => s
  | .row f => match x.mxe.run with
    | some r => if r.desc.ctx = c ∧ r.swapped then s.rowDo t r f else s
    | none => s
  | .runStart => match x.mxe.run, x.mxe.queued with
    | none, some d => if d.ctx = c then s.modTile t fun x => { x with mxe := Matrix.startQueued x.mxe } else s
    | _, _ => s
  | .invStart => match x.chain.queued with
    | some q => if q.ctx = c ∧ Chain.mayStart x.chain q then s.startQueuedInvocation t q else s
    | none => s
  | .preload => match x.chain.run with
    | some v => if v.ctx = c ∧ x.chain.loaded < preloads (v.words.getD 0 0) ∧ !Chain.preloadWaits x.chain v then s.preloadDo t v else s
    | none => s
  | .chainRow us es => match x.chain.run with
    | some v => if v.ctx = c ∧ preloads (v.words.getD 0 0) ≤ x.chain.loaded ∧ x.chain.done < v.nrows then s.chainRowDo t v us es else s
    | none => s
  | .place => match x.chain.out with
    | (c', _) :: _ => if c' = c then s.placeDo t else s
    | [] => s

/-- Where a due action leaves the units and queues for those due after it in the same cycle: enough to judge them, with no value
    computed. A swap counts as made, and a row as taken, also where they are blocked. -/
def State.duePretend (s : State) (t : Tile) (c : CtxNo) (d : Due) : State :=
  let x := s.tile t
  match d with
  | .swap => match x.mxe.run with
    | some r => if r.desc.ctx = c ∧ !r.swapped then s.swapDo t r else s
    | none => s
  | .row _ => match x.mxe.run with
    | some r => if r.desc.ctx = c ∧ r.swapped then
        match s.nextRow t r.desc with
        | some (_, s) => s.modTile t fun x => { x with mxe := { x.mxe with run := Run.next r } }
        | none => s
      else s
    | none => s
  | .chainRow _ _ => match x.chain.run with
    | some v =>
      if v.ctx ≠ c then s
      else
        let h := v.words.getD 0 0
        let s := if cfgSidekind h = 0 then s else s.modEng t (sideEngine h) c StreamCtx.drop
        s.modTile t fun x => { x with chain := { x.chain with done := x.chain.done + 1 } }
    | none => s
  | d => s.dueDo t c d

/-- The start of a queued run or invocation is due in every cycle of its context from the one after its slot on (R92, R93, R443). -/
def withStarts (due : List Due) : List Due := .runStart :: .invStart :: due

/-- What keeps the due actions from being performed, each judged where the ones before it leave the tile. -/
def State.dueBlocks (s : State) (t : Tile) (c : CtxNo) : List Due → List (Nat × Option HeadProblem)
  | [] => []
  | d :: ds => (s.dueBlock t c d).toList ++ State.dueBlocks (s.duePretend t c d) t c ds

/-- The lowest of some causes. -/
def lowest : List Nat → Option Nat
  | [] => none
  | k :: ks => some (ks.foldl min k)

/-- The queue problems of the due actions recorded once (R98, R445). -/
def State.dueNotes (s : State) (t : Tile) (c : CtxNo) (blocks : List (Nat × Option HeadProblem)) : State :=
  blocks.foldl (fun s b => match b with
    | (k, some p) => s.headNote t c k p
    | _ => s) s

/-- The context that is current and may advance this cycle, if there is one. -/
def State.actor (s : State) (t : Tile) : Option CtxNo :=
  match (s.tile t).current with
  | some c => if s.canAct t c then some c else none
  | none => none

/-- A cycle in which no context can advance: a switch cycle, the hold of a retry, a stopped engine, a debug halt, or none
    current (R70, R71, R101, R105, R423). -/
def State.deadCycle (s : State) (t : Tile) : State :=
  let x := s.tile t
  let s := if x.mxe.halted || decide (0 < x.mxe.hold) then
      (match x.current with
       | some c => if Ctx.live (s.ctx t c) then s.hold t c 6 else s.countOthers t none
       | none => s.countOthers t none)
    else s.countOthers t none
  let s := if TileSt.dbgHalted x then s.count (tileCa t 0x0C 0x10) 1 else s
  let done := x.mxe.halted || TileSt.dbgHalted x
  s.modTile t fun x => { x with switching := false, mxe := { x.mxe with hold := if done then x.mxe.hold else x.mxe.hold - 1 } }

/-- A debug halt begun (R423). -/
def State.dbgHalt (s : State) (t : Tile) (cause : Nat) : State :=
  s.modTile t fun x => { x with dbg := { x.dbg with halted := true, cause := cause } }

/-- Whether a breakpoint stops a context at its PC (R424). -/
def State.breakHit (s : State) (t : Tile) (c : CtxNo) : Bool :=
  let w := s.reg (tileCa t 0x0C (0x100 + 8 * c.val))
  w.getLsbD 63 && bits w 12 0 == (s.ctx t c).pc.toNat && !(s.tile t).dbg.pass

/-- Whether the tile halts before a context issues: at a breakpoint, or at the end of a step (R424). -/
def State.haltDue (s : State) (t : Tile) (c : CtxNo) : Bool := (s.tile t).dbg.due || s.breakHit t c

/-- The debug count after an issue: the pass is used up, and after a step's last bundle a halt is due (R424). -/
def State.dbgIssued (s : State) (t : Tile) (c : CtxNo) : State :=
  let d := (s.tile t).dbg
  let s := s.modTile t fun x => { x with dbg := { x.dbg with pass := false } }
  if d.left = 0 ∨ d.stepCtx ≠ c.val then s
  else
    s.modTile t fun x => { x with dbg := { x.dbg with left := d.left - 1, due := decide (d.left = 1) } }

/-- Whether the chain's invocation in progress has a stage for the SFU pipes. -/
def Chain.usesPipes (h : Chain) : Bool :=
  match h.run with
  | some v => (cfgStages v.words).any fun st => st.op == 0x0E
  | none => false

/-- The codes of the counters of cycles (Table 18-1, R381): the array waits for a weight load; the engine, the chain or the pipes
    have no work and are gated; the site is gated; a sparse command is in progress.
    DESIGN CHOICE: notes/assumptions/99. -/
def TileSt.unitCycles (x : TileSt) : List Nat :=
  let waits := match x.mxe.run with
    | some r => !r.swapped && !WeightBuf.full (Matrix.shadow x.mxe)
    | none => false
  (if waits then [1] else []) ++ (if x.mxe.run.isNone && x.mxe.queued.isNone then [5] else []) ++
  (if Chain.busy x.chain || x.chain.queued.isSome then [] else [6]) ++ (if Chain.usesPipes x.chain then [] else [7]) ++
  (if x.gated then [8] else []) ++ (if x.spx.cmd.isSome then [25] else [])

/-- A cycle of a tile counted by its units. -/
def State.countUnits (s : State) (t : Tile) : State := (TileSt.unitCycles (s.tile t)).foldl (fun s k => s.tel t k 1) s

/-- A WAIT whose condition holds at the start of a cycle is over: a bundle issues in that cycle (R90). -/
def State.waitOver (s : State) (t : Tile) (c : CtxNo) : State :=
  match (s.ctx t c).wait with
  | .cond k left => if s.waitMet t c k left then s.modCtx t c fun x => { x with wait := .no } else s
  | _ => s

/-- A cycle of a context that waits: a timed wait counts down, and a waiting BRTOK whose queue was not empty at the start of the
    cycle, in `s0`, is decided (R89, R90). -/
def State.waitCycle (s : State) (t : Tile) (c : CtxNo) (s0 : State) : State :=
  match (s.ctx t c).wait with
  | .no => s
  | .cond k left => s.modCtx t c fun x => { x with wait := .cond k (left - 1) }
  | .brtok src ty target =>
    let h := s0.brtokTest t c src ty
    if (s.ctx t c).state ≠ .running ∨ h = .empty then s
    else ((s.modCtx t c fun x => { x with wait := .no }).brtokTake t c src h).brtokGo t c target h

/-- The cause for which the current context holds in a cycle, if it does: the lowest of those of its due actions and, where a
    bundle would issue, of the bundle's slots (R82, R105). `b` is that bundle, if one would issue and holds no reserved code. -/
def State.holdCause (s : State) (t : Tile) (c : CtxNo) (blocks : List (Nat × Option HeadProblem)) (b : Option Bundle)
    (credit : Bool) : Option Nat :=
  lowest (blocks.map (·.1) ++ (b.bind fun b => s.slotBlock t c b credit).toList)

/-- One cycle of a tile whose current context may act. -/
def State.actorCycle (s : State) (t : Tile) (c : CtxNo) (due : List Due) (credit : Bool) (mk : State → CtxNo → Option Bundle) : State :=
  let s := s.waitOver t c
  let x := s.ctx t c
  let due := withStarts due
  let blocks := s.dueBlocks t c due
  let issuing := x.state == .running && x.wait == .no
  let b := if issuing && !s.haltDue t c then mk s c else none
  match s.holdCause t c blocks b credit with
  | some k => ((s.countUnits t).dueNotes t c blocks).hold t c k
  | none =>
    if issuing && s.haltDue t c then s
    else
      let s := s.countUnits t
      let s1 := due.foldl (fun s d => s.dueDo t c d) s
      if !issuing then
        let idle := !(x.wait == .no) && !s.hasWork t c
        ((s1.waitCycle t c s).countAdvance t c false idle).countOthers t (some c)
      else match b with
        | none =>
          let s1 := if s.bundleBad t x.pc.toNat then s1.postTile 0x0C t (BitVec.ofNat 64 (49152 + x.pc.toNat / 16)) else s1
          ((s1.ctxFault t c 1).countAdvance t c false false).countOthers t (some c)
        | some b =>
          let s1 := (s1.modCtx t c fun x => { x with yield := false }).slots t c b s
          ((s1.countAdvance t c true false).countOthers t (some c)).dbgIssued t c

/-- The tokens a tile sent to itself in its last cycle delivered, at the end of this one (R95). -/
def State.ownDeliver (s : State) (t : Tile) (toks : List (CtxNo × Byte × Nat)) : State :=
  toks.foldl (fun s k => s.tokenArrive t k.1 k.2.1 k.2.2) s

/-- One cycle of a tile, with the actions due in it and the bundle that would issue (R82). `mk` gives the bundle at the
    PC, none for a reserved code (R80). A cycle in which a halt is due waits for it.
    DEDUCED: notes/assumptions/22. -/
def State.cycle (s : State) (t : Tile) (due : List Due) (credit : Bool) (mk : State → CtxNo → Option Bundle) : State :=
  if !s.clocked t.field then s
  else
    let toks := (s.tile t).ownToks
    let s := s.modTile t fun x => { x with ownToks := [] }
    (match s.actor t with
      | none => (s.countUnits t).deadCycle t
      | some c => s.actorCycle t c due credit mk).ownDeliver t toks

/-- The bundle at the current context's PC; none where it holds a reserved code or an uncorrectable word (R80, R393). -/
def bundleAtPc (t : Tile) (s : State) (c : CtxNo) : Option Bundle :=
  if s.bundleBad t (s.ctx t c).pc.toNat then none else decodeBundle (s.bundleAt t (s.ctx t c).pc.toNat)

/-- BUNDLE_ISSUE (R82): one cycle of a tile. The due actions all take place and the next bundle issues, or the current
    context holds. `since` is the number of cycles since this tile's last command that gave such a number (R184).
    DEDUCED: notes/assumptions/22. -/
def execBundleIssue (t : Tile) (due : List Due) (since : Nat) (s : State) : Out :=
  let s := s.vcbAge t since
  .next (s.cycle t due (s.vcbRoom t) (bundleAtPc t))

/-- A slot issued on the current context by a bundle that holds nothing else. -/
def State.issueSlot (s : State) (t : Tile) (credit : Bool) (b : Bundle) : Out := .next (s.cycle t [] credit fun _ _ => some b)

/-- NOP (R87). -/
def execNop (t : Tile) (s : State) : Out := s.issueSlot t true {}

/-- SETLC: LCn := IMM (R87). -/
def execSetlc (t : Tile) (n : Fin 8) (imm : BitVec 24) (s : State) : Out := s.issueSlot t true { seq := .setlc n imm }

/-- DJNZ: LCn := LCn − 1, and a branch if it is not 0 (R87). -/
def execDjnz (t : Tile) (n : Fin 8) (target : BitVec 13) (s : State) : Out := s.issueSlot t true { seq := .djnz n target }

/-- JMP (R87). -/
def execJmp (t : Tile) (target : BitVec 13) (s : State) : Out := s.issueSlot t true { seq := .jmp target }

/-- BRZ: a branch if LCn = 0 (R87). -/
def execBrz (t : Tile) (n : Fin 8) (target : BitVec 13) (s : State) : Out := s.issueSlot t true { seq := .brz n target }

/-- ADDLC: LCn := LCn + IMM (R87). -/
def execAddlc (t : Tile) (n : Fin 8) (imm : BitVec 24) (s : State) : Out := s.issueSlot t true { seq := .addlc n imm }

/-- LDLC: LCn from a scratchpad word (R88). -/
def execLdlc (t : Tile) (n : Fin 8) (word : BitVec 22) (s : State) : Out := s.issueSlot t true { seq := .ldlc n word }

/-- BRTOK: a token test (R89). -/
def execBrtok (t : Tile) (src : Fin 3) (ty : Byte) (target : BitVec 13) (s : State) : Out :=
  s.issueSlot t true { seq := .brtok src ty target }

/-- WAIT (R90); COND 0 is a reserved code (R86). -/
def execWait (t : Tile) (cond : Fin 8) (n : BitVec 20) (s : State) : Out :=
  if cond = 0 ∨ (cond ≠ 6 ∧ n ≠ 0) then .next (s.cycle t [] true fun _ _ => none)
  else s.issueSlot t true { seq := .wait cond n }

/-- YIELD (R87, R100). -/
def execYield (t : Tile) (s : State) : Out := s.issueSlot t true { seq := .yield }

/-- NOTIFY: a host event (R87). -/
def execNotify (t : Tile) (code : BitVec 16) (s : State) : Out := s.issueSlot t true { seq := .notify code }

/-- END: a completion event, and the context on its way to ENDED (R87, R99). -/
def execEndCtx (t : Tile) (code : BitVec 16) (s : State) : Out := s.issueSlot t true { seq := .endCtx code }

/-- RUN (R92). -/
def execRun (t : Tile) (k : RunSlot) (s : State) : Out := s.issueSlot t true { run := some k }

/-- CHAIN (R93); NROWS 0 and above 512 are reserved codes. -/
def execChain (t : Tile) (k : ChainSlot) (s : State) : Out :=
  if k.nrows = 0 ∨ k.nrows > 512 then .next (s.cycle t [] true fun _ _ => none)
  else s.issueSlot t true { chain := some k }

/-- The stream slot of an engine. -/
def engineSlot (e : Fin 3) (k : StreamSlot) : Bundle :=
  match e with
  | 0 => { sia := k }
  | 1 => { sib := k }
  | 2 => { out := k }

/-- START of a stream slot (R94). -/
def execStreamStart (t : Tile) (e : Fin 3) (prog : Fin 16) (psrc : Bool) (plc : Fin 8) (param : BitVec 20) (s : State) : Out :=
  s.issueSlot t true (engineSlot e (.start prog psrc plc param))

/-- STOP of a stream slot (R94). -/
def execStreamStop (t : Tile) (e : Fin 3) (s : State) : Out := s.issueSlot t true (engineSlot e .stop)

/-- NEWGEN of a stream slot (R94, R161). -/
def execNewgen (t : Tile) (e : Fin 3) (s : State) : Out := s.issueSlot t true (engineSlot e .newgen)

/-- TOK of a network slot (R95); `since` is the number of cycles since this tile's last command that gave such a number, from which
    the VC-B credit of R184 follows. Reserved types are reserved codes. -/
def execTok (t : Tile) (k : TokSlot) (since : Nat) (s : State) : Out :=
  let s := s.vcbAge t since
  if !tokenOk k.ty.toNat then .next (s.cycle t [] true fun _ _ => none)
  else s.issueSlot t (s.vcbRoom t) { tok := some k }

/-- BRTOK_RETEST: a waiting BRTOK decides its test in a cycle at whose start its queue is not empty (R89): a cycle in which
    nothing else is due. -/
def execBrtokRetest (t : Tile) (s : State) : Out :=
  match s.actor t with
  | none => .next s
  | some c =>
    match (s.ctx t c).wait with
    | .brtok src ty _ =>
      if (s.ctx t c).state ≠ .running ∨ s.brtokTest t c src ty = .empty then .next s
      else .next (s.cycle t [] true fun _ _ => none)
    | _ => .next s

/-- WAIT_CONDITION_MET: the wait of the current context ends where its condition holds (R90). -/
def execWaitConditionMet (t : Tile) (s : State) : Out :=
  match s.actor t with
  | none => .next s
  | some c => .next (s.waitOver t c)

/-! ### Context choice (R100–R102, R446) -/

/-- Whether a context waits under R89 or R90: its wait would not end at the start of the cycle, for the condition does not
    hold or the queue that its BRTOK tests is empty. -/
def State.waits (s : State) (t : Tile) (c : CtxNo) : Bool :=
  (s.ctx t c).state == .running &&
    match (s.ctx t c).wait with
    | .no => false
    | .cond k left => !s.waitMet t c k left
    | .brtok src ty _ => s.brtokTest t c src ty == .empty

/-- Whether a context waits with no work in progress (R100). -/
def State.idleWaiting (s : State) (t : Tile) (c : CtxNo) : Bool := s.waits t c && !s.hasWork t c

/-- Whether a context is ready; `adv` says which contexts would advance in the cycle (R100). -/
def State.ready (s : State) (t : Tile) (adv : BitVec 4) (c : CtxNo) : Bool :=
  Ctx.live (s.ctx t c) && !s.idleWaiting t c && (adv.getLsbD c.val || (s.waits t c && s.hasWork t c))

/-- PRIO of a context. -/
def State.prio (s : State) (t : Tile) (c : CtxNo) : Nat := s.fld (ctxcfgCa t c) 5 4

/-- The contexts in cyclic order, from the one after a context on. -/
def after (c : CtxNo) : List CtxNo := [c + 1, c + 2, c + 3, c]

/-- The ready context with the highest PRIO, the first of an order among equals. -/
def State.best (s : State) (t : Tile) (adv : BitVec 4) (order : List CtxNo) : Option CtxNo :=
  order.foldl (fun b c =>
    if !s.ready t adv c then b
    else match b with
      | none => some c
      | some d => if s.prio t d < s.prio t c then some c else b) none

/-- The context whose run or invocation owns a unit: the one in progress, or else the one that waits to start. -/
def TileSt.owner (x : TileSt) (chain : Bool) : Option CtxNo :=
  if chain then (match x.chain.run, x.chain.out with
    | some v, _ => some v.ctx
    | none, p :: _ => some p.1
    | none, [] => x.chain.queued.map (·.ctx))
  else match x.mxe.run with
    | some r => some r.desc.ctx
    | none => x.mxe.queued.map (·.ctx)

/-- The lender of R102, if the rule names one: a loan in force, or one that a hold with cause MXQ or VCQ begins.
    DEDUCED: notes/assumptions/26. -/
def State.lender (s : State) (t : Tile) (adv : BitVec 4) : Option (CtxNo × CtxNo × Bool) :=
  let x := s.tile t
  let valid (h l : CtxNo) (ch : Bool) : Bool :=
    Ctx.live (s.ctx t l) && Ctx.live (s.ctx t h) && TileSt.owner x ch == some l && !adv.getLsbD h.val
  match x.lend with
  | some (h, l, ch) => if valid h l ch then some (h, l, ch) else fresh x valid
  | none => fresh x valid
where
  fresh (x : TileSt) (valid : CtxNo → CtxNo → Bool → Bool) : Option (CtxNo × CtxNo × Bool) :=
    match x.current with
    | none => none
    | some h =>
      let ch := (s.ctx t h).cause == 4
      if (s.ctx t h).cause == 3 || ch then
        match TileSt.owner x ch with
        | some l => if l ≠ h ∧ valid h l ch then some (h, l, ch) else none
        | none => none
      else none

/-- The context chosen without a lender (R100 steps 2 to 5, R446).
    DEDUCED: notes/assumptions/25. -/
def State.choose (s : State) (t : Tile) (adv : BitVec 4) : Option CtxNo :=
  let sw := s.reg (tileCa t 0x01 0)
  let swen := sw.getLsbD 8
  match (s.tile t).current with
  | none => s.best t adv allCtx
  | some c =>
    let x := s.ctx t c
    if !Ctx.live x then s.best t adv (after c)
    else
      let top := s.best t adv (after c)
      let higher := match top with | some d => decide (s.prio t c < s.prio t d) | none => false
      let stays := (adv.getLsbD c.val && !s.idleWaiting t c) || x.cause == 6
      let due := decide (1 ≤ x.held) && (x.yield || decide (bits sw 7 0 ≤ x.held))
      if swen && higher then top
      else if stays then some c
      else if swen && due then (match top with | some d => some d | none => some c)
      else some c

/-- A context that becomes current starts its count of consecutive held cycles anew (R100). -/
def State.freshHeld (s : State) (t : Tile) (old new : Option CtxNo) : State :=
  match new with
  | some c => if old = some c then s else s.modCtx t c fun x => { x with held := 0 }
  | none => s

/-- CONTEXT_CHOICE: the current context of the next cycle; a change makes it a switch cycle. `adv` says which
    contexts would advance. A debug step lets only its context become current (R424). -/
def execContextChoice (t : Tile) (adv : BitVec 4) (s : State) : Out :=
  let x := s.tile t
  if !s.clocked t.field then .next s
  else if TileSt.dbgHalted x then .next s
  else
    let lend := s.lender t adv
    let pick := match lend with
      | some (_, l, _) => some l
      | none => s.choose t adv
    let only : CtxNo := Fin.ofNat 4 x.dbg.stepCtx
    let pick := if x.dbg.left = 0 then pick else if Ctx.live (s.ctx t only) then some only else none
    .next ((s.modTile t fun x => { x with
      current := pick, lend := lend, switching := pick.isSome && pick != x.current }).freshHeld t x.current pick)

/-- CONTEXT_STOP_COMPLETE: a STOPPING context with no run, invocation or stream-out transfer left ends (R99).
    DEDUCED: notes/assumptions/27. -/
def execContextStopComplete (t : Tile) (c : CtxNo) (s : State) : Out :=
  let x := s.ctx t c
  if !s.clocked t.field || !(x.state == .stopping) || s.hasWork t c then .next s
  else .next (s.modCtx t c fun x => { x with
    state := match x.goal with
      | .stopped => .stopped
      | .ended => .ended
      | .fault => .fault
    cause := 0xF })

end Sys2Proof.Machine
end

