-- ==== Sys2Proof/Machine/Sparse.lean ====
section
/-! DEFINITION. The sparse engine (chapter 12): command rings, SELECT, GATHER, MERGE and BUCKET. -/

namespace Sys2Proof.Machine

def spxCa (t : Tile) (off : Nat) : Nat := tileCa t 0x0A off
def spxFlagsCa (t : Tile) : Nat := spxCa t 0x08
def spxStatusCa (t : Tile) : Nat := spxCa t 0x10
def spxDropCa (t : Tile) : Nat := spxCa t 0x18
def spxRingCa (t : Tile) (c : CtxNo) : Nat := spxCa t (0x100 + 8 * c.val)

def State.spx (s : State) (t : Tile) : SpxSt := (s.tile t).spx
def State.modSpx (s : State) (t : Tile) (f : SpxSt → SpxSt) : State := s.modTile t fun x => { x with spx := f x.spx }
def State.setCmd (s : State) (t : Tile) (c : SpxCmd) : State := s.modSpx t fun x => { x with cmd := some c }

/-! ### Accesses, line by line (R293) -/

/-- n bytes of one line read at the tile's banks for a command's context: none where the access is refused, and error
    fill where a word is uncorrectable. -/
def State.spxLine (s : State) (t : Tile) (job off n : Nat) : PartData × State :=
  if s.inBounds t job off n then
    let (d, s) := (s.slotNet t off n).padRead t off n
    (some (d.getD (rawFill n), d.isNone), s)
  else (none, s.padRefuse t job off)

/-- n bytes read at the tile's banks for a command's context: words of error fill in a line that is refused, and whether
    one was. -/
def State.spxRead (s : State) (t : Tile) (job off len : Nat) : Nat → List Byte × Bool × State
  | 0 => ([], false, s)
  | fuel + 1 =>
    if len = 0 then ([], false, s)
    else
      let n := min len (512 - off % 512)
      let (d, s) := s.spxLine t job off n
      let (ds, bad, s) := State.spxRead s t job (off + n) (len - n) fuel
      ((d.elim (rawFill n) Prod.fst) ++ ds, d.isNone || bad, s)

/-- Bytes written at the tile's banks for a command's context; a refused line is not written. -/
def State.spxWrite (s : State) (t : Tile) (job off : Nat) (data : List Byte) : Nat → Bool × State
  | 0 => (false, s)
  | fuel + 1 =>
    if data.isEmpty then (false, s)
    else
      let d := data.take (512 - off % 512)
      let (bad, s) :=
        if s.inBounds t job off d.length then (false, (s.slotNet t off d.length).padStore t off d) else (true, s.padRefuse t job off)
      let (bad', s) := State.spxWrite s t job (off + d.length) (data.drop d.length) fuel
      (bad || bad', s)

/-- The 8-byte words of a list in the scratchpad, with the mark of a refusal put in the command. -/
def State.spxWords (s : State) (t : Tile) (c : SpxCmd) (off n : Nat) : List Word × SpxCmd × State :=
  let (bs, bad, s) := s.spxRead t (s.jobOf t c.ctx).val off (8 * n) (8 * n + 1)
  ((chunks 8 n bs).map fun b => BitVec.ofNat 64 (ofBytes b), { c with addrErr := c.addrErr || bad }, s)

/-! ### Records (Table 12-1, R284) -/

def SpxCmd.word (c : SpxCmd) (n : Nat) : Word := c.words.getD n 0
def SpxCmd.op (c : SpxCmd) : Nat := bits (SpxCmd.word c 0) 63 60
def SpxCmd.mode (c : SpxCmd) : Nat := bits (SpxCmd.word c 0) 59 58
def SpxCmd.span (c : SpxCmd) : Nat := bits (SpxCmd.word c 0) 55 48
def SpxCmd.lim (c : SpxCmd) : Nat := let n := bits (SpxCmd.word c 1) 23 0; if n = 0 then 2 ^ 24 else n
def SpxCmd.srcD (c : SpxCmd) : Option TensorDesc := tensorDesc (SpxCmd.word c 6) (SpxCmd.word c 7)
def SpxCmd.dstD (c : SpxCmd) : Option TensorDesc := tensorDesc (SpxCmd.word c 8) (SpxCmd.word c 9)

/-- The OPs. -/
def opSelect : Nat := 1
def opGather : Nat := 2
def opMerge : Nat := 3
def opBucket : Nat := 4

/-- The bit ranges that Table 12-1 assigns to each word of a record. -/
def recordFields (op mode n : Nat) : List (Nat × Nat) :=
  let sel := op == 1
  let gat := op == 2
  let mer := op == 3
  let buc := op == 4
  let rows := gat && mode == 0
  let blocks := gat && mode == 1
  let on (b : Bool) (r : Nat × Nat) : List (Nat × Nat) := if b then [r] else []
  match n with
  | 0 => [(63, 60), (24, 0)] ++ on (gat || mer) (59, 58) ++ on rows (55, 48)
  | 1 => [(56, 32)] ++ on (!sel) (23, 0)
  | 2 => on (!sel) (56, 32) ++ on (!sel) (23, 0)
  | 3 => on mer (56, 32) ++ on mer (23, 0)
  | 4 => on (sel || mer) (56, 32) ++ on (sel || mer) (23, 0)
  | 5 => on sel (63, 6)
  | 6 => on (!mer) (63, 0)
  | 7 => on (!mer) (63, 0)
  | 8 => on (gat || buc) (63, 0)
  | 9 => on (gat || buc) (63, 0)
  | 10 => on buc (56, 32) ++ on buc (31, 24)
  | 11 => on buc (56, 32) ++ on (sel || blocks || buc) (23, 0)
  | 12 => on blocks (31, 24) ++ on (sel || gat) (23, 0)
  | _ => []

/-- Whether a record has bits outside its OP's fields. -/
def recordStray (c : SpxCmd) : Bool :=
  (List.range 16).any fun n => (recordFields (SpxCmd.op c) (SpxCmd.mode c) n).foldl (fun w r => setBits w r.1 r.2 0) (SpxCmd.word c n) != 0

/-- Whether a source and a destination descriptor suit an OP. -/
def recordDescs (c : SpxCmd) (block : Bool) (dst : Bool) : Bool :=
  match SpxCmd.srcD c with
  | none => false
  | some d =>
    (!block || d.fmt.isSome) && decide (d.mbase % 8 = 0) &&
    (!dst || (match SpxCmd.dstD c with
      | some e => e.loc && !e.xm && e.fmt == d.fmt && decide (e.mbase % 8 = 0)
      | none => false))

/-- Whether a record is well-formed (R284). -/
def recordOk (c : SpxCmd) : Bool :=
  let w := SpxCmd.word c
  let al (n : Nat) : Bool := decide (bits (w n) 34 32 = 0)
  let raw := match SpxCmd.srcD c with | some d => d.fmt.isNone | none => false
  !recordStray c && decide (bits (w 0) 2 0 = 0) && al 1 &&
  (match SpxCmd.op c with
   | 1 => al 4 && recordDescs c true false && decide (bits (w 4) 23 0 ≠ 0 ∧ bits (w 11) 23 0 ≠ 0)
   | 2 => al 2 && (match SpxCmd.mode c with
      | 0 => recordDescs c false true && decide (SpxCmd.span c ≠ 0) && (!raw || decide (bits (w 12) 2 0 = 0))
      | 1 => recordDescs c true true && decide (bits (w 11) 23 0 ≠ 0 ∧ bits (w 12) 31 24 ≠ 0)
      | _ => false)
   | 3 => al 2 && al 3 && al 4 && decide (SpxCmd.mode c < 3) && decide (bits (w 4) 23 0 ≠ 0)
   | 4 => al 2 && al 10 && recordDescs c true true &&
      decide (bits (w 2) 23 0 ≠ 0 ∧ bits (w 10) 31 24 ≠ 0 ∧ bits (w 11) 40 32 = 0 ∧ bits (w 11) 23 0 ≠ 0)
   | _ => false)

/-! ### Overlap (R293) -/

/-- Regions of n rows of m blocks (bytes for RAW) of a local tensor, from row r0 and displaced. -/
def tensorRegions (d : TensorDesc) (disp rows m : Nat) : List (Nat × Nat) :=
  let d := { d with mbase := (d.mbase + disp) % 2 ^ 25 }
  (List.range rows).flatMap fun (r : Nat) => match d.fmt with
    | some f => [(mantAddr d f r 0, m * blockBytes f), (scaleAddr d r 0, m)]
    | none => [(rawAddr d r 0 0, m)]

/-- Whether two regions share a byte. -/
def regionsMeet (a b : Nat × Nat) : Bool := decide (0 < a.2 ∧ 0 < b.2 ∧ a.1 < b.1 + b.2 ∧ b.1 < a.1 + a.2)

/-- A bucket descriptor that keeps its layout (R291). -/
def bucketOk (w : Word) : Bool :=
  decide (bits w 63 57 = 0 ∧ bits w 31 16 = 0 ∧ 1 ≤ bits w 7 0 ∧ bits w 7 0 ≤ bits w 15 8 ∧ bits w 34 32 = 0)

/-- The buckets of a table that a command reaches: those before the first that breaks its layout (R291). -/
def bucketsReached (ws : List Word) : List Word := ws.takeWhile bucketOk

/-- The blocks of a row of staging slot j: the largest NPAD of the buckets staged in it, or of the table where none is. -/
def slotBlocks (nslot j : Nat) (ws : List Word) : Nat :=
  let pads := (List.range ws.length).map fun b => (b % nslot, bits (ws.getD b 0) 15 8)
  let mine := pads.filter fun p => p.1 == j
  ((if mine.isEmpty then pads else mine).map Prod.snd).foldl max 0

/-- The regions a command writes, each as one group; `ws` holds the buckets that a BUCKET reaches. -/
def recordWrites (c : SpxCmd) (ws : List Word) : List (List (Nat × Nat)) :=
  let w := SpxCmd.word c
  let outs := if SpxCmd.op c = 1 ∨ SpxCmd.op c = 3 then [[(bits (w 4) 56 32, 8 * bits (w 4) 23 0)]] else []
  let nslot := bits (w 10) 31 24
  let dst := match SpxCmd.dstD c, SpxCmd.op c with
    | some d, 2 => if SpxCmd.mode c = 0 then [tensorRegions d 0 (bits (w 2) 23 0 * SpxCmd.span c) (bits (w 12) 23 0)]
        else [tensorRegions d 0 (bits (w 11) 23 0) (bits (w 12) 31 24)]
    | some d, 4 => (List.range nslot).map fun j => tensorRegions d (bits (w 11) 56 32 * j) (bits (w 11) 23 0) (slotBlocks nslot j ws)
    | _, _ => []
  outs ++ dst ++ [[(bits (w 0) 24 0, 8)], [(bits (w 1) 56 32, 8)]]

/-- The parts of a region of data addresses that lie in a tile's own scratchpad (R18, R25). -/
def State.ownParts (s : State) (t : Tile) (r : Nat × Nat) : List (Nat × Nat) :=
  ((List.range 40).filter fun k => s.siteOf t.field k == some t).filterMap fun k =>
    let base := 0x40000000000000 + 1 <<< 37 + t.field.val <<< 31 + k <<< 25
    let lo := max r.1 base
    let hi := min (r.1 + r.2) (base + 2 ^ 25)
    if lo < hi then some (lo - base, hi - lo) else none

/-- The lists and source regions in the tile's own scratchpad that a command reads. -/
def State.recordReads (s : State) (t : Tile) (c : SpxCmd) (ws : List Word) : List (Nat × Nat) :=
  let w := SpxCmd.word c
  let list n := [(bits (w n) 56 32, 8 * bits (w n) 23 0)]
  let lists := match SpxCmd.op c with
    | 2 => list 2
    | 3 => list 2 ++ list 3
    | 4 => list 2 ++ ws.map fun b => (bits b 56 32, 8 * bits b 7 0)
    | _ => []
  let src := match SpxCmd.srcD c with
    | some d =>
      let rs := match SpxCmd.op c, SpxCmd.mode c with
        | 1, _ => tensorRegions d 0 (bits (w 11) 23 0) (bits (w 12) 23 0)
        | 2, 0 => tensorRegions d 0 (SpxCmd.lim c * SpxCmd.span c) (bits (w 12) 23 0)
        | 2, _ => tensorRegions d 0 (bits (w 11) 23 0) (min (SpxCmd.lim c) (bits (w 12) 23 0))
        | 4, _ => tensorRegions d 0 (bits (w 11) 23 0) (SpxCmd.lim c)
        | _, _ => []
      if d.xm then [] else if d.loc then rs else rs.flatMap (s.ownParts t)
    | none => []
  lists ++ (if SpxCmd.op c = 3 then [] else src)

/-- Whether some region a command writes meets another it writes or one it reads.
    DEDUCED: notes/assumptions/76. -/
def State.recordOverlaps (s : State) (t : Tile) (c : SpxCmd) (bs : List Word) : Bool :=
  let ws := recordWrites c bs
  let rs := s.recordReads t c bs
  let n := ws.length
  (List.range n).any fun i => (ws.getD i []).any fun a =>
    rs.any (regionsMeet a) || (List.range n).any fun j => decide (i < j) && (ws.getD j []).any (regionsMeet a)

/-! ### Rings (R282) -/

/-- Whether a context's ring is polled. -/
def State.ringLive (s : State) (t : Tile) (c : CtxNo) : Bool := s.bit (spxRingCa t c) 63 && Ctx.live (s.ctx t c)

/-- The head record of a context's ring read, as the command it would be (R282, R293). -/
def State.readHead (s : State) (t : Tile) (c : CtxNo) : SpxCmd × State :=
  let off := s.fld (spxRingCa t c) 56 32 + 128 * s.fld (spxRingCa t c) 7 0
  let (bs, bad, s) := s.spxRead t (s.jobOf t c).val off 128 129
  ({ ctx := c, words := (chunks 8 16 bs).map fun b => BitVec.ofNat 64 (ofBytes b), rec_ := off, addrErr := bad }, s)

/-- The head records of the given contexts' rings read, those that are not empty in order (R282). -/
def State.readHeads (s : State) (t : Tile) : List CtxNo → List SpxCmd × State
  | [] => ([], s)
  | c :: cs =>
    let (k, s) := s.readHead t c
    let (ks, s) := State.readHeads s t cs
    (if SpxCmd.op k = 0 then ks else k :: ks, s)

/-- A command taken: its record judged, the bucket table of a BUCKET read, and its regions checked (R284, R293). -/
def State.takeRecord (s : State) (t : Tile) (k : SpxCmd) : State :=
  let ok := recordOk k
  let (ws, k, s) := if ok && SpxCmd.op k == opBucket
    then s.spxWords t k (bits (SpxCmd.word k 2) 56 32) (bits (SpxCmd.word k 2) 23 0) else ([], k, s)
  let lap := ok && s.recordOverlaps t k (bucketsReached ws)
  let s := ((s.setFld (spxStatusCa t) 63 63 1).setFld (spxStatusCa t) 62 61 k.ctx.val).setFld (spxStatusCa t) 60 57 (SpxCmd.op k)
  s.modSpx t fun x => { x with cmd := some { k with cmdErr := !ok, overlap := lap, ready := !ok || lap }, last := k.ctx }

/-- RING_POLL: the engine reads the head record of each valid ring whose context runs; free, it takes the first that is
    not empty, in cyclic order after the context it last served. -/
def execRingPoll (t : Tile) (s : State) : Out :=
  if !s.unitRuns t then .next s
  else
    let l : CtxNo := (s.spx t).last
    let (ks, s) := s.readHeads t (([l + 1, l + 2, l + 3, l] : List CtxNo).filter (s.ringLive t))
    match (s.spx t).cmd, ks with
    | none, k :: _ => .next (s.takeRecord t k)
    | _, _ => .next s

/-! ### Index lists (R286) -/

/-- What filtering a list gives: the kept indices and the entries dropped. -/
structure Filtered where
  kept : List Nat := []
  oor  : Nat := 0
  dsc  : Nat := 0
  dup  : Nat := 0
  deriving DecidableEq, Repr

/-- The filter of R286; `p` is the last index kept. -/
def filterList (lim : Nat) : Option Nat → List Nat → Filtered
  | _, [] => {}
  | p, x :: xs =>
    if lim ≤ x then let f := filterList lim p xs; { f with oor := f.oor + 1 }
    else match p with
      | some q =>
        if x < q then let f := filterList lim p xs; { f with dsc := f.dsc + 1 }
        else if x = q then let f := filterList lim p xs; { f with dup := f.dup + 1 }
        else let f := filterList lim (some x) xs; { f with kept := x :: f.kept }
      | none => let f := filterList lim (some x) xs; { f with kept := x :: f.kept }

/-- A list of the command read and filtered: the counts, SPX_FLAGS, SPX_DROPCNT and the descending-index event. -/
def State.readList (s : State) (t : Tile) (c : SpxCmd) (off n : Nat) : List Nat × SpxCmd × State :=
  let (ws, c, s) := s.spxWords t c off n
  let f := filterList (SpxCmd.lim c) none (ws.map fun w => bits w 23 0)
  let s := if f.oor = 0 then s else (s.raise (spxFlagsCa t) 0).bumpSat (spxDropCa t) 63 32 f.oor
  let s := if f.dup = 0 then s else s.raise (spxFlagsCa t) 2
  let s := if f.dsc = 0 then s else (s.raise (spxFlagsCa t) 1).bumpSat (spxDropCa t) 31 0 f.dsc
  let s := if f.dsc = 0 || c.told then s else s.postCtx 0x14 t c.ctx (BitVec.ofNat 64 off)
  (f.kept, { c with oor := c.oor + f.oor, dsc := c.dsc + f.dsc, dup := c.dup + f.dup, told := c.told || decide (0 < f.dsc) }, s)

/-! ### Sources (R289) -/

/-- A range of a source as pieces of one line each, from a place in a row on. -/
def piecesOf (kind : PieceKind) (dst : RowPlace) (addr len ofs : Nat) : Nat → List Piece
  | 0 => []
  | fuel + 1 =>
    if len = 0 then []
    else
      let n := min len (512 - addr % 512)
      ⟨addr, n, kind, dst, ofs⟩ :: piecesOf kind dst (addr + n) (len - n) (ofs + n) fuel

def pieces (kind : PieceKind) (dst : RowPlace) (addr len : Nat) : List Piece := piecesOf kind dst addr len 0 (len / 512 + 2)

/-- The pieces of n blocks of a source from block x of row r on. -/
def blocksOf (d : TensorDesc) (f : Fmt) (dst : RowPlace) (r x : Int) (n : Nat) : List Piece :=
  pieces (.mant f) dst (mantAddr d f r x) (n * blockBytes f) ++ pieces (.scale f) dst (scaleAddr d r x) n

/-- Pieces read, in order: those of the own scratchpad at once, at most 32 others outstanding. -/
def State.issuePieces (s : State) (t : Tile) (d : TensorDesc) (c : SpxCmd) : List Piece → SpxCmd × State
  | [] => ({ c with pieces := [] }, s)
  | p :: ps =>
    let job := s.jobOf t c.ctx
    let wy := s.way t d.loc d.xm p.addr
    match wy with
    | .own off =>
      let (b, s) := s.spxLine t job.val off p.len
      State.issuePieces s t d (SpxCmd.take c p b) ps
    | .bad => State.issuePieces (s.postCtx 0x05 t c.ctx (BitVec.ofNat 64 p.addr)) t d (SpxCmd.take c p none) ps
    | _ =>
      if 32 ≤ c.waiting.length ∨ !s.tagsFree t 1 then ({ c with pieces := p :: ps }, s)
      else
        let n := (s.spx t).next
        let (tag, s) := (s.modSpx t fun x => { x with next := n + 1 }).openTxn t (.spx n)
        State.issuePieces (s.request t job wy s.moduleId tag none (.rd (Way.addr wy p.addr) p.len)) t d
          { c with waiting := c.waiting ++ [(n, p)] } ps

/-- The command's source read: `plan` names the pieces once, and `finish` goes on when all have come. -/
def State.spxFetch (s : State) (t : Tile) (c : SpxCmd) (plan : SpxCmd → State → SpxCmd × State)
    (finish : SpxCmd → State → SpxCmd × State) : State :=
  let (c, s) := if c.planned then (c, s) else let (c, s) := plan c s; ({ c with planned := true }, s)
  let (c, s) := match SpxCmd.srcD c with
    | some d => s.issuePieces t d c c.pieces
    | none => (c, s)
  let (c, s) := if c.pieces.isEmpty && c.waiting.isEmpty then finish c s else (c, s)
  s.setCmd t c

/-- The command in progress, if it is of an OP and a mode and not ready to complete, handled. -/
def State.spxStep (s : State) (t : Tile) (op : Nat) (mode : Option Nat) (f : SpxCmd → State) : Out :=
  match (s.spx t).cmd with
  | none => .next s
  | some c =>
    if !s.unitRuns t || c.ready || SpxCmd.op c != op || (mode.isSome && mode != some (SpxCmd.mode c)) then .next s
    else .next (f c)

/-! ### SELECT (R287) -/

/-- The bytes of an output list. -/
def listBytes (xs : List Nat) : List Byte := (xs.map fun x => toBytes 8 x).flatten

/-- An output list of at most OMAX indices put in a command. -/
def SpxCmd.putList (c : SpxCmd) (xs : List Nat) : SpxCmd :=
  let om := bits (SpxCmd.word c 4) 23 0
  { c with out := [(bits (SpxCmd.word c 4) 56 32, listBytes (xs.take om))], nout := min xs.length om,
           full := c.full || decide (om < xs.length), ready := true }

/-- The selected columns of rows of blocks laid out one after another, and whether poison was met. -/
def selectCols (f : Fmt) (thresh : Num) (rows len : Nat) (buf : List Byte) : List Nat × Bool :=
  let rb := rowBytes f len
  let vals : List (List Num) := (List.range rows).map fun r =>
    let row := (buf.drop (r * rb)).take rb
    ((List.range len).map fun b =>
      (mantissas f ((row.drop (b * blockBytes f)).take (blockBytes f))).map (elemValue f (row.getD (len * blockBytes f + b) 0).toNat)).flatten
  ((List.range (32 * len)).filter fun c => vals.any fun r => match r.getD c (.fin 0 0) with
      | .poison => true
      | v => numLt thresh v,
   vals.any fun r => r.contains .poison)

/-- SELECT: the columns whose scores exceed the threshold in some row. -/
def execSelect (t : Tile) (s : State) : Out :=
  s.spxStep t opSelect none fun c =>
    let rows := bits (SpxCmd.word c 11) 23 0
    let len := bits (SpxCmd.word c 12) 23 0
    match SpxCmd.srcD c with
    | some ⟨some f, loc, xm, mb, so, rs, ss⟩ =>
      let d : TensorDesc := ⟨some f, loc, xm, mb, so, rs, ss⟩
      s.spxFetch t c
        (fun c s =>
          let ps := (List.range rows).flatMap fun (r : Nat) =>
            blocksOf d f ⟨r * rowBytes f len, r * rowBytes f len + len * blockBytes f⟩ r 0 len
          ({ c with pieces := ps }, s))
        (fun c s =>
          let buf := (c.out ++ c.lost).foldl (fun b p => overwrite b p.1 p.2) (List.replicate (rows * rowBytes f len) 0)
          let (cols, pz) := selectCols f (w48Value (SpxCmd.word c 5)) rows len buf
          (SpxCmd.putList { c with pz := pz } cols, s))
    | _ => s

/-! ### GATHER (R288) -/

/-- GATHER ROWS: SPAN source rows for each kept index. -/
def execGatherRows (t : Tile) (s : State) : Out :=
  s.spxStep t opGather (some 0) fun c =>
    let len := bits (SpxCmd.word c 12) 23 0
    let span := SpxCmd.span c
    match SpxCmd.srcD c, SpxCmd.dstD c with
    | some d, some e =>
      s.spxFetch t c
        (fun c s =>
          let (xs, c, s) := s.readList t c (bits (SpxCmd.word c 2) 56 32) (bits (SpxCmd.word c 2) 23 0)
          let ps := (List.range xs.length).flatMap fun i => (List.range span).flatMap fun k =>
            let a : Int := (xs.getD i 0 * span + k : Nat)
            let b : Int := (i * span + k : Nat)
            match d.fmt with
            | some f => blocksOf d f ⟨mantAddr e f b 0, scaleAddr e b 0⟩ a 0 len
            | none => pieces .raw ⟨rawAddr e b 0 0, 0⟩ (rawAddr d a 0 0) len
          ({ c with pieces := ps, nout := xs.length }, s))
        (fun c s => ({ c with ready := true }, s))
    | _, _ => s

/-- The pieces of the named blocks of `rows` rows, and the zero blocks up to npad, in a destination. -/
def blockPieces (d e : TensorDesc) (f : Fmt) (rows npad : Nat) (xs : List Nat) : List Piece × List (Nat × List Byte) :=
  ((List.range rows).flatMap fun (r : Nat) => (List.range xs.length).flatMap fun (i : Nat) =>
     blocksOf d f ⟨mantAddr e f r i, scaleAddr e r i⟩ r (xs.getD i 0 : Nat) 1,
   (List.range rows).flatMap fun (r : Nat) => (List.range (npad - xs.length)).flatMap fun (i : Nat) =>
     [(mantAddr e f r (xs.length + i : Nat), List.replicate (blockBytes f) 0), (scaleAddr e r (xs.length + i : Nat), [0])])

/-- GATHER BLOCKS: the named blocks of each source row, and zero blocks up to NPAD. -/
def execGatherBlocks (t : Tile) (s : State) : Out :=
  s.spxStep t opGather (some 1) fun c =>
    match SpxCmd.srcD c, SpxCmd.dstD c with
    | some ⟨some f, loc, xm, mb, so, rs, ss⟩, some e =>
      let d : TensorDesc := ⟨some f, loc, xm, mb, so, rs, ss⟩
      s.spxFetch t c
        (fun c s =>
          let npad := bits (SpxCmd.word c 12) 31 24
          let (xs, c, s) := s.readList t c (bits (SpxCmd.word c 2) 56 32) (bits (SpxCmd.word c 2) 23 0)
          let (ps, zs) := blockPieces d e f (bits (SpxCmd.word c 11) 23 0) npad (xs.take npad)
          ({ c with pieces := ps, out := zs, nout := min xs.length npad, full := c.full || decide (npad < xs.length) }, s))
        (fun c s => ({ c with ready := true }, s))
    | _, _ => s

/-! ### MERGE (R290) -/

/-- The union of two ascending lists. -/
def mergeUnion (a b : List Nat) : List Nat := sortBy (fun x y => decide (x ≤ y)) (a ++ b.filter fun x => !a.contains x)

/-- A MERGE with a rule for its outputs. -/
def State.merge (s : State) (t : Tile) (c : SpxCmd) (f : List Nat → List Nat → List Nat) : State :=
  let (a, c, s) := s.readList t c (bits (SpxCmd.word c 2) 56 32) (bits (SpxCmd.word c 2) 23 0)
  let (b, c, s) := s.readList t c (bits (SpxCmd.word c 3) 56 32) (bits (SpxCmd.word c 3) 23 0)
  s.setCmd t (SpxCmd.putList c (f a b))

/-- MERGE INTERSECT: the indices kept in both lists. -/
def execIntersect (t : Tile) (s : State) : Out :=
  s.spxStep t opMerge (some 0) fun c => s.merge t c fun a b => a.filter fun x => b.contains x

/-- MERGE UNION: the indices kept in either list. -/
def execUnion (t : Tile) (s : State) : Out := s.spxStep t opMerge (some 1) fun c => s.merge t c mergeUnion

/-- MERGE ANDNOT: the indices kept in A but not in B. -/
def execAndnot (t : Tile) (s : State) : Out :=
  s.spxStep t opMerge (some 2) fun c => s.merge t c fun a b => a.filter fun x => !b.contains x

/-! ### BUCKET (R291, R292) -/

/-- A CAC of a command with IMM 1 at the tile's banks, for its context; one that is performed takes a line slot. -/
def State.spxCac (s : State) (t : Tile) (c : SpxCmd) (off : Nat) (op : CacOp) : CacResult × State :=
  let (r, s) := s.padCac t (s.jobOf t c.ctx).val off op 1 (s.requester t c.ctx)
  (r, if r.st = .done then s.slotNet t off 8 else s)

/-- The free word's SEMDN (R292): a MISS waits for the next interval. -/
def State.bucketOwn (s : State) (t : Tile) (c : SpxCmd) : SpxCmd × State :=
  let (r, s) := s.spxCac t c (bits (SpxCmd.word c 10) 56 32) .semdn
  let miss := decide (r.cst = cstMiss)
  ({ c with owned := !miss, missed := miss, addrErr := c.addrErr || decide (r.st ≠ .done) }, s)

/-- Data of a command written, and error fill in its place. -/
def State.spxPut (s : State) (t : Tile) (c : SpxCmd) : SpxCmd × State :=
  (c.out ++ c.lost).foldl (fun p e =>
    let (bad, s) := p.2.spxWrite t (p.2.jobOf t c.ctx).val e.1 e.2 (e.2.length + 1)
    ({ p.1 with addrErr := p.1.addrErr || bad }, s)) ({ c with out := [], lost := [] }, s)

/-- CAC CNT with IMM 1 on the done word; a refusal is marked. -/
def State.spxDone (s : State) (t : Tile) (c : SpxCmd) : SpxCmd × State :=
  let (r, s) := s.spxCac t c (bits (SpxCmd.word c 1) 56 32) .cnt
  ({ c with addrErr := c.addrErr || decide (r.st ≠ .done) }, s)

/-- BUCKET: the bucket in hand takes its slot, is gathered into it and counted; then the next. -/
def execBucket (t : Tile) (s : State) : Out :=
  s.spxStep t opBucket none fun c =>
    if c.missed then s
    else if !c.owned then
      let (ws, c, s) := s.spxWords t c (bits (SpxCmd.word c 2) 56 32 + 8 * c.bucket) 1
      if !bucketOk (ws.getD 0 0) then s.setCmd t { c with cmdErr := true, ready := true }
      else
        let (c, s) := s.bucketOwn t c
        s.setCmd t c
    else match SpxCmd.srcD c, SpxCmd.dstD c with
      | some ⟨some f, loc, xm, mb, so, rs, ss⟩, some e =>
        let d : TensorDesc := ⟨some f, loc, xm, mb, so, rs, ss⟩
        s.spxFetch t c
          (fun c s =>
            let (ws, c, s) := s.spxWords t c (bits (SpxCmd.word c 2) 56 32 + 8 * c.bucket) 1
            let w := ws.getD 0 0
            let (xs, c, s) := s.readList t c (bits w 56 32) (bits w 7 0)
            let e := { e with mbase := (e.mbase + bits (SpxCmd.word c 11) 56 32 * (c.bucket % bits (SpxCmd.word c 10) 31 24)) % 2 ^ 25 }
            let (ps, zs) := blockPieces d e f (bits (SpxCmd.word c 11) 23 0) (bits w 15 8) xs
            ({ c with pieces := ps, out := zs, nout := c.nout + xs.length }, s))
          (fun c s =>
            let (c, s) := s.spxPut t c
            if c.bucket + 1 < bits (SpxCmd.word c 2) 23 0 then
              s.spxDone t { c with bucket := c.bucket + 1, owned := false, planned := false }
            else ({ c with ready := true }, s))
      | _, _ => s

/-- BUCKET_FREE_RETRY: a free word that was missed is tried again. -/
def execBucketFreeRetry (t : Tile) (s : State) : Out :=
  s.spxStep t opBucket none fun c =>
    if !c.missed then s
    else
      let (c, s) := s.bucketOwn t c
      s.setCmd t c

/-! ### Completion and abandonment (R285, R294) -/

/-- The result word of Table 12-2. -/
def resultWord (c : SpxCmd) : Word :=
  let st : Nat := if c.overlap then 4 else if c.cmdErr then 3 else if c.addrErr then 2 else if c.full then 1 else 0
  BitVec.ofNat 64 (st <<< 61 + c.pz.toNat <<< 60 + (min c.oor 0xFFFF) <<< 40 + (min c.dsc 0xFF) <<< 32 + (min c.dup 0xFF) <<< 24 + c.nout % 2 ^ 24)

/-- COMMAND_COMPLETE: the data, the result word, word 0 of the record, HEAD and the done word, in order. -/
def execCommandComplete (t : Tile) (s : State) : Out :=
  match (s.spx t).cmd with
  | none => .next s
  | some c =>
    if !s.unitRuns t || !c.ready then .next s
    else
      let job := (s.jobOf t c.ctx).val
      let (c, s) := s.spxPut t c
      let s := (s.spxWrite t job (bits (SpxCmd.word c 0) 24 0) (toBytes 8 (resultWord c).toNat) 2).2
      let s := (s.spxWrite t job c.rec_ (toBytes 8 0) 2).2
      let ring := spxRingCa t c.ctx
      let s := s.setFld ring 7 0 ((s.fld ring 7 0 + 1) % (s.fld ring 23 16 + 1))
      let s := (s.spxDone t c).2
      let s := if c.cmdErr then (s.raise (spxFlagsCa t) 3).postCtx 0x04 t c.ctx (BitVec.ofNat 64 c.rec_) else s
      let s := (s.setFld (spxStatusCa t) 63 63 0).setFld (spxStatusCa t) 31 0 (s.fld (spxStatusCa t) 31 0 + 1)
      .next (s.modSpx t fun x => { x with cmd := none })

/-- A context's command abandoned (R294). -/
def State.spxAbort (s : State) (t : Tile) (c : CtxNo) : State :=
  match (s.spx t).cmd with
  | some k =>
    if k.ctx = c then
      ((s.modSpx t fun x => { x with cmd := none }).raise (spxFlagsCa t) 5).setFld (spxStatusCa t) 63 63 0
        |>.postCtx 0x15 t c (BitVec.ofNat 64 (SpxCmd.op k))
    else s
  | none => s

/-- Whether a command of a context is in progress. -/
def State.spxBusyFor (s : State) (t : Tile) (c : CtxNo) : Bool :=
  match (s.spx t).cmd with
  | some k => k.ctx == c
  | none => false

/-- A write to SPX_RING_c (Table 12-8). -/
def State.spxRingWrite (s : State) (t : Tile) (c : CtxNo) (ca : Nat) (g : RegGroup) (v : Word) : State :=
  let far := decide (0x1800000 < bits v 56 32 + 128 * (bits v 23 16 + 1))
  if s.spxBusyFor t c || (v.getLsbD 63 && (!s.bit (ctxcfgCa t c) 7 || !Ctx.idle (s.ctx t c) || far)) then s.configError ca
  else
    let s := s.plainWrite ca g v
    if v.getLsbD 63 then s.setFld ca 7 0 0 else s

end Sys2Proof.Machine
end

