-- ==== Sys2Proof/Machine/Contexts.lean ====
section
/-! DEFINITION. Contexts from outside (R80, R99, R106, R153): commands, configuration, epoch notices, and what makes a
context EMPTY. -/

namespace Sys2Proof.Machine

/-! ### Claims (R362) -/

/-- Whether a LOAD in progress claims a register (R362). -/
def State.claims (s : State) (ca : Nat) : Bool :=
  match s.rind.load with
  | none => false
  | some l => l.recs.any fun r => match s.recSite r with
    | some site => (match ImgRec.ca r site with
      | some a => decide (a ≤ ca ∧ ca < a + r.data.length)
      | none => false)
    | none => false

/-- Whether a LOAD in progress claims a context. -/
def State.claimsCtx (s : State) (t : Tile) (c : CtxNo) : Bool :=
  match s.rind.load with
  | none => false
  | some l => l.ctxs.contains (4 * t.key + c.val)

/-! ### Emptying a context (R99, R406) -/

def ctxcmdCa (t : Tile) (c : CtxNo) : Nat := tileCa t 0x00 (0x140 + 8 * c.val)
def pressCa (t : Tile) : Nat := tileCa t 0x00 0x180

/-- One engine of an emptied context: its queues and programs gone, and a stream-in engine's tag advanced. -/
def StreamCtx.clear (x : StreamCtx) (e : Fin 3) : StreamCtx :=
  { gen := if e = 2 then x.gen else x.gen + 1, cst := x.cst, disc := x.disc, nextId := x.nextId }

/-- The stream engines of a context emptied. -/
def State.clearStreams (s : State) (t : Tile) (c : CtxNo) : State :=
  ((s.modEng t 0 c fun x => StreamCtx.clear x 0).modEng t 1 c fun x => StreamCtx.clear x 1).modEng t 2 c fun x => StreamCtx.clear x 2

/-- STR_STATUS of a context's engines at its reset values, but for the generation tag, which a reset advances (R405, R406). -/
def State.resetStreams (s : State) (t : Tile) (c : CtxNo) : State :=
  ([0, 1, 2] : List (Fin 3)).foldl (fun s e => s.modEng t e c fun x => { x with cst := 0, disc := 0 }) s

/-- PRESSED of a context cleared (R399), and a press of it in progress forgotten. -/
def State.unpress (s : State) (t : Tile) (c : CtxNo) : State :=
  let s := s.setFld (pressCa t) (60 + c.val) (60 + c.val) 0
  s.setFld (pressCa t) (52 + c.val) (52 + c.val) 0

/-- The loop counters of a context cleared. -/
def State.clearLcs (s : State) (t : Tile) (c : CtxNo) : State :=
  (List.range 8).foldl (fun s n => s.setReg (lcCa t c n) 0) s

/-- The counters of Table 4-18 of a context cleared. -/
def State.clearCounts (s : State) (t : Tile) (c : CtxNo) : State :=
  let s := ((s.setReg (cycCa t c) 0).setReg (advCa t c) 0).setReg (waitCa t c) 0
  (List.range 8).foldl (fun s k => s.setReg (stallCa t c k) 0) s

/-- A context made EMPTY: its queues emptied, its programs ended, its tags advanced, its sparse command abandoned. -/
def State.emptyCtx (s : State) (t : Tile) (c : CtxNo) : State :=
  (((s.spxAbort t c).clearStreams t c).unpress t c).modCtx t c fun _ => {}

/-- The work of a context on the shared units given up (R406): a run's later rows, a queued run, the weight tile loaded or loading
    for a run that is given up, the rows an invocation has not read, a queued invocation and the entries still to be placed.
    DEDUCED: notes/assumptions/28. -/
def State.dropWork (s : State) (t : Tile) (c : CtxNo) : State :=
  s.modTile t fun x =>
    let m := x.mxe
    let m := match Matrix.loadFor m with | some d => if d.ctx = c then Matrix.setShadow m {} else m | none => m
    let m := match m.run with | some r => if r.desc.ctx = c then { m with run := none, redo := 0 } else m | none => m
    let m := match m.queued with | some d => if d.ctx = c then { m with queued := none } else m | none => m
    let h := x.chain
    let h := match h.run with | some v => if v.ctx = c then { h with run := none } else h | none => h
    let h := match h.queued with | some v => if v.ctx = c then { h with queued := none } else h | none => h
    let h := { h with out := h.out.filter fun p => p.1 != c }
    let cur := if x.current = some c then none else x.current
    { x with mxe := m, chain := h, current := cur, lend := none }

/-! ### Context commands (Table 4-13) -/

/-- A context that starts afresh: the state of Ctx at the PC. -/
def freshCtx (st : CtxState) (pc : BitVec 13) : Ctx := { state := st, pc := pc }

/-- Whether a field that is powered, or the Rind, has yet to apply the tile's last epoch notice (R153). -/
def State.owes (s : State) (t : Tile) : Bool := (s.tile t).owed.any fun f => f == 48 || (decide (2 ≤ s.fieldState f) && decide (s.fieldState f ≤ 5))

/-- START (R99, R273, R153): refused while an epoch notice of the tile has yet to be applied, and while a LOAD claims the
    context. -/
def State.ctxStart (s : State) (t : Tile) (c : CtxNo) (pc : BitVec 13) : State :=
  let x := s.ctx t c
  let ok := (x.state == .stopped || x.state == .ended) && s.inRegion t c pc.toNat && !s.owes t && !s.claimsCtx t c
  if !ok then s.configError (ctxcmdCa t c)
  else
    let s := ((s.clearLcs t c).clearCounts t c).unpress t c
    let s := s.setReg (tileCa t 0x09 (0x140 + 8 * c.val)) (BitVec.ofNat 64 (s.fld (tileCa t 0x09 (0x120 + 8 * (s.jobOf t c).val)) 31 0))
    s.modCtx t c fun _ => freshCtx .running pc

/-- STOP: RUNNING becomes STOPPING at once. -/
def State.ctxStop (s : State) (t : Tile) (c : CtxNo) : State :=
  if s.claimsCtx t c || !((s.ctx t c).state == .running) then s.configError (ctxcmdCa t c)
  else s.modCtx t c fun x => { x with state := .stopping, goal := .stopped }

/-- RESUME: STOPPED becomes RUNNING from its PC. -/
def State.ctxResume (s : State) (t : Tile) (c : CtxNo) : State :=
  if s.claimsCtx t c || !((s.ctx t c).state == .stopped) then s.configError (ctxcmdCa t c)
  else (s.unpress t c).modCtx t c fun x => { x with state := .running }

/-- UNLOAD: a context at rest becomes EMPTY; its PC is kept. -/
def State.ctxUnload (s : State) (t : Tile) (c : CtxNo) : State :=
  let x := s.ctx t c
  if s.claimsCtx t c || !(x.state == .stopped || x.state == .ended || x.state == .fault) then s.configError (ctxcmdCa t c)
  else (s.emptyCtx t c).modCtx t c fun y => { y with pc := x.pc }

/-- A write to TIL_CTXCMD_c (Table 4-15). -/
def State.ctxcmdWrite (s : State) (t : Tile) (c : CtxNo) (v : Word) : State :=
  match bits v 18 16 with
  | 0 => s
  | 1 => s.ctxStart t c (BitVec.ofNat 13 (bits v 12 0))
  | 2 => s.ctxStop t c
  | 3 => s.ctxResume t c
  | 4 => s.ctxUnload t c
  | _ => s.configError (ctxcmdCa t c)

/-- A command to a context: a write to its TIL_CTXCMD_c, which opens the site's gate (R381); nothing answers for a field that does
    not serve (R22). -/
def State.ctxCommand (s : State) (t : Tile) (c : CtxNo) (f : State → State) : State :=
  if s.answers (ctxcmdCa t c) then f (s.modTile t fun x => { x with gated := false }) else s.caError (ctxcmdCa t c)

/-- START (R99). -/
def execStart (t : Tile) (c : CtxNo) (pc : BitVec 13) (s : State) : Out := .next (s.ctxCommand t c fun s => s.ctxStart t c pc)

/-- STOP (R99). -/
def execStop (t : Tile) (c : CtxNo) (s : State) : Out := .next (s.ctxCommand t c fun s => s.ctxStop t c)

/-- RESUME (R99, R399). -/
def execResume (t : Tile) (c : CtxNo) (s : State) : Out := .next (s.ctxCommand t c fun s => s.ctxResume t c)

/-- UNLOAD (R99, R294). -/
def execUnload (t : Tile) (c : CtxNo) (s : State) : Out := .next (s.ctxCommand t c fun s => s.ctxUnload t c)

/-! ### Register writes of chapter 4 -/

/-- A write to TIL_CTXCFG_c (R99, R279). -/
def State.ctxcfgWrite (s : State) (t : Tile) (c : CtxNo) (ca : Nat) (g : RegGroup) (v : Word) : State :=
  let clears := s.bit ca 7 && !v.getLsbD 7
  let ring := s.bit (tileCa t 0x0A (0x100 + 8 * c.val)) 63
  if !Ctx.idle (s.ctx t c) || decide (bits v 44 32 < bits v 28 16) || (clears && (ring || s.spxBusyFor t c)) then s.configError ca
  else s.plainWrite ca g v

/-- A write to SEQ_LC_c_n: accepted only while the context is STOPPED (R99). -/
def State.lcWrite (s : State) (t : Tile) (c : CtxNo) (ca : Nat) (g : RegGroup) (v : Word) : State :=
  if (s.ctx t c).state == .stopped then s.plainWrite ca g v else s.configError ca

/-- A window write to word w of a bundle (R80). -/
def State.istoreWrite (s : State) (t : Tile) (word : Nat) (ca : Nat) (v : Word) : State :=
  if allCtx.any fun c => Ctx.live (s.ctx t c) && s.inRegion t c (word / 4) then s.configError ca
  else { s.setReg ca v with ecc := tset 0 s.ecc (istoreErr t word) 0 }

/-- A write to SFU_CTL: refused where it changes the mode of a context that is neither EMPTY nor STOPPED (R142). -/
def State.vmodeWrite (s : State) (t : Tile) (ca : Nat) (g : RegGroup) (v : Word) : State :=
  let bad := allCtx.any fun c => (s.bit ca c.val != v.getLsbD c.val) && !Ctx.idle (s.ctx t c)
  if bad then s.configError ca else s.plainWrite ca g v

/-- A write to the stream-program store (R155). -/
def State.strProgWrite (s : State) (t : Tile) (c : CtxNo) (ca : Nat) (v : Word) : State :=
  if Ctx.idle (s.ctx t c) then s.setReg ca v else s.configError ca

/-- A window write to a row-state entry (R123). -/
def State.rowStateWrite (s : State) (t : Tile) (gr : Nat) (ca : Nat) (g : RegGroup) (v : Word) (collide : Bool) : State :=
  if collide then (s.raise (vchFlagsCa t) 11).postTile 0x08 t (BitVec.ofNat 64 gr) else s.plainWrite ca g v

/-- COUNTER_WRAP: a counter at 2^48 − 1 counts n more (R106). -/
def execCounterWrap (ca : Ca) (n : Fin 43) (s : State) : Out :=
  match decodeCa ca.toNat with
  | some (_, g, _) =>
    if g.tag = .counter ∧ s.answers ca.toNat ∧ s.fld ca.toNat 47 0 = 2 ^ 48 - 1 then .next (s.count ca.toNat n.val) else .next s
  | none => .next s

/-! ### Epochs (R153, R378) -/

/-- The tile whose notice it is: a field that has applied its last notice, that of its present epoch, is owed no more. -/
def State.noticeApplied (s : State) (n f : Nat) (e : BitVec 16) : State :=
  match s.tileOfLogical n with
  | some t => if s.fld (spdEpochCa t) 15 0 = e.toNat then s.modTile t fun x => { x with owed := x.owed.erase f } else s
  | none => s

/-- EPOCH_NOTICE: an epoch notice is applied by a powered field, or by the Rind to its master copy. A
    field in TEST holds it until it has loaded its copies (R378). -/
def execEpochNotice (dest : Option FieldNo) (tile : Fin 1920) (epoch : BitVec 16) (s : State) : Out :=
  let b : Body := .epochNotice tile.val epoch
  match dest with
  | none =>
    let s1 := match s.net.find? fun p => decide (p.head.dfield = 0x3C ∧ p.body = b) with
      | some p => if s.mayTake p.head b then some (s.takePacket p.head b) else none
      | none => some s
    match s1 with
    | none => .next s
    | some s => .next ({ s with epochs := tset 0 s.epochs tile.val (epoch.setWidth 64) }.noticeApplied tile.val 48 epoch)
  | some f =>
    if s.fieldState f.val = 0 ∨ s.fieldState f.val = 1 ∨ s.fieldState f.val = 6 then .next s
    else .next (s.arriveAt f.val 0x30 b fun s =>
      if s.fieldState f.val = 2 then s.modField f.val fun x => { x with notices := x.notices ++ [(tile.val, epoch)] }
      else (s.applyNotice f tile.val epoch).noticeApplied tile.val f.val epoch)

end Sys2Proof.Machine
end

