-- ==== Sys2Proof/Machine/Reduce.lean ====
section
/-! DEFINITION. In-network reduction (R190–R196): combining, slots, credits, root sinks and tree entries. -/

namespace Sys2Proof.Machine

/-! ### Combining (R190, R191) -/

/-- N of a poison lane. -/
def lanePoison : Int := -(2 ^ 95)

/-- The flags PZ and OV of a lane. -/
def lanePz : BitVec 4 := 8
def laneOv : BitVec 4 := 4

/-- A poison lane. -/
def RedLane.bad (l : RedLane) : RedLane := ⟨lanePoison, l.flags ||| lanePz⟩

/-- Two lanes of one anchor summed (R191). -/
def laneAdd (a b : RedLane) : RedLane :=
  let fl := a.flags ||| b.flags
  if a.n = lanePoison ∨ b.n = lanePoison then ⟨lanePoison, fl ||| lanePz⟩
  else
    let n := a.n + b.n
    if 2 ^ 95 - 1 < n then ⟨2 ^ 95 - 1, fl ||| laneOv⟩
    else if n < -(2 ^ 95 - 1) then ⟨-(2 ^ 95 - 1), fl ||| laneOv⟩
    else ⟨n, fl⟩

/-- Two packets of one chunk combined; `bad` makes every lane poison with PZ and the two lanes' flags, without a sum (another anchor,
    or another chunk). DESIGN CHOICE: the result keeps the anchor and the chunk number of the slot's first packet,
    notes/assumptions/133. CNT counts modulo 2^13, as its field does. -/
def redAdd (a b : RedBody) (bad : Bool) : RedBody :=
  let lanes := (List.range 10).map fun i =>
    let x := a.lanes.getD i ⟨0, 0⟩
    let y := b.lanes.getD i ⟨0, 0⟩
    if bad then RedLane.bad ⟨0, x.flags ||| y.flags⟩ else laneAdd x y
  { a with cnt := (a.cnt + b.cnt) % 8192, lanes := lanes }

/-- The lanes at which an adder's residue check failed, made poison (R191). -/
def RedBody.resid (r : RedBody) (ls : List (Fin 10)) : RedBody :=
  { r with lanes := (List.finRange 10).map fun i =>
      let l := r.lanes.getD i.val ⟨0, 0⟩
      if ls.contains i then RedLane.bad l else l }

/-! ### Tree entries -/

/-- A node's entry for a tree: its slot number base, NIN, WINL, job domain and parent (none at the root),
    and whether a root's results go to the field's optical engine (R324). -/
structure RedEntry where
  base   : Nat
  nin    : Nat
  winl   : Nat
  winpl  : Nat
  job    : Nat
  parent : Option (Nat × Nat)
  engine : Bool := false
  deriving DecidableEq, Repr

def trtCa (t : Tile) (i w : Nat) : Nat := tileCa t 0x08 (0x100 + 16 * i + 8 * w)
def rtreeCa (f : FieldNo) (k w : Nat) : Nat := stationCa f 1 (0x10000 + 16 * k + 8 * w)

/-- The mesh neighbour of a site in a direction of NET_TRT.UP, if it exists (R13, Table 8-11). -/
def upSite (t : Tile) : Nat → Option Tile
  | 1 => if tileY t < 41 then some (tileAt (tileX t) (tileY t + 1)) else none
  | 2 => if tileX t < 47 then some (tileAt (tileX t + 1) (tileY t)) else none
  | 3 => if 0 < tileY t then some (tileAt (tileX t) (tileY t - 1)) else none
  | 4 => if 0 < tileX t then some (tileAt (tileX t - 1) (tileY t)) else none
  | _ => none

/-- Entry i of a tile's router. -/
def State.trtEntry (s : State) (t : Tile) (i : Nat) : RedEntry :=
  let w := s.reg (trtCa t i 0)
  let up := bits w 42 40
  ⟨16 * i, bits w 45 43, bits w 38 36, bits w 34 32, bits w 59 58,
   some (match upSite t up with | some u => (u.field.val, u.site.val) | none => (t.field.val, 0x34)), false⟩

/-- Entry k of a station. -/
def State.rtreeEntry (s : State) (f : FieldNo) (k : Nat) : RedEntry :=
  let w := s.reg (rtreeCa f k 0)
  let up := bits w 51 46
  ⟨16 * k, bits w 57 52, bits w 45 43, bits w 42 40, bits w 59 58,
   if up < 6 then some ((fieldNo (8 * up + f.val % 8)).val, 0x34)
   else if 8 ≤ up ∧ up < 16 then some ((fieldNo (8 * (f.val / 8) + (up - 8))).val, 0x34)
   else none, !(decide (up < 6 ∨ (8 ≤ up ∧ up < 16))) && bits w 26 25 == 2⟩

/-- The number of the valid entry of a tree at a tile's router. -/
def State.trtFind (s : State) (t : Tile) (tree : Nat) : Option Nat :=
  (List.range 64).find? fun i => s.bit (trtCa t i 0) 63 && s.fld (trtCa t i 0) 57 46 == tree

/-- The valid entry of a tree at a node. -/
def State.redEntry (s : State) (field site tree : Nat) : Option RedEntry :=
  if h : site < 42 then
    let t : Tile := ⟨fieldNo field, ⟨site, h⟩⟩
    (s.trtFind t tree).map (s.trtEntry t)
  else if s.bit (rtreeCa (fieldNo field) tree 0) 63 then some (s.rtreeEntry (fieldNo field) tree) else none

/-- Slots of a node. -/
def State.redSlot (s : State) (field site key : Nat) : Option RedSlot :=
  if h : site < 42 then tget none (s.tile ⟨fieldNo field, ⟨site, h⟩⟩).redSlots key
  else tget none (s.fieldSt field).slots key

def State.setRedSlot (s : State) (field site key : Nat) (v : Option RedSlot) : State :=
  if h : site < 42 then s.modTile ⟨fieldNo field, ⟨site, h⟩⟩ fun x => { x with redSlots := tset none x.redSlots key v }
  else s.modField field fun x => { x with slots := tset none x.slots key v }

/-- Credits of a node's entry towards its parent. -/
def State.redCredit (s : State) (field site : Nat) (e : RedEntry) : Nat :=
  if h : site < 42 then s.fld (trtCa ⟨fieldNo field, ⟨site, h⟩⟩ (e.base / 16) 1) 4 0
  else tget 0 (s.fieldSt field).redCred (e.base / 16)

def State.setRedCredit (s : State) (field site : Nat) (e : RedEntry) (n : Nat) : State :=
  if h : site < 42 then s.setFld (trtCa ⟨fieldNo field, ⟨site, h⟩⟩ (e.base / 16) 1) 4 0 n
  else s.modField field fun x => { x with redCred := tset 0 x.redCred (e.base / 16) n }

/-- A flag of NET_FLAGS raised by a reduction at a node, with its reduction-error event (Table 15-15). -/
def State.redError (s : State) (field site flag : Nat) (job tree : Nat) : State :=
  (s.raise (netCa field site 8) flag).post 0x17 (some job) none field site
    (BitVec.ofNat 64 (flag <<< 56 + 10 <<< 12 + tree))

/-! ### Slots (R192, R193) -/

/-- A packet put into its chunk's slot at a node (R191–R193). -/
def State.combine (s : State) (field site : Nat) (e : RedEntry) (job : JobNo) (from_ : Option Node) (r : RedBody)
    (resid : List (Fin 10)) : State :=
  let key := e.base + r.chunk % 2 ^ e.winl
  let s := if site < 42 then s else s.telStation (fieldNo field) 17 1
  match s.redSlot field site key with
  | none => s.setRedSlot field site key (some ⟨r.chunk, 1, r, [from_], job⟩)
  | some x =>
    let late := decide (x.chunk ≠ r.chunk)
    let mix := decide (x.body.q ≠ r.q)
    let b := RedBody.resid (redAdd x.body r (late || mix)) resid
    let s := s.setRedSlot field site key (some { x with got := x.got + 1, body := b, kids := x.kids ++ [from_] })
    let s := if late then s.redError field site 5 job.val r.tree else s
    let s := if mix then s.redError field site 1 job.val r.tree else s
    if resid.isEmpty then s
    else (s.raise (netCa field site 8) 0).post 0x07 (some job.val) none field site (BitVec.ofNat 64 r.tree)

/-- A reduction packet that arrives at a router or station: combined, or dropped (R183, R192, R195). -/
def State.redArrive (s : State) (h : Head) (r : RedBody) (resid : List (Fin 10)) : State :=
  s.arrive h (.red r) h.dfield h.dsite fun s =>
  match s.redEntry h.dfield h.dsite r.tree with
    | none => s.redError h.dfield h.dsite 3 h.job.val r.tree
    | some e =>
      if e.job ≠ h.job.val then s.redError h.dfield h.dsite 3 h.job.val r.tree
      else s.combine h.dfield h.dsite e h.job (some (if h.ssite < 42 then .site (42 * h.sfield + h.ssite) else .station h.sfield)) r resid

/-- RED: a reduction packet arrives at a router or a station; the operand names the lanes whose adder fails its
    residue check. -/
def execRed (h : Head) (r : RedBody) (resid : List (Fin 10)) (s : State) : Out :=
  if s.serves h.dfield ∧ (h.dsite < 42 ∨ h.dsite = 0x34) then .next (s.redArrive h r resid) else .next s

/-- A result sent to its parent or to the root's sink. -/
def State.redOut (s : State) (field site : Nat) (e : RedEntry) (job : JobNo) (r : RedBody) : State :=
  match e.parent with
  | some (pf, ps) =>
    let s := s.setRedCredit field site e (s.redCredit field site e - 1)
    s.send (s.nodeHead job field site pf ps) (.red r)
  | none =>
    let s := if e.engine then s.setRedCredit field site e (s.redCredit field site e - 1) else s
    s.modField field fun x => { x with rootOut := x.rootOut ++ [(r.tree, job, r)] }

/-- The credits that a node returns to its children when it sends a result (R192). -/
def State.redCredits (s : State) (field site : Nat) (job : JobNo) (tree : Nat) (kids : List (Option Node)) : State :=
  kids.foldl (fun s k => match k with
    | some (.site key) => s.send (s.nodeHead job field site (key / 42) (key % 42)) (.redCredit tree)
    | some (.station g) => s.send (s.nodeHead job field site g 0x34) (.redCredit tree)
    | _ => s) s

/-- REDUCTION_RESULT_SEND: a complete slot's result goes to the parent or the root's engine, for one credit, or to
    the root's sink; the slot is freed and each child gets a credit (R192, R193). `site` none is the field's station.
    DEDUCED: notes/assumptions/49. -/
def execReductionResultSend (f : FieldNo) (site : Option SiteNo) (tree : BitVec 12) (slot : Fin 16) (s : State) : Out :=
  let site : Nat := match site with | some t => t.val | none => 0x34
  match s.redEntry f.val site tree.toNat with
  | none => .next s
  | some e =>
    match s.redSlot f.val site (e.base + slot.val) with
    | none => .next s
    | some x =>
      if x.got < e.nin ∨ ((e.parent.isSome ∨ e.engine = true) ∧ s.redCredit f.val site e = 0) then .next s
      else
        let s := s.redOut f.val site e x.job x.body
        let s := s.setRedSlot f.val site (e.base + slot.val) none
        .next (s.redCredits f.val site x.job x.body.tree x.kids)

/-- REDUCTION_CREDIT: a credit reaches a child of a tree (R193). -/
def execReductionCredit (f : FieldNo) (site : Option SiteNo) (tree : BitVec 12) (s : State) : Out :=
  let site : Nat := match site with | some t => t.val | none => 0x34
  .next (s.arriveAt f.val site (.redCredit tree.toNat) fun s =>
    match s.redEntry f.val site tree.toNat with
    | none => s
    | some e => s.setRedCredit f.val site e (min 16 (s.redCredit f.val site e + 1)))

/-- A tile's own contribution through entry i of its router (R192, R193): with NIN = 1 it leaves at once for one credit;
    otherwise it takes or joins its chunk's slot, and `resid` names the lanes at which that adder fails its check (R191). None where
    the entry is not valid or the contribution must wait. -/
def State.inject (s : State) (t : Tile) (i : Nat) (r : RedBody) (resid : List (Fin 10)) : Option State :=
  let e := s.trtEntry t i
  let job : JobNo := Fin.ofNat 4 e.job
  if !s.bit (trtCa t i 0) 63 then none
  else if e.nin = 1 then
    if s.redCredit t.field.val t.site.val e = 0 then none else some (s.redOut t.field.val t.site.val e job r)
  else match s.redSlot t.field.val t.site.val (e.base + r.chunk % 2 ^ e.winl) with
    | none => some (s.combine t.field.val t.site.val e job none r [])
    | some x => if x.chunk = r.chunk then some (s.combine t.field.val t.site.val e job none r resid) else none

/-! ### Root sinks (R194) -/

/-- A result delivered to a field's local sink (R194, R325): the update unit of a logical tile, or a ring of its
    scratchpad with an optional token; `w1` holds the ring as NET_RTREE_k word 1 does. -/
def State.sinkDeliver (s : State) (f : FieldNo) (job : JobNo) (r : RedBody) (update : Bool) (sinkt : Nat) (w1 : Word) : State :=
  match s.siteOf f sinkt with
  | none => s.post 0x05 (some job.val) none f.val 0x34 (BitVec.ofNat 64 sinkt)
  | some t =>
    if update then s.modTile t fun x => { x with sinkIn := x.sinkIn ++ [(job, r)] }
    else
      let off := 512 * bits w1 63 48 + 128 * (r.chunk % bits w1 47 32)
      let s := if s.inBounds t job.val off 128 then (s.slotNet t off 128).padStore t off (redPayload r) else s.padRefuse t job.val off
      if w1.getLsbD 31 then
        s.send { s.nodeHead job f.val 0x34 t.field.val t.site.val with dlog := false }
          (.tok (Fin.ofNat 4 (bits w1 29 28)) (BitVec.ofNat 8 (bits w1 27 20)))
      else s

/-- ROOT_SINK: the n-th root result of a station is checked against LEAVES and delivered to its sink. -/
def execRootSink (f : FieldNo) (n : Nat) (s : State) : Out :=
  match (s.fieldSt f.val).rootOut[n]? with
  | none => .next s
  | some (k, job, r) =>
    let s := s.modField f.val fun x => { x with rootOut := x.rootOut.eraseIdx n }
    let w0 := s.reg (rtreeCa f k 0)
    let short := decide (r.cnt ≠ bits w0 39 27)
    let s := if short then s.redError f.val 0x34 4 job.val k else s
    let r := if short then { r with lanes := (List.range 10).map fun i => RedLane.bad (r.lanes.getD i ⟨0, 0⟩) } else r
    if bits w0 26 25 = 2 then .next (s.send (s.nodeHead job f.val 0x34 f.val 0x33) (.red r))
    else .next (s.sinkDeliver f job r (bits w0 26 25 == 1) (bits w0 24 19) (s.reg (rtreeCa f k 1)))

/-! ### Tree entry writes (R196) -/

/-- Slots committed by the valid entries of a tile's router, but for entry i. -/
def State.trtUse (s : State) (t : Tile) (but : Option Nat) : Nat :=
  (List.range 64).foldl (fun n i => if some i ≠ but ∧ s.bit (trtCa t i 0) 63 then n + 2 ^ s.fld (trtCa t i 0) 38 36 else n) 0

/-- Slots committed by the valid entries of a station, but for entry k. -/
def State.rtreeUse (s : State) (f : FieldNo) (but : Option Nat) : Nat :=
  s.regs.foldl (fun n p =>
    let k := (p.1 - rtreeCa f 0 0) / 16
    if rtreeCa f 0 0 ≤ p.1 ∧ k < 4096 ∧ p.1 % 16 = 0 ∧ some k ≠ but ∧ p.2.getLsbD 63 then n + 2 ^ bits p.2 45 43 else n) 0

/-- Whether a slot of a node's entry is occupied. -/
def slotsHeld (m : Table (Option RedSlot)) (base : Nat) : Bool := m.any fun p => p.1 / 16 == base / 16 && p.2.isSome

/-- A write to NET_TRT_i word 0 (R7, R196, Table 8-11). A direction in which the site has no neighbour is a reserved
    code of UP there, as 0b111 is everywhere. -/
def State.trtWrite (s : State) (t : Tile) (i : Nat) (ca : Nat) (g : RegGroup) (v : Word) : State :=
  let old := s.reg ca
  let up := bits v 42 40
  let v := if 1 ≤ up ∧ up ≤ 4 ∧ (upSite t up).isNone then setBits v 42 40 7 else v
  let new := storeFields g.fields old v
  if new.getLsbD 63 ∧ 32 < s.trtUse t (some i) + 2 ^ bits new 38 36 then s.configError ca
  else if !new.getLsbD 63 ∧ old.getLsbD 63 ∧ slotsHeld (s.tile t).redSlots (16 * i) then s.configError ca
  else
    let s := s.plainWrite ca g v
    if s.bit ca 63 ∧ !old.getLsbD 63 then s.setFld (trtCa t i 1) 4 0 (2 ^ s.fld ca 34 32) else s

/-- Whether the two words of a root entry name a ring that leaves the scratchpad (Table 8-12). -/
def ringBad (w0 w1 : Word) : Bool :=
  bits w0 51 46 == 0x3F && bits w0 26 25 == 0 && decide (0x1800000 < 512 * bits w1 63 48 + 128 * bits w1 47 32)

/-- A write to NET_RTREE_k (R7, R196, Table 8-12). The station's own row and column are reserved codes of UP there, as
    0x06 is everywhere. -/
def State.rtreeWrite (s : State) (f : FieldNo) (k : Nat) (second : Bool) (ca : Nat) (g : RegGroup) (v : Word) : State :=
  let own := decide (bits v 51 46 = f.val / 8 ∨ bits v 51 46 = 8 + f.val % 8)
  let v := if !second && own then setBits v 51 46 6 else v
  let old := s.reg (rtreeCa f k 0)
  let new := storeFields g.fields (s.reg ca) v
  let w0 := if second then old else new
  let w1 := if second then new else s.reg (rtreeCa f k 1)
  if ringBad w0 w1 then s.configError ca
  else if second then s.plainWrite ca g v
  else if new.getLsbD 63 ∧ 512 < s.rtreeUse f (some k) + 2 ^ bits new 45 43 then s.configError ca
  else if !new.getLsbD 63 ∧ old.getLsbD 63 ∧ slotsHeld (s.fieldSt f.val).slots (16 * k) then s.configError ca
  else
    let s := s.plainWrite ca g v
    if s.bit ca 63 ∧ !old.getLsbD 63 then
      let e := s.rtreeEntry f k
      s.modField f.val fun x => { x with redCred := tset 0 x.redCred k (2 ^ if e.engine then e.winl else e.winpl) }
    else s

end Sys2Proof.Machine
end

