-- ==== Sys2Proof/Machine/Fabric.lean ====
section
/-! DEFINITION. The Isobar fabric (chapter 14): links, routing, delivery, module trees, training and fabric time. -/

namespace Sys2Proof.Machine

/-! ### Names -/

/-- The field of a half-port's engine. -/
def hpField (h : Fin 96) : FieldNo := fieldNo (h.val / 2)
def hpNo (h : Nat) : Fin 96 := Fin.ofNat 96 h
/-- The fibres of an engine's connector on which a lane of a half-port transmits and receives, from 0 (R14, R437); fibre p is
    position p + 1 (R436). -/
def laneTx (h : Fin 96) (lane : Fin 16) : Nat := 8 * (h.val % 2) + lane.val / 4
def laneRx (h : Fin 96) (lane : Fin 16) : Nat := laneTx h lane + 4

/-- The wavelength of a lane, in nm (R437). -/
def laneWavelength (lane : Fin 16) : Nat := 1271 + 20 * (lane.val % 4)

/-- The row and column of a field's fibre connector on the top cover (R436). -/
def connectorAt (f : FieldNo) : Nat × Nat := (f.val / 8, f.val % 8)

/-- A register of a half-port. -/
def hpCa (h : Fin 96) (off : Nat) : Nat := engineCa (hpField h) (1 + h.val % 2) off
def hpstatCa (h : Fin 96) : Nat := hpCa h 0x08
def engFlagsCa (f : FieldNo) : Nat := engineCa f 0 0x08

def State.engine (s : State) (f : FieldNo) : EngSt := tget {} s.engines f.val
def State.modEngine (s : State) (f : FieldNo) (g : EngSt → EngSt) : State :=
  { s with engines := tset {} s.engines f.val (g (s.engine f)) }
def State.hport (s : State) (h : Fin 96) : HpSt := tget {} s.hports h.val
def State.modHp (s : State) (h : Fin 96) (g : HpSt → HpSt) : State :=
  { s with hports := tset {} s.hports h.val (g (s.hport h)) }

def State.hpState (s : State) (h : Fin 96) : Nat := s.fld (hpstatCa h) 2 0
def State.hpRole (s : State) (h : Fin 96) : Nat := s.fld (hpCa h 0) 1 0

/-- A counter of an optical engine advanced (Table 18-1). -/
def State.telEng (s : State) (f : FieldNo) (k n : Nat) : State := s.count (engineCa f 4 (0x100 + 8 * k)) n

/-- An event of an engine. -/
def State.postEng (s : State) (code : Nat) (f : FieldNo) (job : Option Nat) (detail : Nat) : State :=
  s.post code job none f.val 0x33 (BitVec.ofNat 64 detail)

/-- The fabric channel of a packet at a hop: 5·m + k (R309). -/
def fabChannel (b : Body) (hop : Nat) : Nat := 5 * (3 - vcOf (kindOf b)) + hop

/-- Free credits of a channel: of its 8 reserved flits and of the 1,888 shared (R181, R309). -/
def freeCredits (used : List Nat) (ch : Nat) : Nat :=
  (8 - used.getD ch 0) + (1888 - used.foldl (fun n u => n + (u - 8)) 0)

/-- DETAIL of an event about a fabric packet in Table 15-15's layout for code 0x17. -/
def fabDetail (bit : Nat) (p : FabPkt) : Nat :=
  1 <<< 63 + bit <<< 56 + p.head.smod <<< 32 + p.head.dmod <<< 16 + kindOf p.body <<< 12 +
    (match p.body with | .red r => r.tree | _ => 0)

/-! ### Half-ports: failure, receive and resend (R307–R309, R329) -/

/-- The buffers of a half-port as link training leaves them; its lanes, their recalibration and the stream of frames go on. -/
def HpSt.restart (x : HpSt) : HpSt :=
  { rxBad := x.rxBad, recalQ := x.recalQ, recal := x.recal, intact := x.intact, rxBits := x.rxBits, rxLost := x.rxLost,
    rxLen := x.rxLen, rxMap := x.rxMap, rounds := x.rounds, errs := x.errs, calAt := x.calAt, echo := x.echo, allow := x.allow,
    told := x.told, sent := x.sent }

/-- A module that is not the time root is not locked while its parent half-port is not UP (R331).
    DEDUCED: notes/assumptions/83. -/
def State.parentDown (s : State) (h : Fin 96) : State :=
  if s.bit (fabricCa 0x20) 8 || s.fld (fabricCa 0x20) 6 0 != h.val then s
  else { s.setFld (fabricCa 0x28) 63 63 0 with sync := {} }

/-- The packet that an engine holds, as far as its head flit and the flits it has collected say. -/
def FabIn.pkt (x : FabIn) : FabPkt := fabParse x.head (x.kept.drop 1)

/-- Whether the head flit of a packet still lies in the buffer. -/
def FabIn.hasHead (x : FabIn) : Bool := decide (0 < x.flits.length ∧ x.flits.length = x.got)

/-- Whether a packet's flits go out in part: its head flit has left and others are to come. -/
def FabIn.begun (x : FabIn) : Bool := !FabIn.hasHead x && decide (0 < x.flits.length + (x.n - x.got)) && x.kept.isEmpty

/-- A packet whose half-port has failed: it is routed anew, or discarded where its head flit has left. -/
def FabIn.reroute (h : Fin 96) (x : FabIn) : FabIn :=
  if x.out = .port h then { x with out := if FabIn.hasHead x then .open_ else .discard } else x

/-- The packets at every engine that were to leave by a half-port routed anew. -/
def State.rerouteAll (s : State) (h : Fin 96) : State :=
  (List.finRange 48).foldl (fun s e =>
    if (s.engine e).inbox.any fun x => x.out == .port h then
      s.modEngine e fun y => { y with inbox := y.inbox.map (FabIn.reroute h) }
    else s) s

/-- The flits in a half-port's receive buffer, and the packets there discarded. -/
def State.rxHeld (s : State) (h : Fin 96) : Nat :=
  ((s.engine (hpField h)).inbox.filter fun x => x.from_ == .port h.val).foldl (fun n x => n + x.flits.length) 0
def State.rxDrop (s : State) (h : Fin 96) : State :=
  s.modEngine (hpField h) fun x => { x with inbox := x.inbox.filter fun y => !(y.from_ == .port h.val) }

/-- A half-port in UP enters FAILED (R329).
    DEDUCED: notes/assumptions/79. -/
def State.hpFail (s : State) (h : Fin 96) : State :=
  let f := hpField h
  let lost := (s.hport h).replay.length + s.rxHeld h
  let s := (s.setFld (hpstatCa h) 2 0 6).bumpSat (hpstatCa h) 63 48 lost
  let s := (s.modHp h HpSt.restart).rxDrop h
  (((s.rerouteAll h).parentDown h).raise (engFlagsCa f) 5).postEng 0x0E f none (s.fld (hpCa h 0x18) 47 32 <<< 48 + 3 <<< 40 + h.val <<< 32)

/-- Flits of a packet freed in the receive buffer that holds them. -/
def State.freeRx (s : State) (x : FabIn) (n : Nat) : State :=
  match x.from_ with
  | .here => s
  | .port p => s.modHp (hpNo p) fun y => { y with freed := y.freed.set x.ch (y.freed.getD x.ch 0 + n) }

/-- The identity in a control slot copied, with the neighbour event where it differs (R326). -/
def State.neighbour (s : State) (h : Fin 96) (c : CtlSlot) : State :=
  let nbr : Word := BitVec.ofNat 64 (1 <<< 63 + c.modv.toNat <<< 62 + c.modid.toNat <<< 32 + c.role.toNat <<< 8 + c.hp.toNat)
  let same := decide (setBits (s.reg (hpCa h 0x18)) 63 63 1 = nbr ∧ s.reg (hpCa h 0x10) = c.serial)
  let s := (s.setReg (hpCa h 0x18) nbr).setReg (hpCa h 0x10) c.serial
  if same then s else s.postEng 0x0F (hpField h) none h.val

/-- Acknowledgement and NAK of a control slot: the flits up to ACKSEQ released; a resend due (R308). -/
def HpSt.ack (x : HpSt) (c : CtlSlot) : HpSt :=
  let released (q : BitVec 16) : Bool := decide ((c.ackseq - q).toNat < 32768)
  let x := if c.ackv then { x with replay := x.replay.filter fun e => !released e.1 } else x
  if c.nak then { x with resend := some c.ackseq } else x

/-- The CRED counts of a control slot: flits freed in the peer's buffer since the last (R309). -/
def HpSt.credit (x : HpSt) (c : CtlSlot) : HpSt :=
  let used := (List.range 20).map fun i => x.used.getD i 0 - (c.cred.getD i 0 - x.cred.getD i 0).toNat
  { x with used := used, cred := (List.range 20).map fun i => c.cred.getD i 0 }

/-- Times of a control slot of the time parent, which is UP: θ is added to the interval's (R332). -/
def State.sample (s : State) (h : Fin 96) (c : CtlSlot) : State :=
  if s.bit (fabricCa 0x20) 8 || s.fld (fabricCa 0x20) 6 0 != h.val || s.hpState h != 5 || !c.tsv then s
  else
    let d (a b : Word) : Int := (a - b).toInt
    { s with sync := { s.sync with sum := s.sync.sum + (d c.trxe c.techo - d s.now c.ttx), count := s.sync.count + 1 } }

/-- A flit accepted: the head flit of a packet, one hop on, begins a packet in its fabric channel's buffer; any other goes to the
    packet of its class that is still arriving (R309, R317). -/
def State.flitIn (s : State) (h : Fin 96) (w : FabFlit) : State :=
  let m := vcOf (flitKind w)
  let arriving (x : FabIn) : Bool := x.from_ == .port h.val && 3 - x.ch / 5 == m && decide (x.got < x.n)
  let e := hpField h
  match (s.engine e).inbox.find? arriving with
  | some x =>
    let s := s.telEng e (40 + 20 * (h.val % 2) + x.ch) 1
    s.modEngine e fun y =>
      { y with inbox := y.inbox.map fun z => if arriving z then { z with got := z.got + 1, flits := z.flits ++ [w] } else z }
  | none =>
    let hop := flitGet w 143 141
    let ch := 5 * (3 - m) + min hop 4
    let w := flitHop w (hop + 1)
    let s := s.telEng e (40 + 20 * (h.val % 2) + ch) 1
    s.modEngine e fun y =>
      { y with inbox := y.inbox ++ [{ from_ := .port h.val, ch := ch, head := w, n := flitCount w, got := 1, flits := [w] }] }

/-- One flit slot of a frame: accepted in sequence and intact, or discarded with a NAK (R308). -/
def State.takeFlit (s : State) (h : Fin 96) (seq : BitVec 16) (w : FabFlit) (good : Bool) : State :=
  let x := s.hport h
  if seq ≠ x.rxSeq ∨ !good then
    if (seq - x.rxSeq).toNat < 32768 then s.modHp h fun x => { x with nak := true } else s
  else (s.modHp h fun x => { x with rxSeq := x.rxSeq + 1, nak := false }).flitIn h w

/-- The flits of a frame in order from FSEQ, each with whether it is good. -/
def State.takeFlits (s : State) (h : Fin 96) (seq : BitVec 16) : List (FabFlit × Bool) → State
  | [] => s
  | (w, good) :: r => State.takeFlits (s.takeFlit h seq w good) h (seq + 1) r

/-- The transmitter's stripe set: every lane but those the peer has failed or has under recalibration (R307). -/
def stripeSet (c : CtlSlot) : Nat :=
  ((BitVec.allOnes 16 &&& ~~~c.rxbad) &&& ~~~(match c.rcl with | some l => (1 : BitVec 16) <<< l.val | none => 0)).toNat

/-! ### Codewords and frames (R305–R307) -/

/-- Symbols of 10 bits in a frame, and in a slot of it: 37 slots of 160 bytes (R306). -/
def frameSymbols : Nat := 4736
def slotSymbols : Nat := 128

/-- Slot i of a frame's bits, and whether a symbol of it is lost.
    DEDUCED: notes/assumptions/138. -/
def slotBits (frame i : Nat) : FabFlit := BitVec.ofNat 1280 (frame >>> (1280 * i))
def slotLost (lost i : Nat) : Bool := (lost >>> (slotSymbols * i)) % 2 ^ slotSymbols != 0

/-- Byte j of a control slot on: n bytes as a number. -/
def slotNum (c : FabFlit) (j n : Nat) : Nat := flitGet c (8 * (j + n) - 1) (8 * j)

/-- Whether a control slot's CRC holds (R307). -/
def ctlGood (c : FabFlit) : Bool := crc32 (toBytes 156 (slotNum c 0 156)) == BitVec.ofNat 32 (slotNum c 156 4)

/-- The fields of a control slot (Table 14-1). -/
def ctlOf (c : FabFlit) : CtlSlot :=
  let w (j : Nat) : Word := BitVec.ofNat 64 (slotNum c j 8)
  let r := slotNum c 34 1
  { fseq := BitVec.ofNat 16 (slotNum c 0 2)
    valid := BitVec.ofNat 36 (slotNum c 2 5)
    ackv := flitGet c 56 56 == 1
    nak := flitGet c 57 57 == 1
    ackseq := BitVec.ofNat 16 (slotNum c 8 2)
    tsv := flitGet c 58 58 == 1
    modv := flitGet c 59 59 == 1
    cred := (List.range 20).map fun i => BitVec.ofNat 8 (slotNum c (10 + i) 1)
    txmap := BitVec.ofNat 16 (slotNum c 30 2)
    rxbad := BitVec.ofNat 16 (slotNum c 32 2)
    rcl := if h : r < 16 then some ⟨r, h⟩ else none
    role := BitVec.ofNat 2 (slotNum c 35 1)
    ttx := w 36
    techo := w 44
    trxe := w 52
    serial := w 60
    modid := BitVec.ofNat 16 (slotNum c 68 2)
    hp := BitVec.ofNat 7 (slotNum c 70 1) }

/-- The flits of a frame whose control slot is c: those of the flit slots that its VALID map names, each with whether it has
    arrived and its link CRC holds (R306, R308). -/
def frameFlits (c : CtlSlot) (frame lost : Nat) : List (FabFlit × Bool) :=
  ((List.range 36).filter fun i => c.valid.getLsbD i).map fun i =>
    let w := slotBits frame (i + 1)
    (w, !slotLost lost (i + 1) && fabFlitGood w)

/-- The control slot of some fields, under its CRC (Table 14-1, R307). -/
def ctlBits (c : CtlSlot) : FabFlit :=
  let bs : List (Nat × Nat) :=
    [(2, c.fseq.toNat), (5, c.valid.toNat), (1, c.ackv.toNat + 2 * c.nak.toNat + 4 * c.tsv.toNat + 8 * c.modv.toNat), (2, c.ackseq.toNat)] ++
    ((List.range 20).map fun i => (1, (c.cred.getD i 0).toNat)) ++
    [(2, c.txmap.toNat), (2, c.rxbad.toNat), (1, match c.rcl with | some l => l.val | none => 0xFF), (1, c.role.toNat),
     (8, c.ttx.toNat), (8, c.techo.toNat), (8, c.trxe.toNat), (8, c.serial.toNat), (2, c.modid.toNat), (1, c.hp.toNat)]
  let n := (bs.foldl (fun (p : Nat × Nat) f => (p.1 + f.2 <<< (8 * p.2), p.2 + f.1)) (0, 0)).1
  BitVec.ofNat 1280 (n + (crc32 (toBytes 156 n)).toNat <<< 1248)

/-- The flits that a half-port's next frame carries: at most 36 of those that no frame has carried (R306, R308). -/
def HpSt.nextFlits (x : HpSt) : List (BitVec 16 × FabFlit) := (x.replay.drop (x.replay.length - x.toSend)).take 36

/-- The control slot of a half-port's next frame with n flits from a sequence number on (Table 14-1). -/
def State.ctlOut (s : State) (h : Fin 96) (fseq : BitVec 16) (n : Nat) : CtlSlot :=
  let x := s.hport h
  let e := x.echo.getD (0, 0)
  { fseq := fseq
    valid := BitVec.ofNat 36 (2 ^ n - 1)
    ackv := s.hpState h == 5
    nak := x.nak
    ackseq := x.rxSeq - 1
    tsv := x.echo.isSome
    modv := s.bit isoModidCa 16
    cred := x.freed.map (BitVec.ofNat 8)
    txmap := x.allow
    rxbad := x.rxBad
    rcl := x.recal.map (·.1)
    role := BitVec.ofNat 2 (s.hpRole h)
    ttx := s.now
    techo := e.1
    trxe := e.2
    serial := Config.serial
    modid := BitVec.ofNat 16 s.moduleId
    hp := BitVec.ofNat 7 h.val }

/-- A half-port sends a frame: its control slot, the flits due, and idle slots. It goes over the stripe set that the frame before
    announced, and announces the lanes that the peer's last control slot allows (R306–R308).
    DESIGN CHOICE: one goes out for each that comes in, notes/assumptions/141. -/
def State.sendFrame (s : State) (h : Fin 96) : State :=
  let x := s.hport h
  let fs := HpSt.nextFlits x
  let c := ctlBits (s.ctlOut h ((fs.map (·.1)).headD x.txSeq) fs.length)
  (s.modHp h fun x => { x with
    toSend := min x.toSend x.replay.length - fs.length
    told := x.allow
    sent := c :: (fs.map (·.2) ++ List.replicate (36 - fs.length) 0) }).setFld (hpstatCa h) 31 16 x.told.toNat

/-- A frame received whole: its control slot's effects, then its flits (R306–R309, R326, R329). -/
def State.takeFrame (s : State) (h : Fin 96) (frame lost : Nat) : State :=
  let st := s.hpState h
  if slotLost lost 0 || !ctlGood (slotBits frame 0) then
    let s := s.modHp h fun x => { x with failed := x.failed + 1, nak := decide (st = 5) }
    if st = 5 ∧ 4 ≤ (s.hport h).failed then s.hpFail h else s
  else
    let c := ctlOf (slotBits frame 0)
    let moved := decide (s.reg (hpCa h 0x10) ≠ c.serial ∨ s.fld (hpCa h 0x18) 47 32 ≠ c.modid.toNat)
    let s := (s.modHp h fun x => { x with failed := 0, intact := min 3 (x.intact + 1), rxMap := c.txmap, allow := BitVec.ofNat 16 (stripeSet c)
                                          echo := some (c.ttx, s.now) }).neighbour h c
    let s := s.sample h c
    if st ≠ 5 then s
    else if moved then s.hpFail h
    else (s.modHp h fun x => HpSt.credit (HpSt.ack x c) c).takeFlits h c.fseq (frameFlits c frame lost)

/-- The lanes of a stripe set, in ascending order. -/
def stripeLanes (m : BitVec 16) : List Nat := (List.range 16).filter fun l => m.getLsbD l

/-- The symbol errors of the last 2^20 ns with those of a codeword at tick t, by lane (R328). -/
def HpSt.note (x : HpSt) (t : Nat) (bad : List (Fin 544)) : HpSt :=
  let lanes := stripeLanes x.rxMap
  { x with errs := (x.errs.filter fun e => decide (t < e.2 + 2 ^ 20)) ++ bad.filterMap fun i => lanes[i.val % lanes.length]?.map fun l => (l, t) }

/-- The symbol errors that the code corrects, counted for the lanes the symbols came by: the symbols of a codeword are dealt in
    turn to the lanes of the frame's stripe set (R305). -/
def State.countErrors (s : State) (h : Fin 96) (bad : List (Fin 544)) : State :=
  let lanes := stripeLanes (s.hport h).rxMap
  bad.foldl (fun s i => match lanes[i.val % lanes.length]? with
    | some l => s.bumpSat (engineCa (hpField h) 4 (0x800 + 8 * (16 * (h.val % 2) + l))) 31 0 1
    | none => s) s

/-- A codeword received: up to 15 wrong symbols are corrected; with more, every symbol it carries is lost. Its message symbols go
    on the stream of frames (R305, R306). -/
def State.takeCodeword (s : State) (h : Fin 96) (c : Codeword) : State :=
  if !(3 ≤ s.hpState h && s.hpState h ≤ 5) then s
  else
    let bad := c.bad.eraseDups
    let lost := decide (15 < bad.length)
    let s :=
      if lost then s.bumpSat (hpCa h 0x20) 31 20 1
      else if bad.isEmpty then s
      else ((s.bumpSat (hpCa h 0x20) 63 32 1).countErrors h bad).modHp h fun x => HpSt.note x s.rind.ticks bad
    let x := s.hport h
    let bits := x.rxBits + c.msg.toNat <<< (10 * x.rxLen)
    let gone := x.rxLost + (if lost then (2 ^ 514 - 1) <<< x.rxLen else 0)
    let len := x.rxLen + 514
    if len < frameSymbols then s.modHp h fun x => { x with rxBits := bits, rxLost := gone, rxLen := len }
    else
      let s := s.modHp h fun x =>
        { x with rxBits := bits >>> (10 * frameSymbols), rxLost := gone >>> frameSymbols, rxLen := len - frameSymbols }
      (s.sendFrame h).takeFrame h (bits % 2 ^ (10 * frameSymbols)) (gone % 2 ^ frameSymbols)

/-- FRAME (R305–R309): codewords received on a half-port, up to the end of a frame or of several; each frame that they complete
    takes effect. -/
def execFrame (h : Fin 96) (cws : List Codeword) (s : State) : Out :=
  if s.engineOn (hpField h) then .next (cws.foldl (fun s c => s.takeCodeword h c) s) else .next s

/-- FLIT_RESEND (R308, R329): the flits after ACKSEQ are sent again from the replay buffer; RETRYMAX resends of one flit in
    a row fail the half-port. -/
def execFlitResend (h : Fin 96) (s : State) : Out :=
  let x := s.hport h
  match x.resend with
  | none => .next s
  | some q =>
    let n := x.replay.length
    if !s.engineOn (hpField h) || s.hpState h != 5 || n == 0 then .next (s.modHp h fun x => { x with resend := none })
    else
      let again := if (x.replay.map (·.1)).head? = some (q + 1) then x.again + 1 else 1
      let due := x.replay.countP fun e => !decide ((q - e.1).toNat < 32768)
      let s := (s.modHp h fun x => { x with resend := none, again := again, toSend := max x.toSend due }).bumpSat (hpCa h 0x20) 15 0 n
      .next (if s.fld (engineCa (hpField h) 0 0) 55 48 ≤ again then s.hpFail h else s)

/-! ### Routing (R310, R317–R319) -/

/-- What an engine knows of a half-port: its own as they are, others as last told (R330).
    DEDUCED: notes/assumptions/80. -/
def State.hpView (s : State) (e : FieldNo) (h : Fin 96) : HpView :=
  if hpField h = e then ⟨s.hpState h == 5, (s.hport h).used⟩ else tget {} (s.engine e).view h.val

/-- UP for an engine: state UP and ROLE local or global (R317). -/
def State.hpUp (s : State) (e : FieldNo) (h : Nat) : Bool :=
  let h := hpNo h
  (s.hpView e h).up && (s.hpRole h == 1 || s.hpRole h == 2)

/-- The UP candidates for a group, and for a member of the own group. -/
def State.groupCand (s : State) (e : FieldNo) (g : Nat) : List Nat :=
  let w := s.reg (engineCa e 0 (0x1000 + 8 * g))
  ((if w.getLsbD 7 then [bits w 6 0] else []) ++ (if w.getLsbD 15 then [bits w 14 8] else [])).filter (s.hpUp e)
def State.memberCand (s : State) (e : FieldNo) (m : Nat) : List Nat :=
  let w := s.reg (engineCa e 0 (0x3000 + 8 * m))
  (if w.getLsbD 7 then [bits w 6 0] else []).filter (s.hpUp e)

/-- The module's group. -/
def State.ownGroup (s : State) : Nat := s.moduleId / 64

/-- The target group of a packet. -/
def FabPkt.target (p : FabPkt) : Nat := if p.val then p.igrp else p.head.dmod / 64

/-- A packet's UP candidates. -/
def State.cand (s : State) (e : FieldNo) (p : FabPkt) : List Nat :=
  if FabPkt.target p = s.ownGroup then s.memberCand e (p.head.dmod % 64) else s.groupCand e (FabPkt.target p)

/-- The next intermediate group of the rotating counter (R318). -/
def State.nextGroup (s : State) (e : FieldNo) (dg : Nat) : Option Nat :=
  ((List.range 1024).map fun i => ((s.engine e).rotor + 1 + i) % 1024).find? fun g =>
    g != s.ownGroup && g != dg && !(s.groupCand e g).isEmpty

/-- Flits held for a half-port in a channel, and its free credits, as an engine knows them. -/
def State.held (s : State) (e : FieldNo) (ch h : Nat) : Nat := (s.hpView e (hpNo h)).used.getD ch 0
def State.creditsOf (s : State) (e : FieldNo) (ch h : Nat) : Nat := freeCredits (s.hpView e (hpNo h)).used ch

/-- The lowest count of flits held for some candidates. -/
def State.leastHeld (s : State) (e : FieldNo) (ch : Nat) (c : List Nat) : Nat :=
  c.foldl (fun n h => min n (s.held e ch h)) (s.held e ch (c.headD 0))

/-- R318 at a source engine: the packet, perhaps on a Valiant route, and the counter moved on. -/
def State.valiant (s : State) (e : FieldNo) (p : FabPkt) : FabPkt × State :=
  match s.nextGroup e (p.head.dmod / 64) with
  | none => (p, s)
  | some g =>
    let ch := fabChannel p.body p.hop
    let c := s.cand e p
    let far := !c.isEmpty && decide (2 * s.leastHeld e ch (s.groupCand e g) + s.fld (engineCa e 0 0) 15 8 < s.leastHeld e ch c)
    (if far then { p with val := true, igrp := g } else p, s.modEngine e fun x => { x with rotor := g })

/-- The choice among candidates (R317). -/
def State.chooseHp (s : State) (e : FieldNo) (p : FabPkt) (c : List Nat) : Nat :=
  if vcOf (kindOf p.body) ≤ 1 then
    let tree := match p.body with | .red r => r.tree | _ => 0
    c.getD ((p.head.smod + p.head.dmod + tree) % c.length) 0
  else
    let ch := fabChannel p.body p.hop
    c.foldl (fun b h => if s.creditsOf e ch b < s.creditsOf e ch h then h else b) (c.headD 0)

/-- The UP local half-port that comes next after one, wrapping (R319). -/
def State.nextLocal (s : State) (e : FieldNo) (h : Nat) : Option Nat :=
  ((List.range 96).map fun i => (h + 1 + i) % 96).find? fun i => s.hpUp e i && s.hpRole (hpNo i) == 1

/-- The route of a packet for another module: the half-port it leaves by, or none where it is discarded (R317–R319). -/
def State.route (s : State) (e : FieldNo) (source : Bool) (p : FabPkt) : Option Nat × FabPkt × State :=
  let og := s.ownGroup
  let dg := p.head.dmod / 64
  let p := if p.val ∧ p.igrp = og then { p with val := false } else p
  if 5 ≤ p.hop then (none, p, s)
  else
    let (p, s) := if source && decide (2 ≤ vcOf (kindOf p.body)) && s.bit (engineCa e 0 0) 0 && dg != og then s.valiant e p else (p, s)
    let c := s.cand e p
    if !c.isEmpty then (some (s.chooseHp e p c), p, s)
    else if FabPkt.target p ≠ og ∧ p.hop ≤ 1 ∧ p.val = false then
      match s.nextGroup e dg with
      | some g =>
        let p := { p with val := true, igrp := g }
        let s := s.modEngine e fun x => { x with rotor := g }
        (some (s.chooseHp e p (s.cand e p)), p, s)
      | none => (none, p, s)
    else if FabPkt.target p = og ∧ p.hop ≤ 3 then
      (s.nextLocal e (s.fld (engineCa e 0 (0x3000 + 8 * (p.head.dmod % 64))) 6 0), p, s)
    else (none, p, s)

/-- A gust link of an engine. -/
def gustCa (e : FieldNo) (l : Nat) : Nat := engineCa e 0 (0x100 + 8 * l)

/-- The gust links from one engine to another: the column link, then the row link (R310). -/
def gustPath (a b : FieldNo) : List (FieldNo × Nat) :=
  let m := fieldNo (8 * (b.val / 8) + a.val % 8)
  (if a.val / 8 = b.val / 8 then [] else [(a, b.val / 8)]) ++ (if a.val % 8 = b.val % 8 then [] else [(m, 6 + b.val % 8)])

/-- Whether every link of a gust path is in service and its engines are on.
    DEDUCED: notes/assumptions/82. -/
def State.gustUp (s : State) (a b : FieldNo) : Bool :=
  s.engineOn b.val && (gustPath a b).all fun l => s.engineOn l.1.val && s.fld (gustCa l.1 l.2) 2 0 == 2

/-- Flits counted on the gust links of a path. -/
def State.countGust (s : State) (a b : FieldNo) (n : Nat) : State :=
  (gustPath a b).foldl (fun s l => s.telEng l.1 (80 + l.2) n) s

/-- A packet put among those an engine holds, as its own: its flits, with the ECRC (R313, R314). -/
def State.engSend (s : State) (e : FieldNo) (p : FabPkt) : State :=
  let fs := fabFlits p
  s.modEngine e fun x => { x with inbox := x.inbox ++
    [{ from_ := .here, ch := fabChannel p.body p.hop, head := fs.headD 0, n := fs.length, got := fs.length, flits := fs }] }

/-- The head of a packet that an engine forms for another module. -/
def State.engHead (s : State) (e : FieldNo) (job : JobNo) (dmod dfield dsite tag : Nat) : Head :=
  { s.nodeHead job e.val 0x33 dfield dsite with ntag := s.stationTag e job, xm := true, tag := tag, dmod := dmod }

/-- A request that an engine answers with a status on the module's behalf (R319); any other packet is dropped. -/
def State.engRefuse (s : State) (e : FieldNo) (h : Head) (b : Body) (st : NStatus) : State :=
  match answerOf st b with
  | some a =>
    let h := s.engHead e h.job h.smod h.sfield h.ssite h.tag
    s.engSend e { head := h, body := a, addr := addrField h a }
  | none => s

/-- A packet with no route (R319). -/
def State.noRoute (s : State) (e : FieldNo) (p : FabPkt) : State :=
  let s := (s.raise (engFlagsCa e) 1).postEng 0x18 e (some p.head.job.val) (p.head.smod <<< 32 + p.head.dmod <<< 16 + kindOf p.body)
  s.engRefuse e p.head p.body .addrErr

/-- Whether an earlier packet of the same buffer lies before the n-th packet at an engine: those of a fabric channel leave it in the
    order in which they came. DEDUCED: notes/assumptions/79. -/
def EngSt.preceded (y : EngSt) (n : Nat) (x : FabIn) : Bool := (y.inbox.take n).any fun z => z.from_ == x.from_ && z.ch == x.ch

/-- A flit that waits for a half-port: its engine and place there, its fabric channel on the link, the input it comes by, and
    whether its packet has begun to leave. -/
structure FabMove where
  e     : FieldNo
  n     : Nat
  ch    : Nat
  input : Nat
  begun : Bool
  deriving DecidableEq, Repr

/-- The input of a half-port's engine by which a packet comes: its own spine port, its own half-ports, its row links and its column
    links. -/
def FabIn.input (x : FabIn) (e d : FieldNo) : Nat :=
  if e = d then (match x.from_ with | .here => 0 | .port p => 1 + p % 2)
  else if e.val % 8 ≠ d.val % 8 then 3 + e.val % 8
  else 11 + e.val / 8

/-- Whether a flit that waits for a half-port may go: the half-port is UP, the gust links on the way are in service, the replay
    buffer has room and the fabric channel has a credit (R308–R310). -/
def State.fabFree (s : State) (e : FieldNo) (h : Fin 96) (ch : Nat) : Bool :=
  s.hpState h == 5 && s.engineOn e.val && s.gustUp e (hpField h) && decide ((s.hport h).replay.length < 2048 ∧ 0 < freeCredits (s.hport h).used ch)

/-- A cycle in which a half-port that is UP holds a flit whose channel has no credit, counted (Table 18-1).
    DESIGN CHOICE: notes/assumptions/99. -/
def State.fabCreditWait (s : State) (h : Fin 96) (ch : Nat) : State :=
  if s.hpState h = 5 ∧ freeCredits (s.hport h).used ch = 0 then s.telEng (hpField h) (94 + h.val % 2) 1 else s

/-- The fabric channel of the link that a packet leaves in: its class and its HOP (R309). -/
def FabIn.chan (x : FabIn) : Nat := 5 * (3 - vcOf (flitKind x.head)) + min (flitGet x.head 143 141) 4

/-- The packets at an engine with a flit for a half-port, or that have begun to leave by it. -/
def State.engMoves (s : State) (h : Fin 96) (e : FieldNo) : List (FabMove × Bool) :=
  let y := s.engine e
  y.inbox.zipIdx.filterMap fun p =>
    if p.1.out ≠ .port h ∨ EngSt.preceded y p.2 p.1 then none
    else some (⟨e, p.2, FabIn.chan p.1, FabIn.input p.1 e (hpField h), FabIn.begun p.1⟩,
      !p.1.flits.isEmpty && s.fabFree e h (FabIn.chan p.1))

/-- Whether a half-port's output grants a waiting flit (R180, R309): no flit of a higher class waits that may go; a packet that has
    begun keeps its class; else no flit of its class with a higher k waits, and none of its channel comes before it in the round of
    the inputs. DESIGN CHOICE: a VC-S or VC-B packet too keeps its class, notes/assumptions/79. -/
def State.fabGrants (s : State) (h : Fin 96) (m : FabMove) : Bool :=
  let all := ((List.finRange 48).flatMap (s.engMoves h)).filter fun o => o.1 ≠ m
  let ready := (all.filter fun o => o.2).map fun o => o.1
  let start := tget 0 (s.hport h).rounds m.ch
  let turn (i : Nat) : Nat := (i + 17 - start % 17) % 17
  !ready.any (fun o => decide (m.ch / 5 < o.ch / 5)) &&
  (m.begun ||
    (!all.any (fun o => o.1.begun && o.1.ch / 5 == m.ch / 5) &&
     !ready.any fun o => o.ch / 5 == m.ch / 5 && decide (m.ch < o.ch ∨ (m.ch = o.ch ∧ turn o.input < turn m.input))))

/-- A packet whose next n flits have left the buffer; one with none to come is gone. -/
def FabIn.pop (x : FabIn) (n : Nat) : Option FabIn :=
  let y := { x with flits := x.flits.drop n }
  if y.flits.isEmpty ∧ x.n ≤ x.got then none else some y

/-- The n-th packet at an engine replaced, or gone. -/
def State.setInbox (s : State) (e : FieldNo) (n : Nat) (x : Option FabIn) : State :=
  s.modEngine e fun y => { y with inbox := match x with | some x => y.inbox.set n x | none => y.inbox.eraseIdx n }

/-- A flit that goes over gust links to a half-port's engine and leaves on the half-port: under the next sequence number, kept in the
    replay buffer, with a credit of its channel (R308–R310). Its place in the buffer it leaves is freed. -/
def State.fabGo (s : State) (e : FieldNo) (n : Nat) (x : FabIn) (h : Fin 96) : State :=
  let ch := FabIn.chan x
  let w := flitSeal (if FabIn.hasHead x then x.head else x.flits.headD 0)
  let s := (s.setInbox e n (FabIn.pop x 1)).freeRx x 1
  let s := s.modHp h fun y => { y with
    txSeq := y.txSeq + 1
    replay := y.replay ++ [(y.txSeq, w)]
    used := y.used.set ch (y.used.getD ch 0 + 1)
    toSend := y.toSend + 1
    rounds := if FabIn.hasHead x then tset 0 y.rounds ch (FabIn.input x e (hpField h) + 1) else y.rounds }
  (s.telEng (hpField h) (20 * (h.val % 2) + ch) 1).countGust e (hpField h) 1

/-- Requests that an engine does not send to the fabric (R312, R315). -/
def fabKind (b : Body) : Bool := [0, 1, 2, 6, 7, 8, 10, 11, 12].contains (kindOf b)

/-- The fabric packet that a source engine forms of a packet of its field (R312, R313, R316). -/
def fabForm (h : Head) (b : Body) : FabPkt :=
  let addr := addrField h b
  let a : Nat := match b with
    | .rd a _ => a
    | .wr a _ => a
    | .cac a _ _ _ => a
    | .bzw a _ => a
    | _ => 0
  let h := match h.ret with
    | some (f, k) => { h with dfield := f, dsite := k, dlog := false, ret := none }
    | none => { h with dfield := a >>> 31 % 64, dsite := a >>> 25 % 64, dlog := true }
  { head := h, body := b, addr := addr }

/-- Whether a packet in flight has come whole to its field's engine, with none before it. -/
def State.atSpine (s : State) (e : FieldNo) (n : Nat) : Option Packet :=
  match s.net[n]? with
  | some p => if p.loc = .spine e.val 0x33 && Packet.ended p && !s.net.any (fun q => Packet.precedes q p) then some p else none
  | none => none

/-- A packet of the field taken in by its engine: refused, dropped, or held as a fabric packet (R311, R312, R315). -/
def State.enterFabric (s : State) (e : FieldNo) (p : Packet) : State :=
  let h := { p.head with xm := false }
  if !s.moduleValid then s.packetError p
  else if p.head.mcg.isSome ∧ (answerOf .addrErr p.body).isSome then s.refuseWith h p.body e.val 0x33 .addrErr
  else if !fabKind p.body then
    if (answerOf .addrErr p.body).isSome then s.refuseWith h p.body e.val 0x33 .addrErr
    else s.postEng 0x04 e (some p.head.job.val) 0
  else s.engSend e (fabForm p.head p.body)

/-- The n-th packet at an engine discarded: its flits are freed as they come. -/
def State.fabDiscard (s : State) (e : FieldNo) (n : Nat) (x : FabIn) : State :=
  (s.setInbox e n (FabIn.pop { x with out := .discard } x.flits.length)).freeRx x x.flits.length

/-- What an engine settles for a packet whose head flit it holds: the half-port it leaves by; or it is discarded (R311, R315,
    R317–R319). A packet for this module is left to its delivery. -/
def State.fabSettle (s : State) (e : FieldNo) (n : Nat) (x : FabIn) : State :=
  let p := FabIn.pkt x
  if !s.moduleValid then (s.packetError { head := p.head, body := p.body }).fabDiscard e n x
  else if !fabKind p.body then (s.postEng 0x04 e (some p.head.job.val) 0).fabDiscard e n x
  else if p.head.dmod = s.moduleId then s
  else match s.route e (x.from_ == .here) p with
    | (none, p, s1) => (s1.fabDiscard e n x).noRoute e p
    | (some h, p, s1) => s1.setInbox e n (some { x with head := flitRoute x.head p.val p.igrp, out := .port (hpNo h) })

/-- FABRIC_ROUTE: a packet comes from its field's spine port into its engine; or the next flit of one that an engine holds for
    another module goes to the half-port of the packet's route, if its output grants it; or its flits are discarded (R308–R310,
    R312, R315, R317–R319). The route is settled with the head flit, again while the head waits and the half-port is no longer UP. -/
def execFabricRoute (e : FieldNo) (src : FabSrc) (s : State) : Out :=
  if !s.engineOn e.val then .next s
  else match src with
    | .spine n =>
      match s.atSpine e n with
      | some p =>
        if p.head.xm then .next (State.enterFabric { s with net := s.net.eraseIdx n } e p) else .next s
      | none => .next s
    | .inbox n =>
      match (s.engine e).inbox[n]? with
      | none => .next s
      | some x =>
        if EngSt.preceded (s.engine e) n x then .next s
        else match x.out with
          | .open_ => .next (if FabIn.hasHead x then s.fabSettle e n x else s)
          | .discard => .next (s.fabDiscard e n x)
          | .port h =>
            if FabIn.hasHead x && !s.hpUp e h.val then .next (s.fabSettle e n { x with out := .open_ })
            else
              let m : FabMove := ⟨e, n, FabIn.chan x, FabIn.input x e (hpField h), FabIn.begun x⟩
              .next (if x.flits.isEmpty then s
                else if !s.fabFree e h m.ch then s.fabCreditWait h m.ch
                else if s.fabGrants h m then s.fabGo e n x h else s)

/-! ### Delivery (R314, R316) -/

/-- A packet whose ECRC fails is discarded (R314). -/
def State.ecrcFail (s : State) (f : FieldNo) (p : FabPkt) : State :=
  (s.raise (engFlagsCa f) 0).postEng 0x17 f (some p.head.job.val) (fabDetail 0 p)

/-- The n-th packet that an engine holds, if it is for this module and the gust links to its field's engine are in
    service. -/
def State.forHere (s : State) (e : FieldNo) (n : Nat) : Option (FabIn × FieldNo) :=
  match (s.engine e).inbox[n]? with
  | none => none
  | some x =>
    let p := FabIn.pkt x
    let f := fieldNo p.head.dfield
    if s.engineOn e.val && s.moduleValid && fabKind p.body && x.out == .open_ && !EngSt.preceded (s.engine e) n x &&
        p.head.dmod == s.moduleId && decide (p.head.dfield < 48) && s.gustUp e f then
      some (x, f) else none

/-- The flits of a packet that lie in an engine's buffer sent over gust links to the delivering engine, which collects them. -/
def State.collect (s : State) (e f : FieldNo) (n : Nat) (x : FabIn) : FabIn × State :=
  let fs := if FabIn.hasHead x then x.head :: x.flits.drop 1 else x.flits
  let y := { x with kept := x.kept ++ fs, flits := [] }
  (y, ((s.setInbox e n (some y)).freeRx x fs.length).countGust e f fs.length)

/-- A packet's flits are all at the delivering engine, and their ECRC holds. -/
def FabIn.whole (x : FabIn) : Bool := decide (x.n ≤ x.kept.length)
def FabIn.ecrc (x : FabIn) : Bool := ecrcGood (x.kept.headD 0) (x.kept.drop 1)

/-- A packet passed on through the spine port, from which it goes on to its endpoint (R316). -/
def State.fabDeliver (s : State) (f : FieldNo) (p : FabPkt) : State :=
  { s with net := s.net ++ [{ head := p.head, body := p.body, origin := .spine f.val 0x33, seq := s.netSeq }], netSeq := s.netSeq + 1 }

/-- FABRIC_DELIVERY: the flits of a packet for this module go to the engine of its field, which collects them; with the last it
    checks the ECRC and passes the packet on through the spine port (R314, R316). -/
def execFabricDelivery (e : FieldNo) (n : Nat) (s : State) : Out :=
  match s.forHere e n with
  | none => .next s
  | some (x, f) =>
    if flitKind x.head = 10 then .next s
    else
      let (x, s) := s.collect e f n x
      if !FabIn.whole x then .next s
      else
        let s := s.setInbox e n none
        let p := FabIn.pkt x
        if !FabIn.ecrc x then .next (s.ecrcFail f p)
        else if !s.serves f.val then
          match answerOf .addrErr p.body with
          | some _ => .next (s.engRefuse f p.head p.body .addrErr)
          | none => .next (s.packetError { head := p.head, body := p.body })
        else .next (s.fabDeliver f p)

/-! ### Module trees (R321–R325) -/

def xtreeCa (f : FieldNo) (k w : Nat) : Nat := engineCa f 0 (0x4000 + 0x20 * k + 8 * w)

/-- The valid entry of a tree and job domain at an engine (R321). -/
def State.xtreeFind (s : State) (f : FieldNo) (tree job : Nat) : Option Nat :=
  (List.range 512).find? fun k =>
    let w := s.reg (xtreeCa f k 0)
    w.getLsbD 63 && bits w 27 16 == tree && bits w 62 61 == job

def State.xslot (s : State) (f : FieldNo) (key : Nat) : Option XSlot := tget none (s.engine f).xslots key

/-- A slot of an entry given; OCC counts those occupied. -/
def State.setXslot (s : State) (f : FieldNo) (key : Nat) (v : Option XSlot) : State :=
  let s := s.modEngine f fun x => { x with xslots := tset none x.xslots key v }
  s.setFld (xtreeCa f (key / 16) 3) 4 0 ((List.range 16).countP fun i => (s.xslot f (16 * (key / 16) + i)).isSome)

/-- The key of a chunk's slot. -/
def State.xkey (s : State) (f : FieldNo) (k chunk : Nat) : Nat := 16 * k + chunk % 2 ^ s.fld (xtreeCa f k 0) 58 56

/-- A RED packet without a valid entry (R321). -/
def State.treeMiss (s : State) (f : FieldNo) (p : FabPkt) : State :=
  (s.raise (engFlagsCa f) 3).postEng 0x17 f (some p.head.job.val) (fabDetail 3 p)

/-- A completed slot: a root's waits to be handled; another's sum goes to the parent module (R322). -/
def State.xComplete (s : State) (f : FieldNo) (k key : Nat) (x : XSlot) : State :=
  let w := s.reg (xtreeCa f k 0)
  if w.getLsbD 60 then s.setXslot f key (some { x with stage := .result })
  else
    let p : FabPkt := { head := s.engHead f x.job (bits w 15 0) f.val 0x33 0, body := .red { x.body with cnt := 0 }, addr := 0, mcnt := x.mcnt }
    (s.setXslot f key (some { x with stage := .sent })).engSend f p

/-- A RED packet combined into its slot (R191, R322); none where the slot still holds another chunk. -/
def State.xCombine (s : State) (f : FieldNo) (p : FabPkt) (r : RedBody) (resid : List (Fin 10)) : Option State :=
  match s.xtreeFind f r.tree p.head.job.val with
  | none => some (s.treeMiss f p)
  | some k =>
    let key := s.xkey f k r.chunk
    let nin := s.fld (xtreeCa f k 0) 55 50
    match s.xslot f key with
    | none =>
      let x : XSlot := ⟨r.chunk, 1, r, p.mcnt, p.head.job, .gather⟩
      let s := s.setXslot f key (some x)
      some (if nin ≤ 1 then s.xComplete f k key x else s)
    | some x =>
      if x.chunk ≠ r.chunk ∨ x.stage ≠ .gather then none
      else
        let b := RedBody.resid (redAdd x.body r (decide (x.body.q ≠ r.q))) resid
        let x := { x with got := x.got + 1, body := b, mcnt := x.mcnt + p.mcnt }
        let s := s.setXslot f key (some x)
        let s := if resid.isEmpty then s
          else (s.raise (engFlagsCa f) 2).postEng 0x07 f (some p.head.job.val) r.tree
        some (if nin ≤ x.got then s.xComplete f k key x else s)

/-- XTREE_COMBINE: a RED packet, from the station of an engine or from a child module, is combined into its module-tree
    slot. `resid` names the lanes whose adder fails its residue check. -/
def execXtreeCombine (e : FieldNo) (src : FabSrc) (resid : List (Fin 10)) (s : State) : Out :=
  match src with
  | .spine n =>
    match s.atSpine e n with
    | some p =>
      match p.body with
      | .red r =>
        if p.head.xm || !s.engineOn e.val then .next s
        else
          let gone : State := { s with net := s.net.eraseIdx n }
          .next ((gone.xCombine e { head := p.head, body := p.body, addr := 0, mcnt := 1 } { r with cnt := 0 } resid).getD s)
      | _ => .next s
    | none => .next s
  | .inbox n =>
    match s.forHere e n with
    | some (x, f) =>
      let p := FabIn.pkt x
      match p.body with
      | .red r =>
        if p.down then .next s
        else
          let (x, gone) := s.collect e f n x
          let gone := gone.setInbox e n none
          if !FabIn.ecrc x then .next (gone.ecrcFail f p)
          else .next ((gone.xCombine f p r resid).getD s)
      | _ => .next s
    | none => .next s

/-- A DOWN result put in the slot that awaits it (R323). -/
def State.xDown (s : State) (f : FieldNo) (p : FabPkt) (r : RedBody) : State :=
  match s.xtreeFind f r.tree p.head.job.val with
  | none => s.treeMiss f p
  | some k =>
    let key := s.xkey f k r.chunk
    match s.xslot f key with
    | some x => if x.chunk = r.chunk ∧ x.stage = .sent then
        s.setXslot f key (some { x with body := r, mcnt := p.mcnt, stage := .result }) else s
    | none => s

/-- The next result of an entry handled (R323–R325): sent to the children, delivered to the local sink, its slot freed
    and a credit returned to the wafer root. -/
def State.xHandle (s : State) (f : FieldNo) (k : Nat) : State :=
  let w0 := s.reg (xtreeCa f k 0)
  let w1 := s.reg (xtreeCa f k 1)
  let next := s.fld (xtreeCa f k 3) 63 40
  let key := s.xkey f k next
  match s.xslot f key with
  | none => s
  | some x =>
    if !w0.getLsbD 63 ∨ x.chunk ≠ next ∨ x.stage ≠ .result then s
    else
      let off := decide (w0.getLsbD 60 = true ∧ x.mcnt ≠ bits w1 63 40)
      let p : FabPkt := { head := s.engHead f x.job 0 f.val 0x33 0, body := .red x.body, addr := 0, mcnt := x.mcnt }
      let s := if off then (s.raise (engFlagsCa f) 4).postEng 0x17 f (some x.job.val) (fabDetail 4 { p with head := { p.head with dmod := s.moduleId } }) else s
      let r := if off then { x.body with lanes := (List.range 10).map fun i => RedLane.bad (x.body.lanes.getD i ⟨0, 0⟩) } else x.body
      let s := (List.range (bits w1 5 0)).foldl (fun s i =>
        let m := s.fld (engineCa f 0 (0xC000 + 8 * ((bits w1 16 6 + i) % 2048))) 15 0
        s.engSend f { p with head := { p.head with dmod := m }, body := .red r, down := true }) s
      let s := if bits w0 49 48 = 3 then s
        else s.sinkDeliver f x.job r (bits w0 49 48 == 1) (bits w0 47 42) (s.reg (xtreeCa f k 2))
      let s := (s.setXslot f key none).setFld (xtreeCa f k 3) 63 40 (next + 1)
      if w0.getLsbD 59 then
        s.modField f.val fun y => { y with redCred := tset 0 y.redCred x.body.tree (min 16 (tget 0 y.redCred x.body.tree + 1)) }
      else s

/-- XTREE_RESULT: a DOWN result that an engine holds reaches its slot; or the next result in chunk order of entry k is
    handled. -/
def execXtreeResult (e : FieldNo) (k : Fin 512) (down : Option Nat) (s : State) : Out :=
  match down with
  | none => if s.engineOn e.val then .next (s.xHandle e k.val) else .next s
  | some n =>
    match s.forHere e n with
    | some (x, f) =>
      let p := FabIn.pkt x
      match p.body with
      | .red r =>
        if !p.down then .next s
        else
          let (x, s) := s.collect e f n x
          let s := s.setInbox e n none
          if !FabIn.ecrc x then .next (s.ecrcFail f p) else .next (s.xDown f p r)
      | _ => .next s
    | none => .next s

/-- Slots committed by the valid entries of an engine, but for entry k. -/
def State.xtreeUse (s : State) (f : FieldNo) (but : Nat) : Nat :=
  (List.range 512).foldl (fun n k => if k ≠ but ∧ s.bit (xtreeCa f k 0) 63 then n + 2 ^ s.fld (xtreeCa f k 0) 58 56 else n) 0

/-- A write to ISO_XTREE_k (R196, Table 14-12).
    DEDUCED: notes/assumptions/81. -/
def State.xtreeWrite (s : State) (f : FieldNo) (k w : Nat) (ca : Nat) (g : RegGroup) (v : Word) : State :=
  let new := storeFields g.fields (s.reg ca) v
  let w0 := if w = 0 then new else s.reg (xtreeCa f k 0)
  let w2 := if w = 2 then new else s.reg (xtreeCa f k 2)
  let ring := bits w0 49 48 == 0 && decide (0x1800000 < 512 * bits w2 63 48 + 128 * bits w2 47 32)
  if w0.getLsbD 63 && ring then s.configError ca
  else if w ≠ 0 then s.plainWrite ca g v
  else if new.getLsbD 63 ∧ 512 < s.xtreeUse f k + 2 ^ bits new 58 56 then s.configError ca
  else if !new.getLsbD 63 ∧ s.bit ca 63 ∧ (s.engine f).xslots.any (fun p => p.1 / 16 == k && p.2.isSome) then s.configError ca
  else s.plainWrite ca g v

/-! ### Training (R326, R327, R329) -/

/-- Whether an engine of a half-port is on and the half-port is in a state. -/
def State.training (s : State) (h : Fin 96) (st : Nat) : Bool := s.engineOn (hpField h) && s.hpState h == st

/-- SIGNAL_DETECT: light on all four receive fibres. -/
def execSignalDetect (h : Fin 96) (s : State) : Out :=
  if s.training h 1 then .next (s.setFld (hpstatCa h) 2 0 2) else .next s

/-- Lanes in a set. -/
def laneCount (l : BitVec 16) : Nat := (List.range 16).countP fun i => l.getLsbD i

/-- MINLANES of a half-port's engine. -/
def State.minLanes (s : State) (h : Fin 96) : Nat := s.fld (engineCa (hpField h) 0 0) 19 16

/-- LANE_LOCK: every receive lane has locked (those named) or been failed; with enough of them the half-port aligns. -/
def execLaneLock (h : Fin 96) (locked : BitVec 16) (s : State) : Out :=
  if !s.training h 2 || decide (laneCount locked < s.minLanes h) then .next s
  else
    let s := (s.setFld (hpstatCa h) 47 32 locked.toNat).setFld (hpstatCa h) 31 16 0xFFFF
    let cal : Table Nat := (List.range 16).foldl (fun m l => tset 0 m l s.rind.ticks) []
    .next ((s.modHp h fun x => { rxBad := ~~~locked, recalQ := x.recalQ, recal := x.recal, calAt := cal }).setFld (hpstatCa h) 2 0 3)

/-- ALIGN_COMPLETE: the lanes deskewed, codewords locked and three intact control slots received. -/
def execAlignComplete (h : Fin 96) (s : State) : Out :=
  if s.training h 3 && (s.hport h).intact == 3 then .next (s.setFld (hpstatCa h) 2 0 4) else .next s

/-- Whether a half-port may pass from IDENT to UP (R327). -/
def State.identOk (s : State) (h : Fin 96) : Bool :=
  let c := s.reg (hpCa h 0)
  let n := s.reg (hpCa h 0x18)
  s.moduleValid && n.getLsbD 63 && n.getLsbD 62 && (bits c 1 0 == 1 || bits c 1 0 == 2) && bits c 1 0 == bits n 9 8 &&
    c.getLsbD 2 && (!c.getLsbD 63 || bits c 47 32 == bits n 47 32)

/-- IDENT_TO_UP: a half-port in IDENT whose identities agree passes to UP, its buffers empty. -/
def execIdentToUp (h : Fin 96) (s : State) : Out :=
  if s.training h 4 && s.identOk h then .next ((s.modHp h HpSt.restart).setFld (hpstatCa h) 2 0 5) else .next s

/-- TRAINING_TIMEOUT: a step of training exceeds its limit. -/
def execTrainingTimeout (h : Fin 96) (s : State) : Out :=
  if s.training h 2 || s.training h 3 then .next ((s.setFld (hpstatCa h) 2 0 1).bumpSat (hpCa h 0x20) 19 16 1) else .next s

/-- A write to ISO_HPCTL (R329): training restarts at SIGNAL, or stops with ROLE off. -/
def State.hpctlWrite (s : State) (h : Fin 96) (ca : Nat) (g : RegGroup) (v : Word) : State :=
  let s := s.plainWrite ca g v
  let s := ((((s.modHp h fun x => { rxBad := x.rxBad, recalQ := x.recalQ }).rxDrop h).rerouteAll h).parentDown h).setFld (hpstatCa h) 12 8 31
  s.setFld (hpstatCa h) 2 0 (if s.hpRole h = 0 then 0 else 1)

/-- A write to ISO_MODID (R311). -/
def State.modidWrite (s : State) (ca : Nat) (g : RegGroup) (v : Word) : State :=
  if (List.finRange 96).any fun h => s.hpState h == 5 then s.configError ca else s.plainWrite ca g v

/-- LOCKED_LANE_LOSS: a receive lane loses lock; below MINLANES a half-port in UP fails (R329). -/
def execLockedLaneLoss (h : Fin 96) (lane : Fin 16) (s : State) : Out :=
  if !s.engineOn (hpField h) || !s.bit (hpstatCa h) (32 + lane.val) then .next s
  else
    let s := s.setFld (hpstatCa h) (32 + lane.val) (32 + lane.val) 0
    .next (if s.hpState h = 5 ∧ laneCount (BitVec.ofNat 16 (s.fld (hpstatCa h) 47 32)) < s.minLanes h then s.hpFail h else s)

/-! ### Recalibration (R328) -/

/-- Whether a lane is due for recalibration: by its symbol errors since its last one, or by the time since then (R328).
    DEDUCED: notes/assumptions/114. -/
def State.laneDue (s : State) (h : Fin 96) (lane : Fin 16) : Bool :=
  let x := s.hport h
  let w := s.reg (engineCa (hpField h) 0 0)
  let recent := x.errs.countP fun e => e.1 == lane.val && decide (s.rind.ticks < e.2 + 2 ^ 20)
  decide (bits w 47 32 < recent ∨ (bits w 31 24 ≠ 0 ∧ tget 0 x.calAt lane.val + bits w 31 24 * 2 ^ 30 ≤ s.rind.ticks))

/-- A lane's recalibration has ended: its errors and its time count from here. -/
def HpSt.calibrated (x : HpSt) (lane : Fin 16) (t : Nat) : HpSt :=
  { x with recal := none, errs := x.errs.filter fun e => e.1 != lane.val, calAt := tset 0 x.calAt lane.val t }

/-- RECALIBRATION_START: a receive lane is due for recalibration, and waits for its turn. -/
def execRecalibrationStart (h : Fin 96) (lane : Fin 16) (s : State) : Out :=
  let x := s.hport h
  if !s.engineOn (hpField h) || !s.bit (hpstatCa h) (32 + lane.val) || !s.laneDue h lane || x.recalQ.contains lane ||
      (match x.recal with | some (l, _, _) => l == lane | none => false) then .next s
  else .next (s.modHp h fun x => { x with recalQ := x.recalQ ++ [lane] })

/-- A lane failed at the end of its recalibration. -/
def State.laneFail (s : State) (h : Fin 96) (lane : Fin 16) : State :=
  let s := s.modHp h fun x => { HpSt.calibrated x lane s.rind.ticks with rxBad := x.rxBad ||| ((1 : BitVec 16) <<< lane.val) }
  let s := (s.setFld (hpstatCa h) 12 8 31).setFld (hpstatCa h) (32 + lane.val) (32 + lane.val) 0
  let s := s.postEng 0x0D (hpField h) none (3 <<< 40 + h.val <<< 32 + lane.val)
  if s.hpState h = 5 ∧ laneCount (BitVec.ofNat 16 (s.fld (hpstatCa h) 47 32)) < s.minLanes h then s.hpFail h else s

/-- One lane-time unit of a half-port's recalibration: of the one in progress, or the first of the next lane's (R328). -/
def State.recalUnit (s : State) (h : Fin 96) (errs : Nat) : State :=
  match (s.hport h).recal, (s.hport h).recalQ with
  | none, [] => s
  | none, l :: r => (s.modHp h fun x => { x with recal := some (l, 1, 0), recalQ := r }).setFld (hpstatCa h) 12 8 l.val
  | some (l, n, again), _ =>
    if n < 23 then s.modHp h fun x => { x with recal := some (l, n + 1, again) }
    else if errs ≤ 16 then (s.modHp h fun x => HpSt.calibrated x l s.rind.ticks).setFld (hpstatCa h) 12 8 31
    else if again < 2 then s.modHp h fun x => { x with recal := some (l, 1, again + 1) }
    else s.laneFail h l

/-- Whether a half-port has a recalibration in progress or a lane that waits for one. -/
def HpSt.recalDue (x : HpSt) : Bool := x.recal.isSome || !x.recalQ.isEmpty

/-- RECALIBRATION: one lane-time unit that the lane-time arbiter has granted; `errs` is the number of symbol errors counted in
    units 22 and 23 (R303, R328).
    DEDUCED: notes/assumptions/114. -/
def execRecalibration (h : Fin 96) (errs : Nat) (s : State) : Out :=
  let f := fieldNo (hpField h)
  if !s.engineOn f.val || !HpSt.recalDue (s.hport h) then .next s
  else match s.arbTake (arbBase (.optical f)) 1 with
    | some s => .next (s.recalUnit h errs)
    | none => .next s

/-- STATUS_NOTICE: an engine tells every other engine the state and credits of its half-ports (R330). -/
def execStatusNotice (f : FieldNo) (s : State) : Out :=
  if !s.engineOn f.val then .next s
  else
    let v (i : Nat) : HpView := let h := hpNo (2 * f.val + i); ⟨s.hpState h == 5, (s.hport h).used⟩
    .next ((List.finRange 48).foldl (fun s g =>
      if g = f ∨ !s.engineOn g.val then s
      else s.modEngine g fun x =>
        { x with view := tset {} (tset {} x.view (2 * f.val) (v 0)) (2 * f.val + 1) (v 1) }) s)

/-! ### Fabric time (R331–R333) -/

/-- An exact quotient rounded to an integer; the manual does not say which way, so the last place of one that is not
    exact is a free value (DESIGN CHOICE, notes/assumptions/31). -/
def State.freeDiv (s : State) (a : Int) (d : Nat) : Int × State :=
  if d = 0 ∨ a % d = 0 then (a / d, s)
  else
    let (w, s) := s.freshWord
    (a / d + (if w.getLsbD 0 then 1 else 0), s)

/-- TIME_ADJUST: at the end of 2^20 ns a module that is not the root acts on the mean of the interval's θ (R332).
    DEDUCED: notes/assumptions/83. -/
def execTimeAdjust (s : State) : Out :=
  if s.bit (fabricCa 0x20) 8 || s.sync.count == 0 then .next s
  else
    let (m, s) := s.freeDiv s.sync.sum (2 * s.sync.count)
    let th : Int := max (-(2 ^ 31 - 1)) (min (2 ^ 31 - 1) m)
    let s := s.setFld (fabricCa 0x28) 31 0 (th % 2 ^ 32).toNat
    if s.bit (fabricCa 0x28) 63 then .next { s with sync := { s.sync with sum := 0, count := 0, slew := m } }
    else
      let s := (s.setReg (fabricCa 0x10) (s.now + BitVec.ofInt 64 m)).setFld (fabricCa 0x28) 63 63 1
      .next { s with sync := {} }

/-- A write to ISO_TIMESET (R333). -/
def State.timeset (s : State) (ca : Nat) (v : Word) : State :=
  if s.bit (fabricCa 0x20) 8 then s.setReg (fabricCa 0x10) v else s.configError ca

/-- A write to ISO_TIMECTL (Table 14-7): a change of PARENT or ROOT clears LOCKED. -/
def State.timectlWrite (s : State) (ca : Nat) (g : RegGroup) (v : Word) : State :=
  let old := s.reg ca
  let s := s.plainWrite ca g v
  if s.reg ca = old then s else { s.setFld (fabricCa 0x28) 63 63 0 with sync := {} }

end Sys2Proof.Machine
end

