-- ==== Sys2Proof/Machine/Vat.lean ====
section
/-! DEFINITION. The Vat (R207–R213, R218): translation, hits and misses, evictions, forwards and flushes. -/

namespace Sys2Proof.Machine

/-! ### Names -/

def vatFlagsCa (f : FieldNo) : Nat := vatCa f 0 0x08

def State.vat (s : State) (f : FieldNo) : Vat := (s.fieldSt f.val).vat

def State.modVat (s : State) (f : FieldNo) (g : Vat → Vat) : State := s.modField f.val fun x => { x with vat := g x.vat }

/-- A Vat's counter TEL_CNT_k advanced. -/
def State.telVat (s : State) (f : FieldNo) (k n : Nat) : State := s.count (vatCa f 2 (0x100 + 8 * k)) n

/-- An event of a Vat. -/
def State.postVat (s : State) (code : Nat) (f : FieldNo) (job : Option Nat) (detail : Nat) : State :=
  s.post code job none f.val 0x31 (BitVec.ofNat 64 detail)

/-! ### Page-table entries (R203) -/

/-- Whether an entry maps its page: it is valid, and its tier, cellar and frame hold no reserved code. -/
def pteMapped (w : Word) : Bool :=
  w.getLsbD 63 && decide (bits w 53 48 < 48) && (bits w 62 61 == 1 || (bits w 62 61 == 0 && decide (bits w 47 21 < 12288)))

/-- Whether a valid entry holds a reserved code (R203). -/
def pteBad (w : Word) : Bool := w.getLsbD 63 && !pteMapped w

/-- The home of a mapped page: the field and site of its controller. -/
def homeOf (w : Word) : Nat × Nat := if bits w 62 61 = 0 then (bits w 53 48, 0x32) else (0x3C, 1)

/-- The offset in its cellar, or the IOVA, of a byte of a page (R203). -/
def frameAddr (w : Word) (addr : Nat) : Nat := bits w 47 21 * 2 ^ 21 + addr % 2 ^ 21

/-- Whether a job domain may access the page. -/
def pteJob (w : Word) (job : JobNo) : Bool := w.getLsbD (54 + job.val)

/-! ### Translation caches (R205): 128 sets of 8, oldest first -/

def tcGet (m : Table (List (Nat × Word))) (page : Nat) : Option Word :=
  ((tget [] m (page % 128)).find? fun e => e.1 == page).map (·.2)

def tcPut (m : Table (List (Nat × Word))) (page : Nat) (w : Word) : Table (List (Nat × Word)) :=
  let l := (tget [] m (page % 128)).filter fun e => e.1 != page
  tset [] m (page % 128) ((if l.length < 8 then l else l.drop 1) ++ [(page, w)])

def tcDrop (m : Table (List (Nat × Word))) (page : Nat) : Table (List (Nat × Word)) :=
  tset [] m (page % 128) ((tget [] m (page % 128)).filter fun e => e.1 != page)

def tcCount (m : Table (List (Nat × Word))) : Nat := m.foldl (fun n p => n + p.2.length) 0

/-! ### Lines and ways (R208) -/

/-- The set of a line.
    DESIGN CHOICE: notes/assumptions/54. -/
def vatSet (line : Nat) : Nat := (line % 4096) ^^^ (line / 4096 % 4096)

/-- The key and the contents of a line that a Vat holds. -/
def Vat.find (v : Vat) (line : Nat) : Option (Nat × VatLine) :=
  (List.range 16).findSome? fun w =>
    match tget none v.lines (16 * vatSet line + w) with
    | some l => if l.line = line then some (16 * vatSet line + w, l) else none
    | none => none

/-- A way given a line, or emptied. -/
def Vat.put (v : Vat) (key : Nat) (l : Option VatLine) : Vat := { v with lines := tset none v.lines key l }

/-- The tree bits after a way is used: each node on its path points away from it. -/
def plruUse (b way : Nat) : Nat → Nat → Nat
  | 0, _ => b
  | d + 1, node =>
    let side := way >>> d % 2
    let b := if side = 1 then b &&& (0xFFFF - 1 <<< node) else b ||| (1 <<< node)
    plruUse b way d (2 * node + side)

/-- The way the tree bits point to among the eligible ones. -/
def plruVictim (b : Nat) (ok : Nat → Bool) : Nat → Nat → Nat → Option Nat
  | 0, _, way => if ok way then some way else none
  | d + 1, node, way =>
    let side := b >>> node % 2
    match plruVictim b ok d (2 * node + side) (2 * way + side) with
    | some w => some w
    | none => plruVictim b ok d (2 * node + (1 - side)) (2 * way + (1 - side))

/-- A way of a set used. -/
def Vat.use (v : Vat) (key : Nat) : Vat := { v with plru := tset 0 v.plru (key / 16) (plruUse (tget 0 v.plru (key / 16)) (key % 16) 4 1) }

/-- The place for a new line of a set: an empty way, or the victim. -/
def Vat.place (v : Vat) (set : Nat) : Option Nat :=
  match (List.range 16).find? (fun w => (tget none v.lines (16 * set + w)).isNone) with
  | some w => some (16 * set + w)
  | none =>
    let ok (w : Nat) : Bool := match tget none v.lines (16 * set + w) with
      | some l => !(v.miss.any fun m => m.line == l.line)
      | none => true
    (plruVictim (tget 0 v.plru set) ok 4 1 0).map (16 * set + ·)

/-! ### Messages -/

/-- The next tag of a Vat's requests. -/
def State.vatTag (s : State) (f : FieldNo) : Nat × State :=
  let n := (s.vat f).tag
  (n, s.modVat f fun v => { v with tag := (n + 1) % 1024 })

/-- The head of a message from a Vat. -/
def State.vatHead (s : State) (f : FieldNo) (job : JobNo) (dst : Nat × Nat) (tag : Nat) (pte : Word) : Head :=
  { s.nodeHead job f.val 0x31 dst.1 dst.2 with tag := tag, pte := pte }

/-- A coherence request of a Vat to the home of a line. -/
def State.vatRequest (s : State) (f : FieldNo) (job : JobNo) (k : CohReq) (pte : Word) (b : CohBody) : State :=
  let (tag, s) := s.vatTag f
  s.send (s.vatHead f job (homeOf pte) tag pte) (.cohq k { b with rqtag := tag, rqf := f.val })

/-- The lowest job domain of a page's JOBMASK (R221), which the messages about its lines travel under.
    DEDUCED: notes/assumptions/57. -/
def pteJobNo (w : Word) : JobNo := if w.getLsbD 54 then 0 else if w.getLsbD 55 then 1 else if w.getLsbD 56 then 2 else 3

/-- A coherence response of a Vat. -/
def State.vatRespond (s : State) (f : FieldNo) (job : JobNo) (dst : Nat × Nat) (k : CohRsp) (b : CohBody) : State :=
  s.send (s.vatHead f job dst b.rqtag 0) (.cohp k b)

/-! ### Errors of stored words (R212) -/

/-- The word that takes the place of a bad one. -/
def poisonBytes : List Byte := toBytes 8 0x8000000000000000

/-- Bytes of a line replaced. -/
def lineBytes (l : VatLine) (ofs : Nat) (d : List Byte) : List Byte := overwrite l.bytes ofs d

/-- The sectors that n bytes from an offset of a line touch. -/
def sectorMask (ofs n : Nat) : BitVec 8 :=
  BitVec.ofNat 8 ((List.range 8).foldl (fun m k => if ofs < 64 * (k + 1) ∧ 64 * k < ofs + n then m + 2 ^ k else m) 0)

/-- The words of a line in error within a range, with their errors. -/
def lineErrs (l : VatLine) (ofs n : Nat) : List (Nat × Nat) := l.errs.filter fun e => decide (ofs < 8 * (e.1 + 1) ∧ 8 * e.1 < ofs + n)

/-- The words of a list that are in error beyond correction. -/
def badWords (errs : List (Nat × Nat)) : List (Nat × Nat) := errs.filter fun e => decide (2 ≤ e.2)

/-- A dirty line with its bad words of a list replaced by poison. -/
def poisonWords (l : VatLine) (ws : List (Nat × Nat)) : VatLine :=
  ws.foldl (fun l e => { l with bytes := lineBytes l (8 * e.1) poisonBytes, errs := tset 0 l.errs e.1 0,
                                dirty := l.dirty ||| sectorMask (8 * e.1) 8 }) l

/-- Words corrected at a Vat, n of them: counted, with the flag and a log entry.
    DEDUCED: notes/assumptions/137. -/
def State.vatCorrected (s : State) (f : FieldNo) (n : Nat) : State :=
  if n = 0 then s
  else ((s.raise (vatFlagsCa f) 0).modVat f fun v => { v with ce := v.ce + n }).postOpen none none f.val 0x31

/-- Corrected words counted; an uncorrectable one recorded with its line. -/
def State.vatErrs (s : State) (f : FieldNo) (l : VatLine) (errs : List (Nat × Nat)) : State :=
  let s := s.vatCorrected f (errs.filter fun e => e.2 == 1).length
  if (badWords errs).isEmpty then s else (s.raise (vatFlagsCa f) 1).postVat 0x0C f none (512 * l.line)

/-- A line read out whole, for a message that carries it: its errors are met, and its bad words are poison, in a dirty line with
    their sectors dirty (R212). -/
def VatLine.readOut (l : VatLine) : VatLine :=
  let p := poisonWords l (badWords l.errs)
  if l.dirty = 0 then { p with dirty := 0 } else p

/-- The Put of a line that leaves (R211, R212). -/
def State.vatPut (s : State) (f : FieldNo) (l : VatLine) : State :=
  let s := s.telVat f 7 1
  match l.st with
  | .m =>
    let r := VatLine.readOut l
    (s.vatErrs f l l.errs).vatRequest f (pteJobNo l.pte) .putM l.pte { line := l.line, smask := r.dirty, bytes := some r.bytes }
  | .e => s.vatRequest f (pteJobNo l.pte) .putE l.pte { line := l.line }
  | _ => s.vatRequest f (pteJobNo l.pte) .putS l.pte { line := l.line }

/-- A line put into a write-back buffer and its Put sent. -/
def State.vatLeave (s : State) (f : FieldNo) (key : Nat) (l : VatLine) : State :=
  (s.modVat f fun v => { Vat.put v key none with wb := v.wb ++ [l] }).vatPut f l

/-! ### Answers -/

/-- One part of an access done: its status, its data, with whether that is error fill, and the result of a CAC; the last part
    answers the access. -/
def State.vatDone (s : State) (f : FieldNo) (a : VatAccess) (st : NStatus) (d : List Byte) (fill : Bool) (cst : Nat) (cmpv : Word) : State :=
  match a.op with
  | .touch g => s.modField f.val fun x =>
      { x with fetch := { x.fetch with done := x.fetch.done ++ [⟨g, a.addr / 512⟩] } }
  | _ =>
    match (s.vat f).jobs.find? (fun j => j.1 == a.id) with
    | none => s
    | some (_, j) =>
      let j := { j with left := j.left - 1, parts := j.parts ++ [(a.ofs, d)], st := if j.st = .done then st else j.st,
                        fill := j.fill || fill, cst := cst, cmpv := cmpv }
      if 0 < j.left then s.modVat f fun v => { v with jobs := v.jobs.map fun p => if p.1 = a.id then (a.id, j) else p }
      else
        let s := s.modVat f fun v => { v with jobs := v.jobs.filter fun p => p.1 != a.id }
        match j.body with
        | .rd _ len =>
          let data := if j.st = .done then j.parts.foldl (fun b p => overwrite b p.1 p.2) (List.replicate len 0) else []
          let h := s.replyHead j.head f.val 0x31
          match j.head.mcg with
          | some g => s.send { h with dfield := 0x3E, dsite := 0, mcg := some g } (.rdata j.st data j.fill)
          | none => s.send h (.rdata j.st data j.fill)
        | .wr _ _ => s.reply j.head f.val 0x31 (.wack j.st)
        | .cac _ _ _ _ => s.reply j.head f.val 0x31 (.cacr j.st j.cst j.cmpv)
        | _ => s

/-- A calendar entry's last line (R225). -/
def calCa (f : FieldNo) (k w : Nat) : Nat := fcCa f 0 (0x4000 + 16 * k + 8 * w)
def State.calLast (s : State) (f : FieldNo) (k : Nat) : Nat := s.fld (calCa f k 0) 55 0 / 512 + s.fld (calCa f k 1) 15 0 - 1

/-- A tile's read of a line served: the calendar entries whose last line it is are consumed (R225). -/
def State.consume (s : State) (f : FieldNo) (line : Nat) : State :=
  s.modField f.val fun x => { x with fetch := { x.fetch with open_ := x.fetch.open_.filter fun k => s.calLast f k != line } }

/-- The words in error that an access reads of a line: those of its bytes, but for a write the words that it covers in part. -/
def VatAccess.meets (a : VatAccess) (l : VatLine) : List (Nat × Nat) :=
  let ofs := a.addr % 512
  match a.op with
  | .touch _ => []
  | .read len => lineErrs l ofs len
  | .write d => (lineErrs l ofs d.length).filter fun e => !(decide (ofs ≤ 8 * e.1 ∧ 8 * e.1 + 8 ≤ ofs + d.length))
  | .cac _ _ _ => lineErrs l ofs 8

/-- What became of an access at a line: done; the line was lost to an uncorrectable error and has to be fetched again; or it waits
    for a write-back buffer to let the line go. -/
inductive Perf where
  | done | again | wait
  deriving DecidableEq, Repr

/-- An access performed on a line in a state that allows it (Table 9-4, R212). -/
def State.vatPerform (s : State) (f : FieldNo) (key : Nat) (l : VatLine) (a : VatAccess) : Perf × State :=
  let ofs := a.addr % 512
  let bad := badWords (VatAccess.meets a l)
  let loses := !bad.isEmpty && l.dirty == 0
  if loses && decide (32 ≤ (s.vat f).wb.length) then (.wait, s)
  else
    let s := (s.modVat f fun v => Vat.use v key).vatErrs f l (VatAccess.meets a l)
    let poison (s : State) : State :=
      if loses then s.vatLeave f key l else s.modVat f fun v => Vat.put v key (some (poisonWords l bad))
    match a.op with
    | .touch _ => (.done, s.vatDone f a .done [] false 0 0)
    | .read len =>
      let s := s.consume f l.line
      if bad.isEmpty then (.done, s.vatDone f a .done ((l.bytes.drop ofs).take len) false 0 0)
      else (.done, poison (s.vatDone f a .done (rawFill len) true 0 0))
    | .write d =>
      if loses then (.again, s.vatLeave f key l)
      else
        let l1 := { l with bytes := lineBytes l ofs d, errs := (lineErrs l ofs d.length).foldl (fun t e => tset 0 t e.1 0) l.errs,
                           dirty := l.dirty ||| sectorMask ofs d.length, st := .m }
        (.done, (s.modVat f fun v => Vat.put v key (some (poisonWords l1 bad))).vatDone f a .done [] false 0 0)
    | .cac op imm who =>
      if !bad.isEmpty then (.done, (poison s).vatDone f a .done [] false cstFault fillWord)
      else
        let w : Word := BitVec.ofNat 64 (ofBytes ((l.bytes.drop ofs).take 8))
        match cacOpOf op with
        | none => (.done, s.vatDone f a .addrErr [] false cstFault fillWord)
        | some o =>
          let (w', cst) := cacStep o imm w who (fun n => s.fld (eptabCa ⟨f, 0⟩ n) 15 0)
          let l1 := if w' = w then { l with st := .m }
            else { l with st := .m, bytes := lineBytes l ofs (toBytes 8 w'.toNat), dirty := l.dirty ||| sectorMask ofs 8,
                          errs := tset 0 l.errs (ofs / 8) 0 }
          (.done, (s.modVat f fun v => Vat.put v key (some l1)).vatDone f a .done [] false cst w)

/-! ### Forwards and invalidations (R218) -/

/-- Whether a holder keeps a shared copy after a forward: a FwdS to a line of the Vat. One that is clean and has a word beyond
    correction it gives up (R212).
    DEDUCED: notes/assumptions/137. -/
def VatLine.keeps (l : VatLine) (ex buffer : Bool) : Bool := !ex && !buffer && !(l.dirty == 0 && !(badWords l.errs).isEmpty)

/-- The answer of a holder of a line to FwdS or FwdX: Data to the requester unless RQF is the home, and FwdAck (R218). -/
def State.vatForward (s : State) (f : FieldNo) (ex : Bool) (b : CohBody) (l0 : VatLine) (buffer : Bool) : State :=
  let s := (s.telVat f 8 1).vatErrs f l0 l0.errs
  let l := VatLine.readOut l0
  let home := homeOf l.pte
  let toHome := decide (b.rqf = 0x3C)
  let s := if toHome then s
    else s.vatRespond f (pteJobNo l.pte) (b.rqf, 0x31) .data
      { line := l.line, smask := if ex then l.dirty else 0, grant := if ex then .m else .s, rqtag := b.rqtag,
        bytes := some l.bytes, pte := l.pte }
  let keep := VatLine.keeps l0 ex buffer
  let withLine := toHome || (!ex && decide (l.dirty ≠ 0))
  s.vatRespond f (pteJobNo l.pte) home .fwdAck
    { line := l.line, keep := keep, rqf := f.val, rqtag := b.rqtag, smask := if withLine then l.dirty else 0,
      bytes := if withLine then some l.bytes else none }

/-- A forward answered from the line a Vat holds: FwdS leaves S, FwdX leaves I. -/
def State.vatFwdHit (s : State) (f : FieldNo) (ex : Bool) (b : CohBody) (key : Nat) (l : VatLine) : State :=
  (s.vatForward f ex b l false).modVat f fun v =>
    Vat.put v key (if VatLine.keeps l ex false then some { VatLine.readOut l with st := .s, dirty := 0 } else none)

/-! ### Miss entries (R210) -/

/-- What an access needs: a line in M. -/
def VatOp.exclusive : VatOp → Bool
  | .write _ => true
  | .cac _ _ _ => true
  | _ => false

/-- The accesses of a miss entry performed in order while the line allows it; the first is performed before a held
    forward is answered; when the line does not allow the next, the entry asks its home again (R210).
    DEDUCED: notes/assumptions/67. -/
def State.runMiss (s : State) (f : FieldNo) (line : Nat) (pte : Word) : List VatAccess → Option (CohRsp × CohBody) → Nat → State
  | accs, fwd, 0 => s.modVat f fun v => { v with miss := v.miss.map fun m => if m.line = line then { m with accs := accs, fwd := fwd } else m }
  | accs, fwd, fuel + 1 =>
    match accs, fwd with
    | [], none => s.modVat f fun v => { v with miss := v.miss.filter fun m => m.line != line }
    | [], some (k, b) =>
      match Vat.find (s.vat f) line with
      | some (key, l) => State.runMiss (s.vatFwdHit f (k == .fwdX) b key l) f line pte [] none fuel
      | none => State.runMiss s f line pte [] none fuel
    | a :: as, _ =>
      let wait (s : State) (w : MissWait) : State :=
        s.modVat f fun v => { v with miss := v.miss.map fun m => if m.line = line then { m with accs := a :: as, fwd := fwd, wait := w } else m }
      match Vat.find (s.vat f) line with
      | none => wait (s.vatRequest f a.job (if VatOp.exclusive a.op then .readX else .readS) pte { line := line }) .data
      | some (key, l) =>
        if VatOp.exclusive a.op ∧ l.st = .s then wait (s.vatRequest f a.job .upgrade pte { line := line }) .upgrade
        else
          match s.vatPerform f key l a with
          | (.wait, s) => wait s .room
          | (.again, s) => State.runMiss s f line pte (a :: as) fwd fuel
          | (.done, s) => match fwd with
            | some (k, b) =>
              match Vat.find (s.vat f) line with
              | some (key, l) => State.runMiss (s.vatFwdHit f (k == .fwdX) b key l) f line pte as none fuel
              | none => State.runMiss s f line pte as none fuel
            | none => State.runMiss s f line pte as none fuel

/-- The miss entry of a line. -/
def Vat.missOf (v : Vat) (line : Nat) : Option Miss := v.miss.find? fun m => m.line == line

/-- A fill installed for a miss entry, evicting the victim; it waits where no write-back buffer is free (R211). -/
def State.vatFill (s : State) (f : FieldNo) (m : Miss) (b : CohBody) : State :=
  let v := s.vat f
  let line : VatLine := ⟨m.line, b.grant, b.smask, b.bytes.getD (List.replicate 512 0), [], m.pte⟩
  let stuck := s.modVat f fun v => { v with miss := v.miss.map fun x => if x.line = m.line then { x with wait := .victim b } else x }
  let fuel := 3 * m.accs.length + 3
  match Vat.find v m.line with
  | some (key, _) => (s.modVat f fun v => Vat.put v key (some line)).runMiss f m.line m.pte m.accs m.fwd fuel
  | none =>
    match Vat.place v (vatSet m.line) with
    | none => stuck
    | some key =>
      match tget none v.lines key with
      | none => (s.modVat f fun v => Vat.use (Vat.put v key (some line)) key).runMiss f m.line m.pte m.accs m.fwd fuel
      | some old =>
        if 32 ≤ v.wb.length then stuck
        else
          let s := s.vatLeave f key old
          (s.modVat f fun v => Vat.use (Vat.put v key (some line)) key).runMiss f m.line m.pte m.accs m.fwd fuel

/-- Fills, and accesses, that wait for a write-back buffer tried again. -/
def State.vatRetryFills (s : State) (f : FieldNo) : State :=
  (s.vat f).miss.foldl (fun s m => match m.wait with
    | .victim b => s.vatFill f m b
    | .room => s.runMiss f m.line m.pte m.accs m.fwd (3 * m.accs.length + 3)
    | _ => s) s

/-! ### Accesses (R207–R210) -/

/-- A denied or unmapped part: the flag, the event and its answer (R206, R226). -/
def State.vatDeny (s : State) (f : FieldNo) (a : VatAccess) (flag : Nat) : State :=
  ((s.raise (vatFlagsCa f) flag).postVat 0x05 f (some a.job.val) a.addr).vatDone f a .addrErr [] false cstFault fillWord

/-- An uncached access sent to the home of a page with BYP = 1 (R207). -/
def State.vatUncached (s : State) (f : FieldNo) (a : VatAccess) (pte : Word) : State :=
  let (tag, s) := s.vatTag f
  let s := s.modVat f fun v => { v with unc := v.unc ++ [(tag, a)] }
  let b : Body := match a.op with
    | .read len => .rd a.addr len
    | .write d => .wr a.addr d
    | .cac op imm who => .cac a.addr op imm who
    | .touch _ => .rd a.addr 0
  s.send (s.vatHead f a.job (homeOf pte) tag pte) b

/-- A translated part of an access to a cached page: a hit, a join, or a miss that waits for an entry (R209, R210). -/
def State.vatCached (s : State) (f : FieldNo) (a : VatAccess) : State :=
  let v := s.vat f
  let line := a.addr / 512
  let ahead := (v.pend.any fun p => p.addr / 512 == line)
  let miss (s : State) : State :=
    let s := match a.op with
      | .read _ => s.telVat f 1 1
      | .touch _ => s
      | _ => s.telVat f 3 1
    match Vat.missOf (s.vat f) line with
    | some m =>
      if m.accs.length < 16 ∧ !ahead then
        s.modVat f fun v => { v with miss := v.miss.map fun x => if x.line = line then { x with accs := x.accs ++ [a] } else x }
      else s.modVat f fun v => { v with pend := v.pend ++ [a] }
    | none => s.modVat f fun v => { v with pend := v.pend ++ [a] }
  if ahead || (Vat.missOf v line).isSome then miss s
  else match Vat.find v line with
    | none => miss s
    | some (key, l) =>
      if VatOp.exclusive a.op ∧ l.st = .s then miss s
      else
        let s := match a.op with
          | .read _ => s.telVat f 0 1
          | .touch _ => s.telVat f 4 1
          | _ => s.telVat f 2 1
        match s.vatPerform f key l a with
        | (.done, s) => s
        | (_, s) => s.modVat f fun v => { v with pend := v.pend ++ [a] }

/-- An access that its page's entry takes out of the Vat's hands: the page is unmapped, an uncached access goes to the home, which
    checks its job domain, and a denied or uncached touch ends (R206, R207, R226); none where the Vat is to serve it. -/
def State.vatTurned (s : State) (f : FieldNo) (a : VatAccess) (pte : Word) : Option State :=
  let touch := match a.op with | .touch _ => true | _ => false
  if !pteMapped pte then some (s.vatDeny f a 3)
  else if pte.getLsbD 59 && !touch then some (s.vatUncached f a pte)
  else if !pteJob pte a.job then some (s.vatDeny f a 4)
  else if pte.getLsbD 59 then some (s.vatDone f a .done [] false 0 0)
  else none

/-- A part of an access with its page's entry (R206, R207). -/
def State.vatServe (s : State) (f : FieldNo) (a : VatAccess) (pte : Word) : State :=
  (s.vatTurned f a pte).getD (s.vatCached f a)

/-- A page's entry asked of the Rind, unless it has been (R205). -/
def State.vatAsk (s : State) (f : FieldNo) (job : JobNo) (page : Nat) : State :=
  if (s.vat f).asked.contains page then s
  else
    let (tag, s) := s.vatTag f
    let s := s.modVat f fun v => { v with asked := v.asked ++ [page] }
    s.send (s.vatHead f job (0x3C, 1) tag 0) (.cohq .xlat { line := page, rqtag := tag, rqf := f.val })

/-- A part of an access translated, or held until its page's entry has come (R205). -/
def State.vatPart (s : State) (f : FieldNo) (a : VatAccess) : State :=
  let page := a.addr / 2 ^ 21
  let v := s.vat f
  if v.asked.contains page then s.modVat f fun v => { v with held := v.held ++ [a] }
  else match tcGet v.tcache page with
    | some pte => s.vatServe f a pte
    | none => ((s.telVat f 9 1).modVat f fun v => { v with held := v.held ++ [a] }).vatAsk f a.job page

/-- The lines that n bytes from an address touch: for each, its place in the access, its address and its bytes.
    DEDUCED: notes/assumptions/55. -/
def lineParts (addr : Nat) : Nat → Nat → Nat → List (Nat × Nat × Nat)
  | _, _, 0 => []
  | ofs, n, fuel + 1 =>
    if n = 0 then []
    else
      let k := min n (512 - (addr + ofs) % 512)
      (ofs, addr + ofs, k) :: lineParts addr (ofs + k) (n - k) fuel

/-- The parts of an access. -/
def accessParts (addr : Nat) : Body → List (Nat × Nat × VatOp)
  | .rd _ len => (lineParts addr 0 len 5).map fun p => (p.1, p.2.1, .read p.2.2)
  | .wr _ d => (lineParts addr 0 d.length 5).map fun p => (p.1, p.2.1, .write ((d.drop p.1).take p.2.2))
  | .cac _ op imm who => [(0, addr, .cac op imm who)]
  | _ => []

/-- A number that no access a Vat has accepted bears. -/
def Vat.freshId (v : Vat) : Nat := v.jobs.foldl (fun n j => max n (j.1 + 1)) 0

/-- Whether a Vat accepts a further packet of n parts: its pending buffer has a place for each, beside those for the accesses that wait for a
    translation or an uncached answer and may come to need one (R210).
    DESIGN CHOICE: notes/assumptions/137. -/
def State.vatAccepts (s : State) (f : FieldNo) (n : Nat) : Bool :=
  decide ((s.vat f).pend.length + (s.vat f).held.length + (s.vat f).unc.length + n ≤ 64)

/-- Whether a Vat accepts an access. -/
def State.vatTakes (s : State) (f : FieldNo) (addr : Nat) (b : Body) : Bool := s.vatAccepts f (accessParts addr b).length

/-- A cycle in which a Vat's pending buffer is full for an access that waits, counted (Table 18-1).
    DESIGN CHOICE: notes/assumptions/99. -/
def State.vatFull (s : State) (f : FieldNo) : State := if s.clocked f.val then s.telVat f 6 1 else s

/-- A tile's access accepted by its field's Vat: RD, WR or CAC of a Cave address (R207, R209). -/
def State.vatAccess (s : State) (f : FieldNo) (h : Head) (addr : Nat) (b : Body) : State :=
  let id := Vat.freshId (s.vat f)
  let parts := accessParts addr b
  let bad := match b with | .cac _ op _ _ => (cacOpOf op).isNone || decide (addr % 8 ≠ 0) | _ => false
  if bad then s.reply h f.val 0x31 (.cacr .addrErr cstFault fillWord)
  else
    let s := s.modVat f fun v => { v with jobs := v.jobs ++ [(id, ⟨h, b, parts.length, [], .done, false, 0, 0⟩)] }
    parts.foldl (fun s p => s.vatPart f ⟨id, p.1, p.2.1, p.2.2, h.job⟩) s

/-- VAT_READ: a Cave read at a Vat (R209). -/
def execVatRead (f : FieldNo) (h : Head) (addr : BitVec 54) (len : Fin 2049) (s : State) : Out :=
  if !s.clocked f.val || len.val == 0 then .next s
  else if s.vatTakes f addr.toNat (.rd addr.toNat len.val) then .next (s.vatAccess f h addr.toNat (.rd addr.toNat len.val))
  else .next (s.vatFull f)

/-- VAT_WRITE: a Cave write or, with an operation, a compare-and-count at a Vat (R209). -/
def execVatWrite (f : FieldNo) (h : Head) (addr : BitVec 54) (data : List Byte) (cac : Option (Nat × Nat × Requester))
    (s : State) : Out :=
  let b : Body := match cac with
    | some (op, imm, who) => .cac addr.toNat op imm who
    | none => .wr addr.toNat data
  if !s.clocked f.val || (cac.isNone && (data.isEmpty || decide (2048 < data.length))) then .next s
  else if s.vatTakes f addr.toNat b then .next (s.vatAccess f h addr.toNat b)
  else .next (s.vatFull f)

/-- Class of a pending access at the Vat-fill arbiter (R210). -/
def fillClass (op : VatOp) : Nat :=
  match op with
  | .read _ => 0
  | .touch _ => 2
  | _ => 1

/-- MISS_ALLOCATE: the first pending miss of a class takes the miss entry that the Vat-fill arbiter has granted it and asks its
    home (R210); where the line has since come, the access is performed, and where it has a miss entry by now, the access joins it.
    An access whose translation has been dropped asks for it again in its place. -/
def execMissAllocate (f : FieldNo) (who : Fin 3) (s : State) : Out :=
  let v := s.vat f
  match v.pend.find? (fun a => fillClass a.op == who.val) with
  | none => .next s
  | some a =>
    let line := a.addr / 512
    let behind := (v.pend.takeWhile fun p => decide (p ≠ a)).any fun p => p.addr / 512 == line
    if behind then .next s
    else match Vat.missOf v line with
      | some m =>
        if m.accs.length < 16 then
          .next (s.modVat f fun v => { v with pend := v.pend.erase a, miss := v.miss.map fun x =>
            if x.line = line then { x with accs := x.accs ++ [a] } else x })
        else .next s
      | none =>
        match tcGet v.tcache (a.addr / 2 ^ 21) with
        | none => .next (s.vatAsk f a.job (a.addr / 2 ^ 21))
        | some pte =>
          let out := s.modVat f fun v => { v with pend := v.pend.erase a }
          match out.vatTurned f a pte with
          | some t => .next t
          | none =>
            if 256 ≤ v.miss.length then .next (s.telVat f 5 1)
            else match out.arbTake (arbBase (.vat f)) who.val with
              | none => .next s
              | some t =>
                let t := t.modVat f fun v => { v with miss := v.miss ++ [⟨line, [a], none, .data, pte⟩] }
                .next (t.runMiss f line pte [a] none 3)

/-! ### Messages that arrive at a Vat -/

/-- The entry answered RETRY asks for its translation again (R222). -/
def State.vatRetry (s : State) (f : FieldNo) (m : Miss) : State :=
  let page := m.line / 4096
  let s := (s.raise (vatFlagsCa f) 2).postOpen none none f.val 0x31
  let s := s.modVat f fun v => { v with miss := v.miss.map (fun x => if x.line = m.line then { x with wait := .xlat } else x),
                                        tcache := tcDrop v.tcache page }
  s.vatAsk f (match m.accs with | a :: _ => a.job | [] => 0) page

/-- An uncached access answered RETRY asks for its page's entry again (R222). -/
def State.vatUncRetry (s : State) (f : FieldNo) (tag : Nat) (a : VatAccess) : State :=
  let s := (s.raise (vatFlagsCa f) 2).postOpen (some a.job.val) none f.val 0x31
  (s.modVat f fun v => { v with unc := v.unc.filter (fun p => p.1 != tag), tcache := tcDrop v.tcache (a.addr / 2 ^ 21) }).vatPart f a

/-- A status of a coherence response as an access is answered with it. -/
def netStatus : CohSt → NStatus
  | .done => .done
  | .tagErr => .tagErr
  | _ => .addrErr

/-- A Data message at a Vat: the line installed and the waiting accesses performed; RETRY and ADDRERR answers. A RETRY whose RQTAG is that of an
    uncached access of the line answers that access: DESIGN CHOICE, notes/assumptions/136. -/
def State.vatData (s : State) (f : FieldNo) (b : CohBody) : State :=
  match (s.vat f).unc.find? fun p => p.1 == b.rqtag && p.2.addr / 512 == b.line && b.st == .retry with
  | some (tag, a) => s.vatUncRetry f tag a
  | none =>
    match Vat.missOf (s.vat f) b.line with
    | none => s
    | some m =>
      match b.st with
      | .retry => s.vatRetry f m
      | .done => s.vatFill f m b
      | st =>
        let s := s.modVat f fun v => { v with miss := v.miss.filter fun x => x.line != b.line }
        m.accs.foldl (fun s a => s.vatDone f a (netStatus st) [] false cstFault fillWord) s

/-- M granted to a Vat that holds S. -/
def State.vatUpg (s : State) (f : FieldNo) (b : CohBody) : State :=
  match Vat.missOf (s.vat f) b.line, Vat.find (s.vat f) b.line with
  | some m, some (key, l) =>
    (s.modVat f fun v => Vat.put v key (some { l with st := .m })).runMiss f m.line m.pte m.accs m.fwd (3 * m.accs.length + 3)
  | _, _ => s

/-- UPGACK (R209): M granted without data. -/
def execUpgack (f : FieldNo) (h : Head) (b : CohBody) (s : State) : Out :=
  .next (s.arrive h (.cohp .upgAck b) f.val 0x31 fun s => s.vatUpg f b)

/-- A forward that reaches a Vat: held by a miss entry that waits for data, or whose access has not been performed on it yet, or
    answered from the line or from its write-back buffer (R210, R211, R218). -/
def State.vatFwd (s : State) (f : FieldNo) (k : CohRsp) (b : CohBody) : State :=
  let v := s.vat f
  let ex := k == .fwdX
  match Vat.find v b.line with
  | some (key, l) =>
    if (Vat.missOf v b.line).any (fun m => m.wait == .data || m.wait == .room) then
      s.modVat f fun v => { v with miss := v.miss.map fun x => if x.line = b.line then { x with fwd := some (k, b) } else x }
    else s.vatFwdHit f ex b key l
  | none =>
    match v.wb.find? (fun l => l.line == b.line) with
    | some l => s.vatForward f ex b l true
    | none => s.modVat f fun v => { v with miss := v.miss.map fun x => if x.line = b.line then { x with fwd := some (k, b) } else x }

/-- FWDS. -/
def execFwds (f : FieldNo) (h : Head) (b : CohBody) (s : State) : Out :=
  .next (s.arrive h (.cohp .fwdS b) f.val 0x31 fun s => s.vatFwd f .fwdS b)

/-- FWDX. -/
def execFwdx (f : FieldNo) (h : Head) (b : CohBody) (s : State) : Out :=
  .next (s.arrive h (.cohp .fwdX b) f.val 0x31 fun s => s.vatFwd f .fwdX b)

/-- An Inv at a Vat: the line is dropped and the Inv always answered.
    DEDUCED: notes/assumptions/56. -/
def State.vatInv (s : State) (f : FieldNo) (h : Head) (b : CohBody) : State :=
  let s := s.telVat f 8 1
  let s := match Vat.find (s.vat f) b.line with
    | some (key, _) => s.modVat f fun v => Vat.put v key none
    | none => s
  s.vatRespond f h.job (h.sfield, h.ssite) .invAck { line := b.line, rqf := f.val, rqtag := b.rqtag }

/-- INV (R218). -/
def execInv (f : FieldNo) (h : Head) (b : CohBody) (s : State) : Out :=
  .next (s.arrive h (.cohp .inv b) f.val 0x31 fun s => s.vatInv f h b)

/-- PUTACK (R211): the write-back buffer is freed, and fills that waited for one go on. -/
def execPutack (f : FieldNo) (h : Head) (b : CohBody) (s : State) : Out :=
  .next (s.arrive h (.cohp .putAck b) f.val 0x31 fun s =>
    (s.modVat f fun v => { v with wb := v.wb.eraseP fun l => l.line == b.line }).vatRetryFills f)

/-- A translation installed at a Vat: the accesses held for its page go on, and the miss entries that were answered
    RETRY ask again (R205, R222). -/
def State.vatXlatr (s : State) (f : FieldNo) (page : Nat) (pte : Word) : State :=
  let held := (s.vat f).held.filter fun a => a.addr / 2 ^ 21 == page
  let again := (s.vat f).miss.filter fun m => m.line / 4096 == page && m.wait == .xlat
  let s := s.modVat f fun v => { v with tcache := tcPut v.tcache page pte, asked := v.asked.erase page,
                                        held := v.held.filter fun a => a.addr / 2 ^ 21 != page }
  let s := again.foldl (fun s m =>
    if pteMapped pte then
      let s := s.modVat f fun v => { v with miss := v.miss.map fun x => if x.line = m.line then { x with wait := .data, pte := pte } else x }
      s.runMiss f m.line pte m.accs m.fwd 3
    else
      let s := s.modVat f fun v => { v with miss := v.miss.filter fun x => x.line != m.line }
      m.accs.foldl (fun s a => s.vatDeny f a 3) s) s
  held.foldl (fun s a => s.vatServe f a pte) s

/-- An answer to an uncached access of a Vat: RDATA, WACK or CACR (R217). -/
def State.vatUncDone (s : State) (f : FieldNo) (tag : Nat) (st : NStatus) (d : List Byte) (fill : Bool) (cst : Nat) (cmpv : Word) : State :=
  match (s.vat f).unc.find? (fun p => p.1 == tag) with
  | none => s
  | some (_, a) =>
    let s := s.modVat f fun v => { v with unc := v.unc.filter fun p => p.1 != tag }
    let s := match a.op with | .read _ => s.consume f (a.addr / 512) | _ => s
    s.vatDone f a st d fill cst cmpv

/-! ### Flushes (R213) -/

/-- A line written back and invalidated by a flush or a freeze. -/
def State.vatEvict (s : State) (f : FieldNo) (key : Nat) : State :=
  match tget none (s.vat f).lines key with
  | none => s
  | some l => s.vatLeave f key l

/-- The lines of a set that a flush writes back: all, or those of its page. -/
def Vat.flushKeys (v : Vat) (set : Nat) (page : Option Nat) : List Nat :=
  (List.range 16).filterMap fun w =>
    match tget none v.lines (16 * set + w) with
    | some l => if (match page with | some p => l.line / 4096 == p | none => true) then some (16 * set + w) else none
    | none => none

/-- A write to VAT_CMD: rejected while BUSY (R213, Table 9-12). -/
def State.vatCmdWrite (s : State) (f : FieldNo) (ca : Nat) (v : Word) : State :=
  if s.bit ca 63 then s.configError ca
  else match bits v 25 24 with
    | 1 => (s.setFld ca 63 63 1).modVat f fun x => { x with flush := some ⟨none, 0⟩ }
    | 2 => (s.setFld ca 63 63 1).modVat f fun x => { x with flush := some ⟨some (bits v 23 0), 0⟩ }
    | 3 => s.configError ca
    | _ => s

/-- A flush passes its next set, which waits for write-back buffers and for the miss entries of its lines (R208, R213). -/
def State.flushSet (s : State) (f : FieldNo) (whole : Bool) : State :=
  match (s.vat f).flush with
  | none => s
  | some fl =>
    if fl.page.isNone ≠ whole ∨ 4096 ≤ fl.set then s
    else
      let keys := Vat.flushKeys (s.vat f) fl.set fl.page
      let held := keys.any fun k => (tget none (s.vat f).lines k).any fun l => (Vat.missOf (s.vat f) l.line).isSome
      if 32 < (s.vat f).wb.length + keys.length ∨ held then s
      else (keys.foldl (fun s k => s.vatEvict f k) s).modVat f fun v => { v with flush := some { fl with set := fl.set + 1 } }

/-- FLUSH_ALL: a flush of every line passes its next set. -/
def execFlushAll (f : FieldNo) (s : State) : Out := .next (s.flushSet f true)

/-- FLUSH_PAGE: a flush of one page passes its next set. -/
def execFlushPage (f : FieldNo) (s : State) : Out := .next (s.flushSet f false)

/-- FLUSH_DONE: when a flush has passed every set, BUSY clears. -/
def execFlushDone (f : FieldNo) (s : State) : Out :=
  match (s.vat f).flush with
  | some fl => if fl.set < 4096 then .next s
    else .next ((s.modVat f fun v => { v with flush := none }).setFld (vatCa f 0 0) 63 63 0)
  | none => .next s

end Sys2Proof.Machine
end

