-- ==== Sys2Proof/Machine/Home.lean ====
section
/-! DEFINITION. Cellars and homes (R198–R204, R215–R224): cellar accesses, the directory, the translation agent, page
commands and page migration. A home is named by its cellar 0–47, or 48 for the host agent. -/

namespace Sys2Proof.Machine

/-! ### The cellar (R198–R201) -/

def celStatusCa (f : FieldNo) : Nat := cellarCa f 0 0

/-- Whether the cellar serves (R201). -/
def State.cellarReady (s : State) (f : FieldNo) : Bool := s.up f.val && s.fld (celStatusCa f) 2 0 == 2

/-- A cellar's counter TEL_CNT_k advanced. -/
def State.telCellar (s : State) (f : FieldNo) (k n : Nat) : State := s.count (cellarCa f 4 (0x100 + 8 * k)) n

/-- An uncorrectable event of a cellar: UECNT, UE and the event with the offset (R200). -/
def State.cellarUe (s : State) (f : FieldNo) (off : Nat) : State :=
  ((s.bumpSat (celStatusCa f) 63 48 1).raise (celStatusCa f) 3).post 0x0C none none f.val 0x32 (BitVec.ofNat 64 off)

/-- The sectors, by number in the cellar, that a range touches. -/
def sectorsOf (off n : Nat) : List Nat := if n = 0 then [] else (List.range ((off + n - 1) / 64 - off / 64 + 1)).map (off / 64 + ·)

/-- The error state of a sector: the worst of its words, or a place on the fault list (R200). -/
def State.sectorErr (s : State) (f : FieldNo) (k : Nat) : Nat :=
  let e := (wordsOf (cellarAddr f.val (64 * k)) 64).foldl (fun e w => max e (tget 0 s.ecc w)) 0
  if (s.fieldSt f.val).cellar.faults.contains k then 2 else e

def State.modCellar (s : State) (f : FieldNo) (g : Cellar → Cellar) : State := s.modField f.val fun x => { x with cellar := g x.cellar }

/-- A read of a cellar: its bytes, and whether a sector of them was bad, by its own error or, among `failed`, by a transfer
    that failed; bad sectors deliver error fill (R198, R200). -/
def State.cellarRead (s : State) (f : FieldNo) (off len : Nat) (failed : List Nat) : (List Byte × Bool) × State :=
  let ks := sectorsOf off len
  let bad := ks.filter fun k => failed.contains k || decide (2 ≤ s.sectorErr f k)
  let ce := (ks.filter fun k => s.sectorErr f k == 1 && !failed.contains k).length
  let d := (List.range len).map fun i =>
    if bad.contains ((off + i) / 64) then (toBytes 8 0x8000000000000000 : List Byte).getD ((off + i) % 8) 0 else s.byte (cellarAddr f.val (off + i))
  let s := if ce = 0 then s else s.bumpSat (celStatusCa f) 47 32 ce
  ((d, !bad.isEmpty), if bad.isEmpty then s else s.cellarUe f off)

/-- A sector stored whole: its words take new check bits, and it leaves the fault list (R198, R200). -/
def State.sectorStore (s : State) (f : FieldNo) (k : Nat) (d : List Byte) : State :=
  let a := cellarAddr f.val (64 * k)
  let s := (wordsOf a 64).foldl (fun s w => s.setErr (8 * w) 0) s
  (s.setBytes a d).modCellar f fun x => { x with faults := x.faults.filter fun j => j != k }

/-- The bytes of a write from `off` that lie in sector k, and their place in it. -/
def sectorPart (off : Nat) (d : List Byte) (k : Nat) : Nat × List Byte :=
  (off - 64 * k, (d.drop (64 * k - off)).take (64 * (k + 1) - max off (64 * k)))

/-- A sector written: one that the write covers in part is merged with what a read of it delivers, error fill where it is bad (R198,
    R200). DEDUCED: notes/assumptions/134. -/
def State.sectorWrite (s : State) (f : FieldNo) (off : Nat) (d : List Byte) (k : Nat) : State :=
  let p := sectorPart off d k
  if p.2.length = 64 then s.sectorStore f k p.2
  else
    let (r, s) := s.cellarRead f (64 * k) 64 []
    s.sectorStore f k (overwrite r.1 p.1 p.2)

/-- A write of a cellar (R198). -/
def State.cellarWrite (s : State) (f : FieldNo) (off : Nat) (d : List Byte) : State :=
  (sectorsOf off d.length).foldl (fun s k => s.sectorWrite f off d k) s

/-- An access that waits for the cellar's port, after those it has accepted. -/
def State.celOp (s : State) (f : FieldNo) (op : CelOp) : State := s.modCellar f fun x => { x with ops := x.ops ++ [op] }

/-- The first access of a requester that waits and that no earlier access of its line precedes (R198, R199). -/
def Cellar.next (c : Cellar) (who : Nat) : Option CelOp :=
  match c.ops.find? fun o => o.who == who with
  | none => none
  | some o => if (c.ops.takeWhile fun x => x != o).any fun x => x.off / 512 == o.off / 512 then none else some o

/-- The sectors of an access whose transfer failed after its retries: those of `bad`, by sector of the line, that it moves. -/
def CelOp.failing (o : CelOp) (crc : Nat) (bad : BitVec 8) : List Nat :=
  if crc < 5 then [] else (sectorsOf o.off o.len).filter fun k => bad.getLsbD (k % 8) && o.mask.getLsbD (k % 8)

/-- Sectors whose write failed: the event, and their places on the fault list, or UE where it has no room for them (R200). -/
def State.writeFailed (s : State) (f : FieldNo) (off : Nat) (ks : List Nat) : State :=
  if ks.isEmpty then s
  else
    let s := (s.bumpSat (celStatusCa f) 63 48 1).post 0x0C none none f.val 0x32 (BitVec.ofNat 64 off)
    let fl := (s.fieldSt f.val).cellar.faults
    let more := ks.filter fun k => !fl.contains k
    if 64 < fl.length + more.length then s.raise (celStatusCa f) 3 else s.modCellar f fun x => { x with faults := fl ++ more }

/-- An access moved between controller and stack, its transfer having failed its CRC `crc` times and at last in the sectors of
    `bad`: what it read, with whether that is bad (R198–R200). -/
def State.celMove (s : State) (f : FieldNo) (o : CelOp) (crc : Nat) (bad : BitVec 8) : (List Byte × Bool) × State :=
  let s := s.telCellar f 2 (min crc 4)
  let fails := CelOp.failing o crc bad
  match o.write with
  | none => (s.telCellar f 0 1).cellarRead f o.off o.len fails
  | some d =>
    let s := ((sectorsOf o.off o.len).filter fun k => o.mask.getLsbD (k % 8) && !fails.contains k).foldl (fun s k => s.sectorWrite f o.off d k)
      (s.telCellar f 1 1)
    (([], false), s.writeFailed f o.off fails)

/-- The accesses of one direct request, a line each (R26, R199). -/
def State.cellarDirect (s : State) (f : FieldNo) (h : Head) (off : Nat) (write : Option (List Byte)) (len : Nat) : State :=
  let id := (s.fieldSt f.val).cellar.nextId
  let parts := lineParts off 0 (match write with | some d => d.length | none => len) 9
  let s := s.modCellar f fun x => { x with nextId := id + 1, direct := x.direct ++ [⟨id, h, if write.isSome then none else some len, parts.length, [], false⟩] }
  parts.foldl (fun s p => s.celOp f ⟨if write.isSome then 1 else 0, p.2.1, p.2.2, write.map fun d => (d.drop p.1).take p.2.2, 255, .direct id p.1⟩) s

/-- The answer to a read: to its requester, or for a multicast read to its group (R162). -/
def State.readDone (s : State) (h : Head) (field site : Nat) (st : NStatus) (d : List Byte) (fill : Bool) : State :=
  let r := s.replyHead h field site
  match h.mcg with
  | some g => s.send { r with dfield := 0x3E, dsite := 0, mcg := some g } (.rdata st d fill)
  | none => s.send r (.rdata st d fill)

/-- The answer to a write: to its sender, or for a member of a multicast write to the tracker of its source station (R188). -/
def State.writeDone (s : State) (h : Head) (field site : Nat) (st : NStatus) : State :=
  match h.mcg.bind fun g => g.member with
  | some m => s.memberDone h m st
  | none => s.reply h field site (.wack st)

/-- A part of a direct access done: the access so far. -/
def Direct.got (j : Direct) (ofs : Nat) (d : List Byte) (fill : Bool) : Direct :=
  { j with left := j.left - 1, parts := j.parts ++ [(ofs, d)], fill := j.fill || fill }

/-- A direct access whose last part has come, answered by its controller. -/
def State.directDone (s : State) (j : Direct) (field site : Nat) : State :=
  match j.read with
  | none => s.writeDone j.head field site .done
  | some len => s.readDone j.head field site .done (j.parts.foldl (fun b p => overwrite b p.1 p.2) (List.replicate len 0)) j.fill

/-- A part of a direct cellar access done; the last part answers it. -/
def State.cellarPart (s : State) (f : FieldNo) (id ofs : Nat) (d : List Byte) (fill : Bool) : State :=
  match (s.fieldSt f.val).cellar.direct.find? fun j => j.id == id with
  | none => s
  | some j0 =>
    let j := Direct.got j0 ofs d fill
    if 0 < j.left then s.modCellar f fun x => { x with direct := x.direct.map fun y => if y.id = id then j else y }
    else (s.modCellar f fun x => { x with direct := x.direct.filter fun y => y.id != id }).directDone j f.val 0x32

/-! ### Homes -/

def State.home (s : State) (n : Nat) : Home := if n < 48 then (s.fieldSt n).home else s.agent.home

def State.modHome (s : State) (n : Nat) (g : Home → Home) : State :=
  if n < 48 then s.modField n fun x => { x with home := g x.home }
  else { s with agent := { s.agent with home := g s.agent.home } }

/-- Field and site of a home. -/
def homePlace (n : Nat) : Nat × Nat := if n < 48 then (n, 0x32) else (0x3C, 1)

/-- CAVE_HOMESTAT of a home. -/
def homeStatCa (n : Nat) : Nat := if n < 48 then cellarCa (fieldNo n) 2 0 else hostAgentCa 0 0x100

/-- A message of a home. -/
def State.homeSend (s : State) (n : Nat) (job : JobNo) (dst : Nat × Nat) (tag : Nat) (b : Body) : State :=
  let p := homePlace n
  s.send { s.nodeHead job p.1 p.2 dst.1 dst.2 with tag := tag } b

/-- The host agent changed. -/
def State.modAgent (s : State) (g : Agent → Agent) : State := { s with agent := g s.agent }

/-- An operation for the host's memory queued at the host agent (R220, R221). -/
def State.hostOp (s : State) (op : HostOp) : State := s.modAgent fun a => { a with ops := a.ops ++ [op] }

/-! ### Directory (R215): 8,192 sets of 16, least recently used first -/

def dirSet (line : Nat) : Nat := line % 8192

def Home.entry (h : Home) (line : Nat) : Option DirEntry := (tget [] h.dir (dirSet line)).find? fun e => e.line == line

/-- What the directory records of a line; none is state I. -/
def Home.stOf (h : Home) (line : Nat) : Option DirSt := (Home.entry h line).map fun e => e.st

def Home.setEntry (h : Home) (line : Nat) (st : Option DirSt) (pte : Word) : Home :=
  let l := (tget [] h.dir (dirSet line)).filter fun e => e.line != line
  { h with dir := tset [] h.dir (dirSet line) (match st with
      | some (.shared 0) => l
      | some st => l ++ [⟨line, st, pte⟩]
      | none => l) }

def Home.dirUse (h : Home) : Nat := h.dir.foldl (fun n p => n + p.2.length) 0

/-- Whether a transaction is open on a line. -/
def Home.busy (h : Home) (line : Nat) : Bool := h.slots.any fun t => t.line == line

/-- Whether a request may need a new entry. -/
def HomeReq.wantsEntry : HomeReq → Bool
  | .coh .readS _ => true
  | .coh .readX _ => true
  | .coh .upgrade _ => true
  | _ => false

/-- The entries that the open requests of a set are yet to make. -/
def Home.promised (h : Home) (set : Nat) : Nat :=
  (h.slots.filter fun t => HomeReq.wantsEntry t.req && dirSet t.line == set && (Home.entry h t.line).isNone).length

/-- Whether the directory has room for a line's entry, beside those that open requests are yet to make (R215). -/
def Home.roomFor (h : Home) (line : Nat) : Bool :=
  (Home.entry h line).isSome || decide ((tget [] h.dir (dirSet line)).length + Home.promised h (dirSet line) < 16)

/-! ### Memory of a home -/

/-- The sectors of a line written to memory by a home (R219, R220): a Memory Write for each run of dirty sectors. -/
def State.homeWrite (s : State) (n : Nat) (line : Nat) (pte : Word) (mask : BitVec 8) (d : List Byte) : State :=
  let a := frameAddr pte (512 * line)
  if mask = 0 then s
  else if n < 48 then s.celOp (fieldNo n) ⟨1, a, 512, some d, mask, .posted⟩
  else
    let rec runs (s : State) (start k : Nat) : Nat → State
      | 0 => s
      | fuel + 1 =>
        if k < 8 ∧ mask.getLsbD k then runs s start (k + 1) fuel
        else
          let s := if start < k then
              s.hostOp ⟨a + 64 * start, 64 * (k - start), some ((d.drop (64 * start)).take (64 * (k - start))), .wb line, pteJobNo pte⟩
            else s
          runs s (k + 1) (k + 1) fuel
    runs s 0 0 9


/-! ### Transactions (R216–R219) -/

/-- An Inv to each Vat of a list. -/
def State.sendInvs (s : State) (n : Nat) (job : JobNo) (line : Nat) (vats : List Nat) : State :=
  vats.foldl (fun s v => s.homeSend n job (v, 0x31) 0 (.cohp .inv { line := line })) s

/-- The Vats of a sharer vector. -/
def vatsOf (v : BitVec 48) : List Nat := (List.range 48).filter fun i => v.getLsbD i

/-- The Vat that a request comes from. -/
def reqVat (h : Head) : Nat := h.sfield

/-- A transaction finished: its slot freed and the line's entry set. -/
def State.txnEnd (s : State) (n : Nat) (t : HomeTxn) (st : Option DirSt) : State :=
  s.modHome n fun h => { Home.setEntry h t.line st t.pte with slots := (Home.setEntry h t.line st t.pte).slots.filter fun x => x.line != t.line }

/-- The tag that a requester gave. -/
def reqTag (h : Head) : HomeReq → Nat
  | .coh _ b => b.rqtag
  | _ => h.tag

/-- What the transaction open on a line waits for, changed. -/
def State.txnWait (s : State) (n line : Nat) (w : TxnWait) : State :=
  s.modHome n fun h => { h with slots := h.slots.map fun x => if x.line = line then { x with wait := w } else x }

/-- The answer of an uncached access, and its end. -/
def State.uncEnd (s : State) (n : Nat) (t : HomeTxn) (b : Body) (st : Option DirSt) : State :=
  let p := homePlace n
  (match b with
    | .rdata r d fill => s.readDone t.head p.1 p.2 r d fill
    | .wack r => s.writeDone t.head p.1 p.2 r
    | b => s.reply t.head p.1 p.2 b).txnEnd n t st

/-- Bytes of an uncached access written to memory; the home answers with `b` once they are (R217). -/
def State.txnStore (s : State) (n : Nat) (t : HomeTxn) (addr : Nat) (d : List Byte) (b : Body) : State :=
  let s := s.txnWait n t.line (.stored b)
  if n < 48 then s.celOp (fieldNo n) ⟨1, frameAddr t.pte addr, d.length, some d, 255, .txn t.line⟩
  else s.hostOp ⟨frameAddr t.pte addr, d.length, some d, .store t.line, t.head.job⟩

/-- A compare-and-count at a home on the word read (R150, R217): it changes nothing and reports FAULT where the word was bad. -/
def State.txnCac (s : State) (n : Nat) (t : HomeTxn) (a op imm : Nat) (who : Requester) (d : List Byte) (bad : Bool) : State :=
  let w : Word := BitVec.ofNat 64 (ofBytes d)
  match cacOpOf op with
  | none => s.uncEnd n t (.cacr .addrErr cstFault fillWord) none
  | some o =>
    if bad then s.uncEnd n t (.cacr .done cstFault fillWord) none
    else
      let copy (k : Nat) : Nat := if n < 48 then s.fld (eptabCa ⟨fieldNo n, 0⟩ k) 15 0 else (tget 0 s.epochs k).toNat
      let (w', cst) := cacStep o imm w who copy
      if w' = w then s.uncEnd n t (.cacr .done cst w) none else s.txnStore n t a (toBytes 8 w'.toNat) (.cacr .done cst w)

/-- The bytes of a home's read that its request asks for: the whole line, or those of an uncached access, by place in the line. -/
def HomeReq.range : HomeReq → Nat × Nat
  | .read a len => (a % 512, len)
  | .cac a _ _ _ => (a % 512, 8)
  | _ => (0, 512)

/-- The bytes of a transaction have been read from memory, with whether they are bad: its answer, and the directory (Table 9-7). -/
def State.txnFill (s : State) (n : Nat) (t : HomeTxn) (d : List Byte) (bad : Bool) : State :=
  let v := reqVat t.head
  let data (s : State) (g : LineSt) : State :=
    s.homeSend n t.head.job (v, 0x31) (reqTag t.head t.req)
      (.cohp .data { line := t.line, grant := g, rqtag := reqTag t.head t.req, bytes := some d, pte := t.pte })
  let old := Home.stOf (s.home n) t.line
  match t.req with
  | .coh .readS _ =>
    match old with
    | some (.shared m) => (data s .s).txnEnd n t (some (.shared (m ||| BitVec.ofNat 48 (1 <<< v))))
    | _ => (data s .e).txnEnd n t (some (.owned v))
  | .coh _ _ => (data s .m).txnEnd n t (some (.owned v))
  | .read _ _ => s.uncEnd n t (.rdata .done d bad) old
  | .cac a op imm who => s.txnCac n t a op imm who d bad
  | _ => s

/-- The memory read of a transaction, as it waits for the port of the home's memory (R199, R220). -/
def State.txnRead (s : State) (n : Nat) (t : HomeTxn) : State :=
  let s := s.txnWait n t.line .mem
  if n < 48 then
    let r := HomeReq.range t.req
    s.celOp (fieldNo n) ⟨0, frameAddr t.pte (512 * t.line) + r.1, r.2, none, 255, .txn t.line⟩
  else s.hostOp ⟨frameAddr t.pte (512 * t.line), 512, none, .line t.line, t.head.job⟩

/-- A request goes to memory once no Vat holds its line, or only in S for a read: an uncached write is stored, anything else reads
    first (Table 9-7). -/
def State.txnMem (s : State) (n : Nat) (t : HomeTxn) : State :=
  match t.req with
  | .write a d => s.txnStore n t a d (.wack .done)
  | _ => s.txnRead n t

/-- The memory access of the transaction open on a line is done: what it read, or its write. -/
def State.txnMemory (s : State) (n line : Nat) (d : List Byte) (bad : Bool) : State :=
  match (s.home n).slots.find? fun t => t.line == line with
  | none => s
  | some t =>
    match t.wait with
    | .mem => s.txnFill n t d bad
    | .stored b => s.uncEnd n t b none
    | _ => s

/-- A request served on a line that is not busy (Table 9-7). -/
def State.txnStart (s : State) (n : Nat) (t0 : HomeTxn) : State :=
  let ent := Home.entry (s.home n) t0.line
  let t := { t0 with pte := match ent with | some e => e.pte | none => t0.pte }
  let v := reqVat t.head
  let job := t.head.job
  let openT (s : State) (w : TxnWait) : State := s.modHome n fun h => { h with slots := h.slots ++ [{ t with wait := w }] }
  let fwd (s : State) (o : Nat) (k : CohRsp) (rqf : Nat) : State :=
    (openT s (.fwd o (k == .fwdX))).homeSend n job (o, 0x31) 0
      (.cohp k { line := t.line, rqf := rqf, rqtag := reqTag t.head t.req })
  let invs (s : State) (vs : List Nat) : State :=
    let s := (openT s (.acks vs)).sendInvs n job t.line vs
    if vs.isEmpty then s.txnMem n t else s
  match t.req, Home.stOf (s.home n) t0.line with
  | .coh .readS _, some (.owned o) => fwd s o .fwdS v
  | .coh .readS _, _ => (openT s .mem).txnMem n t
  | .coh .upgrade _, some (.shared m) =>
    if m.getLsbD v then
      let vs := (vatsOf m).filter (· != v)
      if vs.isEmpty then
        ((openT s .mem).homeSend n job (v, 0x31) (reqTag t.head t.req)
          (.cohp .upgAck { line := t.line, grant := .m, rqtag := reqTag t.head t.req })).txnEnd n t (some (.owned v))
      else (openT s (.acks vs)).sendInvs n job t.line vs
    else invs s (vatsOf m)
  | .coh _ _, some (.owned o) => fwd s o .fwdX v
  | .coh _ _, some (.shared m) => invs s ((vatsOf m).filter (· != v))
  | .coh _ _, none => (openT s .mem).txnMem n t
  | .read _ _, some (.owned o) => fwd s o .fwdS 0x3C
  | .read _ _, _ => (openT s .mem).txnMem n t
  | .recall, some (.owned o) => fwd s o .fwdX 0x3C
  | .recall, some (.shared m) =>
    let vs := vatsOf m
    (openT s (.acks vs)).sendInvs n job t.line vs
  | .recall, none => s
  | _, some (.owned o) => fwd s o .fwdX 0x3C
  | _, some (.shared m) => invs s (vatsOf m)
  | _, none => (openT s .mem).txnMem n t

/-- The first waiting request that may start: its line is not busy, no earlier request waits for the line, a slot is
    free and the directory has room (R215, R216). -/
def Home.startable (h : Home) : List (Head × Nat × HomeReq) → List (Head × Nat × HomeReq) → Option (Head × Nat × HomeReq)
  | _, [] => none
  | seen, q :: qs =>
    let slot := match q.2.2 with | .recall => decide (h.slots.length < 64) | _ => decide ((h.slots.filter fun t => t.req != .recall).length < 60)
    if !Home.busy h q.2.1 && !(seen.any fun p => p.2.1 == q.2.1) && slot && (!HomeReq.wantsEntry q.2.2 || Home.roomFor h q.2.1) then some q
    else Home.startable h (seen ++ [q]) qs

/-- Waiting requests started, in order, as far as they may. -/
def State.homeDrain (s : State) (n : Nat) : Nat → State
  | 0 => s
  | fuel + 1 =>
    match Home.startable (s.home n) [] (s.home n).queue with
    | none => s
    | some q =>
      let s := s.modHome n fun h => { h with queue := h.queue.erase q }
      State.homeDrain (s.txnStart n ⟨q.2.1, q.1, q.2.2, q.1.pte, .mem⟩) n fuel

/-- The directory entries of a page. -/
def Home.pageEntries (h : Home) (page : Nat) : List DirEntry :=
  (h.dir.map fun p => p.2.filter fun e => e.line / 4096 == page).flatten

/-- Recalls queued for the entries of the pages under PREC, and PRECAck sent when none is left (R222). -/
def State.precCheck (s : State) (n : Nat) : State :=
  (s.home n).recalls.foldl (fun s r =>
    let (page, hd, acked) := r
    if acked then s
    else
      let h := s.home n
      let es := (Home.pageEntries h page).filter fun e =>
        !((h.slots.any fun t => t.line == e.line && t.req == .recall) || h.queue.any fun q => q.2.1 == e.line)
      if es.isEmpty ∧ (Home.pageEntries h page).isEmpty ∧ !(h.slots.any fun t => t.line / 4096 == page) ∧
          !(h.queue.any fun q => q.2.1 / 4096 == page) then
        let s := s.modHome n fun h => { h with recalls := h.recalls.map fun x => if x.1 = page then (page, hd, true) else x }
        s.homeSend n hd.job (hd.sfield, hd.ssite) hd.tag (.cohp .precAck { line := page })
      else
        let s := s.modHome n fun h => { h with queue := h.queue ++ es.map fun e => (hd, e.line, HomeReq.recall) }
        s.homeDrain n (h.queue.length + es.length + 1)) s

/-- A home goes on after a change: waiting requests and recalls. -/
def State.homeGo (s : State) (n : Nat) : State :=
  (s.homeDrain n ((s.home n).queue.length + 1)).precCheck n

/-- The access counter of a page's frame or, at the host agent, of the page (R224). -/
def counterCa (n : Nat) (pte : Word) (line : Nat) : Nat :=
  if n < 48 then cellarCa (fieldNo n) 3 (0x10000 + 8 * bits pte 34 21) else hostAgentCa 1 (0x10000 + 8 * (line / 4096 % 65536))

/-- The answer RETRY to a request under a page's recall (R222): a Data message, which alone has a code for it, with the request's tag
    as RQTAG, to an uncached access too. DESIGN CHOICE: notes/assumptions/136. -/
def State.homeRetry (s : State) (n : Nat) (h : Head) (line : Nat) (req : HomeReq) : State :=
  s.homeSend n h.job (h.sfield, h.ssite) (reqTag h req) (.cohp .data { line := line, st := .retry, rqtag := reqTag h req })

/-- A request that arrives at a home (R201, R206, R215, R222): refused, answered RETRY, or accepted. -/
def State.homeRequest (s : State) (n : Nat) (h : Head) (b : Body) (line : Nat) (req : HomeReq) : State :=
  let p := homePlace n
  let refuse (s : State) (st : NStatus) : State := s.refuseWith h b p.1 p.2 st
  let unc := match req with | .coh _ _ => false | _ => true
  if n < 48 ∧ !s.cellarReady (fieldNo n) then refuse (s.packetError { head := h, body := b }) .addrErr
  else if unc && (!pteMapped h.pte || !pteJob h.pte h.job) then
    refuse (s.post 0x05 (some h.job.val) none p.1 p.2 (BitVec.ofNat 64 (512 * line))) .addrErr
  else if (s.home n).recalls.any fun r => r.1 == line / 4096 then
    (if n < 48 then s.telCellar (fieldNo n) 4 1 else s).homeRetry n h line req
  else
    let s := if n < 48 then s.telCellar (fieldNo n) 3 1 else s
    let s := s.bumpSat (counterCa n h.pte line) 15 0 1
    (s.modHome n fun x => { x with queue := x.queue ++ [(h, line, req)] }).homeGo n

/-- The place of a request's home: a cellar, or the host agent. -/
def homeNo (h : Head) : Nat := if h.dfield < 48 then h.dfield else 48

/-- A message that reaches a home: the tag is checked at a cellar; the host agent makes no check (R183). -/
def State.arriveHome (s : State) (h : Head) (b : Body) (f : State → State) : State :=
  if h.dfield < 48 then s.arrive h b h.dfield h.dsite f else f (s.takePacket h b)

/-- A coherence request of a Vat reaches its home. -/
def State.homeCoh (s : State) (k : CohReq) (h : Head) (b : CohBody) : State :=
  s.arriveHome h (.cohq k b) fun s => s.homeRequest (homeNo h) h (.cohq k b) b.line (.coh k b)

/-- READS (R217). -/
def execReads (h : Head) (b : CohBody) (s : State) : Out := .next (s.homeCoh .readS h b)

/-- READX (R217). -/
def execReadx (h : Head) (b : CohBody) (s : State) : Out := .next (s.homeCoh .readX h b)

/-- UPGRADE (R217). -/
def execUpgrade (h : Head) (b : CohBody) (s : State) : Out := .next (s.homeCoh .upgrade h b)

/-! ### Puts (R219) -/

/-- Whether a Put is current: the directory records its sender, and no forward or Inv to it is outstanding. -/
def Home.putCurrent (h : Home) (line vat : Nat) (k : CohReq) : Bool :=
  (match Home.stOf h line, k with
    | some (.owned o), .putM => o == vat
    | some (.owned o), .putE => o == vat
    | some (.shared m), .putS => m.getLsbD vat
    | _, _ => false) &&
  !(h.slots.any fun t => t.line == line && (match t.wait with
    | .fwd o _ => o == vat
    | .acks vs => vs.contains vat
    | _ => false))

/-- A Put at a home: written and removed if current, and always answered PutAck; one that reaches a cellar that is not READY
    changes nothing (R201, R219). -/
def State.homePut (s : State) (k : CohReq) (h : Head) (b : CohBody) : State :=
  s.arriveHome h (.cohq k b) fun s =>
    let n := homeNo h
    let v := reqVat h
    if n < 48 ∧ !s.cellarReady (fieldNo n) then (s.packetError { head := h, body := .cohq k b }).refuseWith h (.cohq k b) (homePlace n).1 (homePlace n).2 .addrErr
    else
    let s := if Home.putCurrent (s.home n) b.line v k then
        let s := if k = .putM then s.homeWrite n b.line h.pte b.smask (b.bytes.getD []) else s
        s.modHome n fun x => Home.setEntry x b.line (match Home.stOf x b.line with
          | some (.shared m) => some (.shared (m &&& ~~~(BitVec.ofNat 48 (1 <<< v))))
          | _ => none) h.pte
      else s
    (s.homeSend n h.job (v, 0x31) b.rqtag (.cohp .putAck { line := b.line, rqtag := b.rqtag })).homeGo n

/-- PUTM (R219). -/
def execPutm (h : Head) (b : CohBody) (s : State) : Out := .next (s.homePut .putM h b)

/-- PUTE (R219). -/
def execPute (h : Head) (b : CohBody) (s : State) : Out := .next (s.homePut .putE h b)

/-- PUTS (R219). -/
def execPuts (h : Head) (b : CohBody) (s : State) : Out := .next (s.homePut .putS h b)

/-! ### Answers to a home (R217, R218) -/

/-- Every InvAck of a transaction has come. -/
def State.acksDone (s : State) (n : Nat) (t : HomeTxn) : State :=
  let v := reqVat t.head
  let shares := match Home.stOf (s.home n) t.line with | some (.shared m) => m.getLsbD v | _ => false
  match t.req with
  | .recall => s.txnEnd n t none
  | .coh .upgrade _ =>
    if shares then
      (s.homeSend n t.head.job (v, 0x31) (reqTag t.head t.req)
        (.cohp .upgAck { line := t.line, grant := .m, rqtag := reqTag t.head t.req })).txnEnd n t (some (.owned v))
    else s.txnMem n t
  | _ => s.txnMem n t

/-- The transaction open on a line. -/
def Home.txnOf (h : Home) (line : Nat) : Option HomeTxn := h.slots.find? fun t => t.line == line

/-- INVACK: an InvAck counts towards its transaction (R217). -/
def execInvack (h : Head) (b : CohBody) (s : State) : Out :=
  .next (s.arriveHome h (.cohp .invAck b) fun s =>
    let n := homeNo h
    match Home.txnOf (s.home n) b.line with
    | some t =>
      match t.wait with
      | .acks vs =>
        let rest := vs.erase b.rqf
        let s := s.modHome n fun x => { x with slots := x.slots.map fun y => if y.line = b.line then { y with wait := .acks rest } else y }
        if rest.isEmpty ∧ vs.contains b.rqf then (s.acksDone n t).homeGo n else s
      | _ => s
    | none => s)

/-- A FwdAck completes its transaction (R217, R218). -/
def State.fwdDone (s : State) (n : Nat) (t : HomeTxn) (b : CohBody) (o : Nat) : State :=
  let v := reqVat t.head
  let s := match b.bytes with | some d => s.homeWrite n t.line t.pte b.smask d | none => s
  let one (k : Nat) : BitVec 48 := BitVec.ofNat 48 (1 <<< k)
  match t.req with
  | .coh .readS _ => s.txnEnd n t (some (.shared (if b.keep then one v ||| one o else one v)))
  | .coh _ _ => s.txnEnd n t (some (.owned v))
  | .read a len =>
    s.uncEnd n t (.rdata .done (((b.bytes.getD []).drop (a % 512)).take len) false) (if b.keep then some (.shared (one o)) else none)
  | .recall => s.txnEnd n t none
  | _ => s.txnMem n t

/-- FWDACK: a forward is complete (R218). -/
def execFwdack (h : Head) (b : CohBody) (s : State) : Out :=
  .next (s.arriveHome h (.cohp .fwdAck b) fun s =>
    let n := homeNo h
    match Home.txnOf (s.home n) b.line with
    | some t =>
      match t.wait with
      | .fwd o _ => (s.fwdDone n t b o).homeGo n
      | _ => s
    | none => s)

/-- A recall of a directory entry begun: it takes a slot. -/
def State.recallEntry (s : State) (n : Nat) (h : Head) (e : DirEntry) : State :=
  (s.txnStart n ⟨e.line, h, .recall, e.pte, .mem⟩).homeGo n

/-- DIRECTORY_RECALL (R215, R385): the first waiting request that finds its set full makes the home recall the set's least
    recently used entry that is not busy; the home of a FREEZING field recalls every entry. -/
def execDirectoryRecall (n : Fin 49) (s : State) : Out :=
  let h := s.home n.val
  if n.val < 48 ∧ s.fieldState n.val = 5 then
    match (h.dir.flatMap fun p => p.2).find? fun e => !Home.busy h e.line with
    | none => .next s
    | some e =>
      if 64 ≤ h.slots.length then .next s
      else .next (s.recallEntry n.val (s.nodeHead (pteJobNo e.pte) n.val 0x32 n.val 0x32) e)
  else match h.queue.find? (fun q => HomeReq.wantsEntry q.2.2 && !Home.roomFor h q.2.1 && !Home.busy h q.2.1) with
  | none => .next s
  | some q =>
    let set := tget [] h.dir (dirSet q.2.1)
    match set.find? (fun e => !Home.busy h e.line) with
    | none => .next s
    | some e =>
      if 64 ≤ h.slots.length ∨ h.slots.any (fun t => t.req == .recall && dirSet t.line == dirSet q.2.1) then .next s
      else
        let s := s.bumpSat (homeStatCa n.val) 63 48 1
        .next (s.recallEntry n.val q.1 e)

/-! ### Page recalls (R222) -/

/-- PREC: a page recall at the old home, or with END = 1 its end; a cellar that is not READY answers that it has an address
    error (R201). -/
def execPrec (h : Head) (b : CohBody) (s : State) : Out :=
  .next (s.arriveHome h (.cohq .prec b) fun s =>
    let n := homeNo h
    if n < 48 ∧ !s.cellarReady (fieldNo n) then (s.packetError { head := h, body := .cohq .prec b }).refuseWith h (.cohq .prec b) (homePlace n).1 (homePlace n).2 .addrErr
    else if b.fin then s.modHome n fun x => { x with recalls := x.recalls.filter fun r => r.1 != b.line }
    else (s.modHome n fun x => { x with recalls := x.recalls ++ [(b.line, h, false)] }).homeGo n)

end Sys2Proof.Machine
end

