-- ==== Sys2Proof/Machine/Migrate.lean ====
section
/-! DEFINITION. The translation agent, page-table commands, page migration, access counters and the fetch engine
(R202–R205, R222–R227). -/

namespace Sys2Proof.Machine

/-! ### The page table (R202, R203) -/

def caveCtlCa : Nat := hostAgentCa 0 0x00
def ptBaseCa : Nat := hostAgentCa 0 0x08
def ptSizeCa : Nat := hostAgentCa 0 0x10
def ptDataCa : Nat := hostAgentCa 0 0x18
def ptCmdCa : Nat := hostAgentCa 0 0x20
def migCtlCa : Nat := hostAgentCa 1 0x00
def migCmdCa : Nat := hostAgentCa 1 0x08
def migStatusCa : Nat := hostAgentCa 1 0x10

/-- Whether the Cave is enabled and a page lies below NPAGES (R202).
    DEDUCED: notes/assumptions/53. -/
def State.pageMapped (s : State) (page : Nat) : Bool := s.bit caveCtlCa 0 && decide (page < s.fld ptSizeCa 24 0)

/-- Where the entry of a page lies. -/
def State.pteAddr (s : State) (page : Nat) : Nat := s.fld ptBaseCa 55 0 + 8 * page

/-- The entry of a page written, by requester `who` of a cellar's port; what its end is for, in a cellar and at the host. One that
    its cellar does not serve changes nothing (R201), and is over at once. -/
def State.pteWrite (s : State) (page : Nat) (w : Word) (who : Nat) (cel : CelUse) (host : HostUse) : Bool × State :=
  match decodeAddr (s.pteAddr page) with
  | .cellar f off => if s.cellarReady f then (false, s.celOp f ⟨who, off, 8, some (toBytes 8 w.toNat), 255, cel⟩) else (true, s)
  | .host a => (false, s.hostOp ⟨a, 8, some (toBytes 8 w.toNat), host, 0⟩)
  | _ => (true, s)

/-- The entry of a page written by the migration engine. -/
def State.pteSet (s : State) (page : Nat) (w : Word) : State := (s.pteWrite page w 2 .posted .posted).2

/-! ### Translation requests (R205) -/

/-- Whether a move or a CAVE_PTCMD write of a page is under way. -/
def Move.locks (m : Option Move) (page : Nat) : Bool :=
  m.any fun m => m.page == page && m.kind != .ptRead && (match m.step with | .ask => false | .done => false | _ => true)

def State.pageLocked (s : State) (page : Nat) : Bool := Move.locks s.agent.move page || Move.locks s.agent.ptcmd page

/-! ### The host's Cave accesses (R207) -/

/-- The address of a request. -/
def bodyAddr : Body → Nat
  | .rd a _ => a
  | .wr a _ => a
  | .cac a _ _ _ => a
  | .bzw a _ => a
  | _ => 0

/-- What a request asks of a home. -/
def homeReqOf : Body → HomeReq
  | .rd a n => .read a n
  | .wr a d => .write a d
  | .cac a op imm who => .cac a op imm who
  | _ => .recall

/-- A host access with its page's entry sent to the page's home; an unmapped page is an address error (R206).
    DEDUCED: notes/assumptions/68. -/
def State.agentServe (s : State) (h : Head) (b : Body) (pte : Word) : State :=
  let a := bodyAddr b
  let p := homeOf pte
  let h := { h with dfield := p.1, dsite := p.2, pte := pte }
  if !pteMapped pte then (s.post 0x05 (some h.job.val) none 0x3C 1 (BitVec.ofNat 64 a)).refuseWith h b 0x3C 1 .addrErr
  else if p.1 < 48 then s.send h b
  else s.homeRequest 48 h b (a / 512) (homeReqOf b)

/-- The host accesses that wait for a page's entry go on with it. -/
def State.agentWake (s : State) (page : Nat) (pte : Word) : State :=
  let mine := s.agent.calls.filter fun c => c.1 && bodyAddr c.2.2 / 2 ^ 21 == page
  if mine.isEmpty then s
  else
    let calls := s.agent.calls.map fun c => if c.1 && bodyAddr c.2.2 / 2 ^ 21 == page then (false, c.2) else c
    let s := s.modAgent fun a => { a with tcache := tcPut a.tcache page pte, calls := calls }
    mine.foldl (fun s c => s.agentServe c.2.1 c.2.2 pte) s

/-- The first n XLATs that wait for a page answered, unless a migration holds them (R205). -/
def State.xlatFirst (s : State) (page : Nat) (w : Word) (n : Nat) : State :=
  if s.pageLocked page || (w.getLsbD 63 && w.getLsbD 58) then s
  else
    let mine := (s.agent.xlat.filter fun x => x.2 == page).take n
    let s := s.modAgent fun a => { a with xlat := a.xlat.filter fun x => !mine.contains x }
    mine.foldl (fun s x => s.homeSend 48 x.1.job (x.1.sfield, x.1.ssite) x.1.tag
      (.cohp .xlatR { line := page, pte := if pteMapped w then w else 0, rqtag := x.1.tag })) s

/-- The XLATs that wait for a page, and the host's accesses, answered, unless a migration holds them (R205). -/
def State.xlatAnswer (s : State) (page : Nat) (w : Word) : State :=
  if s.pageLocked page || (w.getLsbD 63 && w.getLsbD 58) then s
  else (s.xlatFirst page w s.agent.xlat.length).agentWake page (if pteMapped w then w else 0)

/-- The XLATs of a page that have arrived and not been answered. -/
def State.xlatsAhead (s : State) (page : Nat) : Nat := (s.agent.xlat.filter fun x => x.2 == page).length

/-! ### Moves and page-table writes (R204, R222, R223) -/

/-- A move, or the page-table command, changed. -/
def State.setMove (s : State) (pt : Bool) (m : Option Move) : State :=
  s.modAgent fun a => if pt then { a with ptcmd := m } else { a with move := m }

/-- The page's recall at its old home begun or ended (steps 4 and 9). -/
def State.sendPrec (s : State) (m : Move) (fin : Bool) : State :=
  s.homeSend 48 (pteJobNo m.old) (homeOf m.old) 0 (.cohq .prec { line := m.page, fin := fin })

/-- Steps 2 and 3: TINV to every Vat of a powered field that has thawed, a FREEZING one too, and to the Rind's own cache (R205). It
    answers the fields asked. -/
def State.sendTinv (s : State) (page : Nat) : List Nat × State :=
  let fs := (List.range 48).filter fun f => s.up f
  let s := s.modAgent fun a => { a with tcache := tcDrop a.tcache page }
  (fs, fs.foldl (fun s f => s.homeSend 48 0 (f, 0x31) 0 (.cohp .tinv { line := page })) s)

/-- The command done: the XLATs of its page go on with the new entry, and PT_COMMAND_DONE clears BUSY. -/
def State.ptWritten (s : State) (m : Move) : State :=
  (s.setMove true (some { m with step := .done })).xlatAnswer m.page (m.new &&& ~~~(BitVec.ofNat 64 (1 <<< 58)))

/-- The new entry of a CAVE_PTCMD write has been written: the recall ends, and the translations of the page are invalidated
    again (R204). -/
def State.ptStored (s : State) : State :=
  match s.agent.ptcmd with
  | none => s
  | some m =>
    if m.step ≠ .store then s
    else
      let s := if pteMapped m.old then s.sendPrec m true else s
      let (fs, s) := s.sendTinv m.page
      if fs.isEmpty then s.ptWritten m else s.setMove true (some { m with step := .last fs })

/-- The new entry of a CAVE_PTCMD write goes to the table (R204). -/
def State.ptStore (s : State) (m : Move) : State :=
  let s := s.setMove true (some { m with step := .store })
  match s.pteWrite m.page (m.new &&& ~~~(BitVec.ofNat 64 (1 <<< 58))) 1 (.ptw m.page) (.ptw m.page) with
  | (true, s) => s.ptStored
  | (false, s) => s

/-- Translations of a page are gone: the recall of its lines begins. -/
def State.moveTinvDone (s : State) (pt : Bool) (m : Move) : State :=
  (s.setMove pt (some { m with step := .prec })).sendPrec m false

/-- The page's entry is locked with MIG = 1, and its translations are invalidated (steps 1 and 2). -/
def State.moveLock (s : State) (pt : Bool) (m : Move) : State :=
  let s := s.pteSet m.page (m.old ||| BitVec.ofNat 64 (1 <<< 58))
  let (fs, s) := s.sendTinv m.page
  let m := { m with step := .tinv fs }
  let s := s.setMove pt (some m)
  if fs.isEmpty then s.moveTinvDone pt m else s

/-- The entry that a move writes: the new tier, cellar and frame, the other bits kept. -/
def moveEntry (old : Word) (host : Bool) (cell frame : Nat) : Word :=
  setBits (setBits (setBits (setBits old 62 61 (if host then 1 else 0)) 58 58 0) 53 48 (if host then 0 else cell)) 47 21 frame

/-- A migration event (Table 15-15). -/
def State.migEvent (s : State) (page noframe host frame cell : Nat) : State :=
  s.post 0x19 none none 0x3C 1 (BitVec.ofNat 64 (host <<< 63 + noframe <<< 62 + frame <<< 24 + cell <<< 40 + page))

/-- Whether the engine moves a page of its own accord: a mapped host page that is not pinned (R224). -/
def promotable (w : Word) : Bool := pteMapped w && !w.getLsbD 58 && !w.getLsbD 60 && bits w 62 61 == 1

/-- A move whose entry has been read: dropped, rejected, without a frame, or begun (R223). -/
def State.moveStart (s : State) (m : Move) (w : Word) : State :=
  let auto := match m.kind with | .move a => a | _ => false
  let drop (s : State) : State := (s.modAgent fun a => { a with last := m.page }).setMove false none
  if auto && !promotable w then drop s
  else if !pteMapped w || w.getLsbD 58 then (drop s).configError migCmdCa
  else
    let host := m.cmd.getLsbD 61
    let cell := bits m.cmd 59 54
    if m.cmd.getLsbD 60 then
      match (s.fieldSt cell).free with
      | [] => ((drop s).bumpSat migStatusCa 47 32 1).migEvent m.page 1 0 0 0
      | fr :: rest =>
        (s.modField cell fun x => { x with free := rest }).moveLock false { m with old := w, new := moveEntry w false cell fr }
    else s.moveLock false { m with old := w, new := moveEntry w host cell (bits m.cmd 53 27) }

/-- A page-table command whose entry has been read: rejected where the entry has MIG = 1 (R204). -/
def State.ptStart (s : State) (m : Move) (w : Word) : State :=
  if w.getLsbD 63 ∧ w.getLsbD 58 then ((s.setFld ptCmdCa 62 62 1).setFld ptCmdCa 63 63 0).setMove true none
  else match m.kind with
    | .ptRead => (s.setReg ptDataCa w).setMove true (some { m with step := .done })
    | _ => if pteMapped w then s.moveLock true { m with old := w } else s.ptStore { m with old := w }

/-- Whether a move of a page is queued or in progress. -/
def State.moveKnown (s : State) (page : Nat) : Bool :=
  s.agent.moves.any (fun r => bits r.word 23 0 == page) || s.agent.move.any fun m => m.page == page

/-- The first cellar, counting upward from P mod 48, whose free ring is not empty (R224). -/
def State.freeCellar (s : State) (page : Nat) : Option Nat :=
  ((List.range 48).map fun i => (page + i) % 48).find? fun c => !(s.fieldSt c).free.isEmpty

/-- The word of a promotion of a page to a cellar, in the layout of MIG_CMD. -/
def promotion (page cell : Nat) : Word := BitVec.ofNat 64 (1 <<< 62 + 1 <<< 60 + cell <<< 54 + page)

/-- A MIG_CMD write, or a promotion, whose page's entry has been read: queued or rejected (R223, R224). -/
def State.moveAsked (s : State) (r : MoveReq) (w : Word) : State :=
  let page := bits r.word 23 0
  let queue (s : State) (x : Word) : State := s.modAgent fun a => { a with moves := a.moves ++ [⟨x, r.auto⟩] }
  if r.auto then
    match s.freeCellar page with
    | some c => if promotable w && !s.moveKnown page && decide (s.agent.moves.length < 16) then queue s (promotion page c) else s
    | none => s
  else if !pteMapped w || w.getLsbD 58 then s.configError migCmdCa
  else queue s r.word

/-- The requests to move a page that wait for its entry. -/
def State.movesAsked (s : State) (page : Nat) (w : Word) : State :=
  let mine := s.agent.asks.filter fun r => bits r.word 23 0 == page
  mine.foldl (fun s r => s.moveAsked r w) (s.modAgent fun a => { a with asks := a.asks.filter fun r => bits r.word 23 0 != page })

/-- An entry as a later request sees it that was read before a command or move of this cycle locked its page. -/
def State.pteSeen (s : State) (page : Nat) (w : Word) : Word := if s.pageLocked page then w ||| BitVec.ofNat 64 (1 <<< 58) else w

/-- The entry of a page has been read: it serves, in their order, the XLATs that came before a command or a move, that command or
    move, the requests to move the page, and the other XLATs (R205). A reserved code is recorded (R203). -/
def State.pteGot (s : State) (page : Nat) (w : Word) : State :=
  let s := s.modAgent fun a => { a with ptes := a.ptes.erase page }
  let s := if pteBad w then s.post 0x04 none none 0x3C 1 (BitVec.ofNat 64 (s.pteAddr page)) else s
  let s := match s.agent.ptcmd with
    | some m => if m.page = page ∧ m.step = MoveStep.ask then (s.xlatFirst page w m.ahead).ptStart m w else s
    | none => s
  let s := s.movesAsked page (s.pteSeen page w)
  let s := match s.agent.move with
    | some m => if m.page = page ∧ m.step = MoveStep.ask then (s.xlatFirst page w m.ahead).moveStart m (s.pteSeen page w) else s
    | none => s
  s.xlatAnswer page w

/-- The entry of a page read from the table, unless it is being read: by the cellar's port or by the host agent. A cellar that is
    not READY gives an address error, which leaves the page unmapped (R201). -/
def State.pteRead (s : State) (page : Nat) : State :=
  let open_ : State := s.modAgent fun a => { a with ptes := a.ptes ++ [page] }
  if s.agent.ptes.contains page then s
  else match decodeAddr (s.pteAddr page) with
    | .cellar f off => if s.cellarReady f then open_.celOp f ⟨0, off, 8, none, 255, .pte page⟩ else s.pteGot page 0
    | .host a => open_.hostOp ⟨a, 8, none, .pte page, 0⟩
    | _ => s.pteGot page 0

/-- The entry of a page for an XLAT or an access of the host; a page that is not mapped has none (R202). -/
def State.pteAsk (s : State) (page : Nat) : State := if s.pageMapped page then s.pteRead page else s.xlatAnswer page 0

/-- A Cave access of the host or the Rind at the host agent: translated, or held until its page's entry has come (R205, R207). -/
def State.agentAccess (s : State) (h : Head) (b : Body) : State :=
  let page := bodyAddr b / 2 ^ 21
  match tcGet s.agent.tcache page with
  | some pte => (s.modAgent fun a => { a with calls := a.calls ++ [(false, h, b)] }).agentServe h b pte
  | none =>
    let s := s.modAgent fun a => { a with calls := a.calls ++ [(true, h, b)] }
    if s.pageLocked page then s else s.pteAsk page

/-- The call of a tag is over. -/
def State.agentAnswered (s : State) (tag : Nat) : State :=
  s.modAgent fun a => { a with calls := a.calls.filter fun x => x.2.1.tag != tag }

/-- A call answered RETRY drops its translation and asks for it again (R222). -/
def State.agentRetry (s : State) (tag : Nat) : State :=
  match s.agent.calls.find? (fun c => c.2.1.tag == tag) with
  | none => s
  | some c =>
    let page := bodyAddr c.2.2 / 2 ^ 21
    let calls := s.agent.calls.map fun x => if x.2.1.tag = tag then (true, x.2) else x
    let s := s.modAgent fun a => { a with tcache := tcDrop a.tcache page, calls := calls }
    if s.pageLocked page then s else s.pteAsk page

/-- A packet taken by the Rind, once it has come there, and handled. -/
def State.atRind (s : State) (h : Head) (b : Body) (f : State → State) : State :=
  if s.mayTake h b then f (s.takePacket h b) else s

/-- DATA (R209, R222): the line, or a RETRY, arrives at the requesting Vat; a RETRY of a home for an access of the host at the host
    agent. -/
def execData (f : FieldNo) (h : Head) (b : CohBody) (s : State) : Out :=
  if h.dfield = 0x3C then .next (s.atRind h (.cohp .data b) fun s => if b.st = .retry then s.agentRetry b.rqtag else s)
  else .next (s.arrive h (.cohp .data b) f.val 0x31 fun s => s.vatData f b)

/-- XLAT at the Rind (R205). -/
def execXlat (h : Head) (b : CohBody) (s : State) : Out :=
  .next (s.atRind h (.cohq .xlat b) fun s =>
    let s := s.modAgent fun a => { a with xlat := a.xlat ++ [({ h with tag := b.rqtag }, b.line)] }
    if s.pageLocked b.line then s else s.pteAsk b.line)

/-- A TINV at a Vat (R205). -/
def execTinv (f : FieldNo) (h : Head) (b : CohBody) (s : State) : Out :=
  .next (s.arrive h (.cohp .tinv b) f.val 0x31 fun s =>
    (s.modVat f fun v => { v with tcache := tcDrop v.tcache b.line }).vatRespond f h.job (h.sfield, h.ssite) .tinvAck
      { line := b.line, rqf := f.val })

/-- A field's TINVAck counted in a move or command. -/
def State.tinvAcked (s : State) (pt : Bool) (m : Option Move) (page f : Nat) : State :=
  match m with
  | none => s
  | some m =>
    if m.page ≠ page then s
    else match m.step with
      | .tinv l =>
        let rest := l.erase f
        let m := { m with step := .tinv rest }
        let s := s.setMove pt (some m)
        if rest.isEmpty then s.moveTinvDone pt m else s
      | .last l =>
        let rest := l.erase f
        if rest.isEmpty then s.ptWritten m else s.setMove pt (some { m with step := .last rest })
      | _ => s

/-- TINVACK: a TINVAck at the Rind (R205, R222). -/
def execTinvack (h : Head) (b : CohBody) (s : State) : Out :=
  .next (s.atRind h (.cohp .tinvAck b) fun s =>
    let s := s.tinvAcked true s.agent.ptcmd b.line b.rqf
    s.tinvAcked false s.agent.move b.line b.rqf)

/-- A field without power has no Vat to wait for. -/
def State.tinvGone (s : State) (f : Nat) : State :=
  let s := match s.agent.ptcmd with
    | some m => s.tinvAcked true s.agent.ptcmd m.page f
    | none => s
  match s.agent.move with
  | some m => s.tinvAcked false s.agent.move m.page f
  | none => s

/-- PRECACK: no Vat holds a line of the page (step 6): copying begins, or the new entry is written. -/
def execPrecack (h : Head) (b : CohBody) (s : State) : Out :=
  .next (s.atRind h (.cohp .precAck b) fun s =>
    let s := match s.agent.ptcmd with
      | some m => if m.page = b.line ∧ m.step = MoveStep.prec then s.ptStore m else s
      | none => s
    match s.agent.move with
    | some m => if m.page = b.line ∧ m.step = MoveStep.prec then s.setMove false (some { m with step := .copy 0 [] 0 }) else s
    | none => s)

/-- Steps 8 and 9: the new entry, the held XLATs, the end of the recall and the freed frame (R222, R223). -/
def State.moveFinish (s : State) (m : Move) : State :=
  let s := (s.modAgent fun a => { a with last := m.page }).setMove false none
  let s := (s.pteSet m.page m.new).xlatAnswer m.page m.new
  let s := s.sendPrec m true
  let frame := bits m.old 47 21
  if bits m.old 62 61 = 1 then s.migEvent m.page 0 1 frame 0
  else
    let c := bits m.old 53 48
    if (s.fieldSt c).free.length < 64 then (s.modField c fun x => { x with free := x.free ++ [frame] }).migEvent m.page 0 0 0 0
    else s.migEvent m.page 0 0 frame c

/-- Line i of a move has been written to its new frame (step 7). -/
def State.moveWritten (s : State) (i : Nat) : State :=
  match s.agent.move with
  | none => s
  | some m => match m.step with
    | .copy next out done =>
      let m := { m with step := .copy next (out.erase i) (done + 1) }
      if done + 1 = 4096 then s.moveFinish m else s.setMove false (some m)
    | _ => s

/-- Line i of a move has been read: it goes to the new frame, by the cellar's port or the host agent. A cellar that is not READY
    changes nothing (R201). -/
def State.moveLine (s : State) (i : Nat) (d : List Byte) : State :=
  match s.agent.move with
  | none => s
  | some m =>
    let a := frameAddr m.new (512 * i)
    if bits m.new 62 61 = 0 then
      let f := fieldNo (bits m.new 53 48)
      if s.cellarReady f then s.celOp f ⟨2, a, 512, some d, 255, .copied i⟩ else s.moveWritten i
    else s.hostOp ⟨a, 512, some d, .copied i, pteJobNo m.old⟩

/-- MIGRATION_MOVE: the engine takes the next queued move, or asks for the next line of the move in progress; at most 64
    lines are outstanding (R222).
    DEDUCED: notes/assumptions/58. -/
def execMigrationMove (s : State) : Out :=
  match s.agent.move with
  | none =>
    match s.agent.moves with
    | [] => .next s
    | r :: rest =>
      let page := bits r.word 23 0
      let m : Move := ⟨page, .move r.auto, r.word, 0, 0, .ask, s.xlatsAhead page⟩
      let s := s.modAgent fun a => { a with moves := rest, move := some m }
      .next (if s.pageMapped page then s.pteRead page else s.moveStart m 0)
  | some m =>
    match m.step with
    | .copy next out done =>
      if 4096 ≤ next ∨ 64 ≤ out.length then .next s
      else
        let a := frameAddr m.old (512 * next)
        let s := s.setMove false (some { m with step := .copy (next + 1) (out ++ [next]) done })
        if bits m.old 62 61 = 0 then
          let f := fieldNo (bits m.old 53 48)
          .next (if s.cellarReady f then s.celOp f ⟨2, a, 512, none, 255, .copy next⟩ else s.moveLine next (rawFill 512))
        else .next (s.hostOp ⟨a, 512, none, .copy next, pteJobNo m.old⟩)
    | _ => .next s

/-! ### The cellar's port (R198–R200) -/

/-- An access of a cellar done: what it was for goes on. -/
def State.celDone (s : State) (f : FieldNo) (o : CelOp) (d : List Byte) (bad : Bool) : State :=
  match o.use with
  | .txn line => (s.txnMemory f.val line d bad).homeGo f.val
  | .direct id ofs => s.cellarPart f id ofs d bad
  | .pte page => s.pteGot page (BitVec.ofNat 64 (ofBytes d))
  | .ptw _ => s.ptStored
  | .copy i => s.moveLine i d
  | .copied i => s.moveWritten i
  | .posted => s

/-- CELLAR_ACCESS (R198–R201): a grant of the cellar port to a requester moves one line: the first of its accesses that waits.
    `crc` transfers failed their CRC; after four retries the sectors of `bad` fail. `upsets` are the words, by word of
    the line, whose stored bits have become wrong. Telemetry reads the stack's temperature and error registers, whose values the
    spec does not give: a free value. The grants of scrub are those of SCRUB_LINE and SCRUB_WRITEBACK. -/
def execCellarAccess (f : FieldNo) (who : Fin 5) (crc : Nat) (bad : BitVec 8) (upsets : List (Fin 64 × Fin 3)) (s : State) : Out :=
  if !s.cellarReady f then .next s
  else if who = 4 then
    match s.arbTake (arbBase (.cellar f)) 4 with
    | none => .next s
    | some s =>
      let (w, s) := s.freshWord
      .next (s.modCellar f fun x => { x with out := toBytes 8 w.toNat })
  else match Cellar.next (s.fieldSt f.val).cellar who.val with
    | none => .next s
    | some o => match s.arbTake (arbBase (.cellar f)) who.val with
      | none => .next s
      | some s =>
        let s := upsets.foldl (fun s u => let a := cellarAddr f.val (o.off / 512 * 512) + 8 * u.1.val; s.setErr a (max (s.wordErr a) u.2.val)) s
        let s := s.modCellar f fun x => { x with ops := x.ops.erase o }
        let (d, s) := s.celMove f o crc bad
        .next ((s.modCellar f fun x => { x with out := d.1 }).celDone f o d.1 d.2)

/-! ### Register writes of the chapter -/

/-- Whether any Vat holds a Cave line or any Cave request is outstanding (Table 9-16). -/
def State.caveBusy (s : State) : Bool :=
  (List.range 48).any (fun f =>
    let v := (s.fieldSt f).vat
    let h := (s.fieldSt f).home
    !v.lines.isEmpty || !v.jobs.isEmpty || !v.miss.isEmpty || !v.wb.isEmpty || !v.held.isEmpty || !v.unc.isEmpty || !h.slots.isEmpty || !h.queue.isEmpty)
  || !s.agent.home.slots.isEmpty || !s.agent.home.queue.isEmpty || !s.agent.xlat.isEmpty || !s.agent.calls.isEmpty || s.agent.move.isSome

/-- A write to CAVE_CTL (R204, Table 9-16). -/
def State.caveCtlWrite (s : State) (ca : Nat) (g : RegGroup) (v : Word) : State :=
  let base := s.fld ptBaseCa 55 0
  let baseOk := decide (base % 8 = 0) && (match decodeAddr base with | .cellar _ _ => true | .host _ => true | _ => false)
  let n := s.fld ptSizeCa 24 0
  if v.getLsbD 0 ∧ !s.bit ca 0 ∧ (!baseOk ∨ n = 0 ∨ 2 ^ 24 < n) then s.configError ca
  else if !v.getLsbD 0 ∧ s.bit ca 0 ∧ s.caveBusy then s.configError ca
  else s.plainWrite ca g v

/-- A write to CAVE_PTBASE or CAVE_PTSIZE: rejected while EN = 1. -/
def State.cavePtWrite (s : State) (ca : Nat) (g : RegGroup) (v : Word) : State :=
  if s.bit caveCtlCa 0 then s.configError ca else s.plainWrite ca g v

/-- A write to CAVE_PTCMD (R204, Table 9-17). -/
def State.ptCmdWrite (s : State) (ca : Nat) (v : Word) : State :=
  let op := bits v 25 24
  let page := bits v 23 0
  if s.bit ca 63 ∨ op = 3 then s.configError ca
  else if op = 0 then s
  else if s.fld ptSizeCa 24 0 ≤ page then s.setFld ca 62 62 1
  else
    let s := (s.setFld ca 62 62 0).setFld ca 63 63 1
    (s.setMove true (some ⟨page, if op = 1 then .ptWrite else .ptRead, v, 0, s.reg ptDataCa, .ask, s.xlatsAhead page⟩)).pteRead page

/-- PT_COMMAND_DONE: BUSY clears when the command's steps are done (R204). -/
def execPtCommandDone (s : State) : Out :=
  match s.agent.ptcmd with
  | some m => if m.step = .done then .next ((s.setFld ptCmdCa 63 63 0).setMove true none) else .next s
  | none => .next s

/-- A write to MIG_CMD (R222, R223, Table 9-19): rejected, or queued once its page's entry has been read. A reserved DCELL is
    recorded under OP 0 too (R7). -/
def State.migCmdWrite (s : State) (ca : Nat) (v : Word) : State :=
  let page := bits v 23 0
  let op := bits v 63 62
  let host := v.getLsbD 61
  let free := v.getLsbD 60
  if op = 0 then (if 48 ≤ bits v 59 54 then s.configError ca else s)
  else if 2 ≤ op ∨ 16 ≤ s.agent.moves.length + (s.agent.asks.filter fun r => !r.auto).length ∨ (host ∧ free) ∨ 48 ≤ bits v 59 54 ∨ bits v 26 24 ≠ 0 ∨
      (!host ∧ !free ∧ 12288 ≤ bits v 53 27) then s.configError ca
  else if !s.pageMapped page then s.configError ca
  else (s.modAgent fun a => { a with asks := a.asks ++ [⟨v, false⟩] }).pteRead page

/-- A write to MIG_FREE: a frame pushed on the cellar's free ring (R223, Table 9-21). -/
def State.migFreeWrite (s : State) (f : FieldNo) (ca : Nat) (v : Word) : State :=
  let fr := bits v 13 0
  if 64 ≤ (s.fieldSt f.val).free.length ∨ 12288 ≤ fr then s.configError ca
  else s.modField f.val fun x => { x with free := x.free ++ [fr] }

/-! ### Access counters (R224) -/

/-- COUNTER_DECAY: every access counter of a home is halved. -/
def execCounterDecay (n : Fin 49) (s : State) : Out :=
  if s.fld migCtlCa 7 0 = 0 then .next s
  else
    let base := if n.val < 48 then cellarCa (fieldNo n.val) 3 0x10000 else hostAgentCa 1 0x10000
    let size := if n.val < 48 then 8 * 12288 else 8 * 65536
    let keys := (s.regs.filter fun p => decide (base ≤ p.1 ∧ p.1 < base + size)).map (·.1) |>.eraseDups
    .next (keys.foldl (fun s k => s.setFld k 15 0 (s.fld k 15 0 / 2)) s)

/-- AUTO_PROMOTION: a host page whose counter has reached HOT is to be queued for the first cellar with a free frame, once its entry
    has been read and allows it, and its counter is set to 0 (R224). -/
def execAutoPromotion (page : BitVec 24) (s : State) : Out :=
  let p := page.toNat
  let cnt := hostAgentCa 1 (0x10000 + 8 * (p % 65536))
  if !s.bit migCtlCa 63 ∨ s.fld cnt 15 0 < s.fld migCtlCa 47 32 then .next s
  else
    let s := s.setReg cnt 0
    if s.moveKnown p || decide (16 ≤ s.agent.moves.length) || !s.pageMapped p then .next s
    else .next ((s.modAgent fun a => { a with asks := a.asks ++ [⟨promotion p 0, true⟩] }).pteRead p)

/-! ### The fetch engine (R225–R227) -/

def fetchCtlCa (f : FieldNo) : Nat := fcCa f 0 0x2000
def fetchStatCa (f : FieldNo) : Nat := fcCa f 0 0x2010

def State.fetch (s : State) (f : FieldNo) : Fetch := (s.fieldSt f.val).fetch

def State.modFetch (s : State) (f : FieldNo) (g : Fetch → Fetch) : State := s.modField f.val fun x => { x with fetch := g x.fetch }

/-- The STOP command (R225). -/
def State.fetchStop (s : State) (f : FieldNo) : State := s.modFetch f fun x => { x with running := false }

/-- The CANCEL command (R227). -/
def State.fetchCancel (s : State) (f : FieldNo) (entry : Nat) : State :=
  s.modFetch f fun x => { x with running := false, gen := x.gen + 1, open_ := [], cursor := entry, next := 0, fresh := true }

/-- A write to FLD_FETCHCMD (Table 9-23).
    DEDUCED: notes/assumptions/59. -/
def State.fetchCmdWrite (s : State) (f : FieldNo) (v : Word) : State :=
  match bits v 17 16 with
  | 1 => s.modFetch f fun x => { x with running := true, cursor := bits v 9 0, next := 0 }
  | 2 => s.fetchStop f
  | 3 => s.fetchCancel f (bits v 9 0)
  | _ => s

/-- A write to FLD_FETCHCTL or FLD_CAL_k: accepted only while the engine is STOPPED (Tables 9-22 and 9-25). -/
def State.fetchCfgWrite (s : State) (f : FieldNo) (ca : Nat) (g : RegGroup) (v : Word) : State :=
  if (s.fetch f).running then s.configError ca else s.plainWrite ca g v

/-- A write to word 0 of FLD_CAL_k: BASE is the address of a line of the Cave (Table 9-25). -/
def calBaseOk (v : Word) : Bool := bits v 55 54 == 0 && bits v 8 0 == 0

/-- TOUCH: the fetch engine issues the next touch, where LEAD, a free token and the generation allow (R225–R227). -/
def execTouch (f : FieldNo) (s : State) : Out :=
  let x := s.fetch f
  let start := decide (x.next = 0)
  if !x.running || !s.clocked f.val || decide (s.fld (fetchCtlCa f) 8 0 ≤ x.touches.length) || !s.vatAccepts f 1 ||
      (start && decide (s.fld (fetchCtlCa f) 19 16 ≤ x.open_.length)) ||
      (x.fresh && x.touches.any fun t => t.gen == x.gen) then .next s
  else
    let line := s.fld (calCa f x.cursor 0) 55 0 / 512 + x.next
    let last := decide (s.fld (calCa f x.cursor 1) 15 0 ≤ x.next + 1)
    let wrap := s.bit (calCa f x.cursor 1) 63 || decide (1023 ≤ x.cursor)
    let s := (s.count (fcCa f 3 (0x100 + 8 * 5)) 1).modFetch f fun y => { y with
      open_ := (if start then y.open_ ++ [y.cursor] else y.open_), fresh := false, touches := y.touches ++ [⟨y.gen, line⟩]
      next := (if last then 0 else y.next + 1), cursor := (if last then (if wrap then 0 else y.cursor + 1) else y.cursor) }
    .next (s.vatPart f ⟨0, 0, 512 * line, .touch x.gen, Fin.ofNat 4 (s.fld (fetchCtlCa f) 25 24)⟩)

/-- TOUCH_COMPLETE: a touch the Vat has completed returns its token; one of an old generation counts in LATE (R226,
    R227). -/
def execTouchComplete (f : FieldNo) (s : State) : Out :=
  match (s.fetch f).done with
  | [] => .next s
  | t :: rest =>
    let late := decide (t.gen ≠ (s.fetch f).gen)
    let s := s.modFetch f fun x => { x with done := rest, touches := x.touches.erase t }
    .next (if late then s.bumpSat (fetchStatCa f) 63 48 1 else s)

end Sys2Proof.Machine
end

