-- ==== Sys2Proof/Machine/Update.lean ====
section
/-! DEFINITION. The update unit (chapter 11): leaves, sinks, the three rule families, settling and digests. -/

namespace Sys2Proof.Machine

/-! ### Registers -/

def updCa (t : Tile) (off : Nat) : Nat := tileCa t 0x09 off
def updFlagsCa (t : Tile) : Nat := updCa t 0x08
def shardCa (t : Tile) (k : Fin 16) (w : Nat) : Nat := updCa t (0x1000 + 0x100 * k.val + 8 * w)
def srcCa (t : Tile) (k : Fin 16) (w : Nat) : Nat := updCa t (0x3000 + 0x20 * k.val + 8 * w)

/-- Constant n of a rule entry, in the order KLR, KWD, KB1, K1B1, KB2, K1B2, KEPS, KGS, KOS. -/
def State.rule (s : State) (t : Tile) (r n : Nat) : Num := w48Value (s.reg (updCa t (0x400 + 0x80 * r + 8 * n)))

/-- Fields of a shard entry (Table 11-5). -/
structure Shard where
  job    : Nat
  fam    : Nat
  rule   : Nat
  noise  : Bool
  rounds : Nat
  tree   : Nat
  srm    : Bool
  tid    : Nat
  idx0   : Nat
  nel    : Nat
  rows   : Nat
  cols   : Nat
  anchor : Int
  step   : Nat
  deriving DecidableEq, Repr

def State.shard (s : State) (t : Tile) (k : Fin 16) : Shard :=
  let w n := s.reg (shardCa t k n)
  { job := bits (w 0) 62 61, fam := bits (w 0) 60 59, rule := bits (w 0) 58 56, noise := (w 0).getLsbD 55,
    rounds := bits (w 0) 54 52, tree := bits (w 0) 51 40, srm := (w 0).getLsbD 39, tid := bits (w 0) 31 16,
    idx0 := bits (w 1) 63 24, nel := bits (w 1) 16 0, rows := bits (w 2) 63 55, cols := bits (w 2) 54 46,
    anchor := signed 16 (bits (w 12) 63 48), step := bits (w 12) 31 0 }

def State.sink (s : State) (t : Tile) (k : Fin 16) : SinkSt := tget {} (s.tile t).sinks k.val
def State.modSink (s : State) (t : Tile) (k : Fin 16) (f : SinkSt → SinkSt) : State :=
  s.modTile t fun x => { x with sinks := tset {} x.sinks k.val (f (tget {} x.sinks k.val)) }
def State.src (s : State) (t : Tile) (k : Fin 16) : SrcSt := tget {} (s.tile t).srcs k.val
def State.setSrc (s : State) (t : Tile) (k : Fin 16) (y : SrcSt) : State :=
  s.modTile t fun x => { x with srcs := tset {} x.srcs k.val y }

/-- The STATE of a shard entry and of a source entry given. -/
def State.setShardState (s : State) (t : Tile) (k : Fin 16) (v : Nat) : State := s.setFld (shardCa t k 3) 63 62 v
def State.setSrcState (s : State) (t : Tile) (k : Fin 16) (v : Nat) : State := s.setFld (srcCa t k 3) 63 62 v

/-- Flags PZ, OV, UF and NX that contributions or totals raise: UPD_FLAGS, and a log entry for each (Table 11-4).
    DESIGN CHOICE: no code is given for it, notes/assumptions/74. -/
def State.updFlags (s : State) (t : Tile) (job : Nat) (fl : Nat) : State :=
  ((List.range 4).filter fun i => fl.testBit i).foldl (fun s _ => s.postOpen (some job) none t.field t.site)
    (s.orReg (updFlagsCa t) (BitVec.ofNat 64 (fl % 16)))

/-! ### A64 (R255, R256) -/

def a64Poison : Int := -(2 ^ 63)

/-- contribute of R256: a W48 value rounded into the window of anchor a. -/
def contribute (v : Num) (a : Int) : Int × Flags :=
  match v with
  | .poison => (a64Poison, fPZ)
  | .ovf n => (withSign n (2 ^ 63 - 1), fOV)
  | .fin m e =>
    let k := a - 62 - e
    let q := rneShift m.natAbs k
    if q > 2 ^ 63 - 1 then (withSign (m < 0) (2 ^ 63 - 1), fOV ||| fNX)
    else (withSign (m < 0) q, if lostBits m.natAbs k then (if q = 0 then fNX ||| fUF else fNX) else 0)

/-- A read of the tile's scratchpad by the update unit, as an access from the network (R259); error fill where it is
    refused or uncorrectable.
    DEDUCED: notes/assumptions/74. -/
def State.updPad (s : State) (t : Tile) (job off len : Nat) : List Byte × State :=
  if s.inBounds t job off len then
    let (d, s) := (s.slotNet t off len).padRead t off len
    (d.getD (rawFill len), s)
  else (rawFill len, s.padRefuse t job off)

/-- A write of the update unit to its tile's scratchpad. -/
def State.updPadWrite (s : State) (t : Tile) (job off : Nat) (d : List Byte) : State :=
  if s.inBounds t job off d.length then (s.slotNet t off d.length).padStore t off d else s.padRefuse t job off

/-! ### Leaves (R257, R259) -/

/-- SOURCE_POLL: a poll of a source entry: the ready word, then the anchor word; a round starts when both allow.
    DEDUCED: notes/assumptions/73. -/
def execSourcePoll (t : Tile) (k : Fin 16) (s : State) : Out :=
  let w0 := s.reg (srcCa t k 0)
  let w1 := s.reg (srcCa t k 1)
  let w2 := s.reg (srcCa t k 2)
  let job := bits w0 62 61
  let st := s.fld (srcCa t k 3) 63 62
  if !s.unitRuns t || !w0.getLsbD 63 || decide (2 ≤ st) then .next s
  else
    let (r, s) := if st = 0 then s.updPad t job (bits w1 56 32) 8 else ([1], s)
    if ofBytes (r.take 4) = 0 then .next s
    else
      let (a, s) := s.updPad t job (bits w2 56 32) 8
      let a : Word := BitVec.ofNat 64 (ofBytes a)
      if bits a 31 0 = bits w2 31 0 then
        .next ((s.setSrcState t k 2).setSrc t k { anchor := signed 16 (bits a 63 48) })
      else .next ((s.setSrcState t k 1).raise (srcCa t k 3) 58)

/-- Chunks of a round that hold elements, and all its chunks. -/
def dataChunks (nel : Nat) : Nat := (nel + 9) / 10
def roundChunks (nel : Nat) (noise : Bool) : Nat := dataChunks nel + if noise then 1 else 0

/-- A lane of a data chunk (R257). -/
def laneOf (c : Int × Flags) : RedLane :=
  ⟨if c.1 = a64Poison then lanePoison else c.1, c.2.truncate 4⟩

/-- rne(n / 2^55) of an exact sum of squares. -/
def squareLane (n : Nat) : Int := (rneShift n 55 : Nat)

/-- The next chunk of a round: its body, the flags its contributions raise, and the round after it. -/
def State.nextChunk (s : State) (t : Tile) (k : Fin 16) : RedBody × Flags × SrcSt × State :=
  let w0 := s.reg (srcCa t k 0)
  let y := s.src t k
  let tree := s.fld (trtCa t (bits w0 56 51) 0) 57 46
  let chunk := tget 0 (s.tile t).chunkNext tree
  let nel := bits w0 16 0
  if y.pos < dataChunks nel then
    let n := min 10 (nel - 10 * y.pos)
    let (bs, s) := s.updPad t (bits w0 62 61) (s.fld (srcCa t k 1) 24 0 + 80 * y.pos) (8 * n)
    let cs := (chunks 8 n bs).map fun b => contribute (w48Value (BitVec.ofNat 64 (ofBytes b))) y.anchor
    (⟨tree, 1, chunk, y.anchor - 62, cs.map laneOf ++ List.replicate (10 - n) ⟨0, 0⟩⟩, orFlags (cs.map (·.2)),
     { y with pos := y.pos + 1,
              sumsq := cs.foldl (fun n c => if c.1 = a64Poison then n else n + c.1.natAbs * c.1.natAbs) y.sumsq,
              poison := y.poison || cs.any fun c => c.1 == a64Poison }, s)
  else
    (⟨tree, 1, chunk, 2 * y.anchor - 69,
      (if y.poison then ⟨lanePoison, lanePz⟩ else ⟨squareLane y.sumsq, 0⟩) :: ⟨1, 0⟩ :: List.replicate 8 ⟨0, 0⟩⟩, 0,
     { y with pos := y.pos + 1 }, s)

/-- The end of a leaf's round (R259): SEMDN 1 on the ready word, and the round or the step counted on. -/
def State.roundEnd (s : State) (t : Tile) (k : Fin 16) : State :=
  let w0 := s.reg (srcCa t k 0)
  let ready := s.fld (srcCa t k 1) 56 32
  let (r, s) := s.padCac t (bits w0 62 61) ready .semdn 1 ⟨0, 0, 0⟩
  let s := if r.st = .done then s.slotNet t ready 8 else s
  let rnd := s.fld (srcCa t k 3) 61 59 + 1
  let s := (s.setSrcState t k 0).setSrc t k {}
  if rnd < bits w0 59 57 then s.setFld (srcCa t k 3) 61 59 rnd
  else (s.setFld (srcCa t k 3) 61 59 0).setFld (srcCa t k 2) 31 0 (s.fld (srcCa t k 2) 31 0 + 1)

/-- CHUNK_INJECT: the next chunk of a round is injected when its tree takes it; after the last the round ends. `resid` names the
    lanes at which the tile's own adder fails its check (R191). -/
def execChunkInject (t : Tile) (k : Fin 16) (resid : List (Fin 10)) (s : State) : Out :=
  let w0 := s.reg (srcCa t k 0)
  if !s.unitRuns t || !w0.getLsbD 63 || s.fld (srcCa t k 3) 63 62 != 2 then .next s
  else
    let (r, fl, y, s1) := s.nextChunk t k
    match s1.inject t (bits w0 56 51) r resid with
    | none => .next s
    | some s1 =>
      let s1 := (s1.updFlags t (bits w0 62 61) (fl.toNat % 16)).tel t 23 1
      let next := (r.chunk + 1) % 2 ^ 24
      let s1 := s1.modTile t fun x => { x with chunkNext := tset 0 x.chunkNext r.tree next }
      let s1 := (s1.setFld (srcCa t k 3) 23 0 next).setSrc t k y
      .next (if y.pos < roundChunks (bits w0 16 0) (w0.getLsbD 60) then s1 else s1.roundEnd t k)

/-! ### Sinks: gathering (R260) -/

/-- A reduction packet read from its 128-byte payload. -/
def redOfPayload (r : RedBody) (bs : List Byte) : RedBody :=
  let fl := ofBytes ((bs.drop 120).take 8)
  { r with q := signed 16 (fl >>> 40 % 65536), lanes := (List.range 10).map fun i =>
      ⟨signed 96 (ofBytes ((bs.drop (12 * i)).take 12)), BitVec.ofNat 4 (fl >>> (4 * i) % 16)⟩ }

/-- A lane narrowed to A64 (R260). -/
def narrow (l : RedLane) : RedLane :=
  if l.n = lanePoison then ⟨a64Poison, l.flags⟩
  else if l.n.natAbs > 2 ^ 63 - 1 then ⟨withSign (l.n < 0) (2 ^ 63 - 1), l.flags ||| laneOv⟩
  else l

/-- A chunk added to the sum region of its shard (R260, R191): the sum. -/
def State.sumChunk (s : State) (t : Tile) (p : Shard) (off : Nat) (r : RedBody) (resid : List (Fin 10)) : RedBody × State :=
  let (bs, s) := s.updPad t p.job off 128
  let old := redOfPayload r bs
  let mix := decide (old.q ≠ r.q)
  let s := if mix then s.redError t.field t.site 1 p.job r.tree else s
  let s := if resid.isEmpty then s
    else (s.raise (netCa t.field t.site 8) 0).post 0x07 (some p.job) none t.field t.site (BitVec.ofNat 64 r.tree)
  (RedBody.resid (redAdd old r mix) resid, s)

/-- A result of a tree that no valid shard takes: a statistic, whose lanes the unit returns as S96 records with N, Q and the lane's
    flags (R251). DESIGN CHOICE: where they stand until they are multicast, notes/assumptions/139. -/
def State.statReturn (s : State) (t : Tile) : State :=
  let shards := (List.finRange 16).filter fun k => s.bit (shardCa t k 0) 63
  match (s.tile t).sinkIn.findIdx? fun e => !(shards.any fun k => s.fld (shardCa t k 0) 51 40 == e.2.tree) with
  | none => s
  | some n =>
    let r := ((s.tile t).sinkIn.getD n (0, ⟨0, 0, 0, 0, []⟩)).2
    (s.tel t 24 1).modTile t fun x =>
      { x with sinkIn := x.sinkIn.eraseIdx n, returned := x.returned ++ r.lanes.map fun l => ⟨l.n, r.q, l.flags⟩ }

/-- SINK_CHUNK: a sink takes the next result of its tree in chunk order; the operand names the lanes whose adder fails
    its residue check (R191, R260). Where entry k has none to take, the unit returns a statistic that waits (R251).
    DEDUCED: notes/assumptions/72. -/
def execSinkChunk (t : Tile) (k : Fin 16) (resid : List (Fin 10)) (s : State) : Out :=
  let p := s.shard t k
  let y := s.sink t k
  let due := tget 0 (s.tile t).sinkNext p.tree
  if !s.unitRuns t then .next s
  else if !s.bit (shardCa t k 0) 63 then .next (s.statReturn t)
  else if p.rounds ≤ y.round then .next s
  else match (s.tile t).sinkIn.findIdx? (fun e => e.2.tree == p.tree && e.2.chunk == due) with
    | none => .next (s.statReturn t)
    | some n =>
      let r := ((s.tile t).sinkIn.getD n (0, ⟨0, 0, 0, 0, []⟩)).2
      let s := s.modTile t fun x => { x with sinkIn := x.sinkIn.eraseIdx n, sinkNext := tset 0 x.sinkNext p.tree ((due + 1) % 2 ^ 24) }
      let s := (s.tel t 24 1).setShardState t k 1
      let off := s.fld (shardCa t k 2) 24 0 + 128 * y.pos
      let (r, s) := if y.round = 0 then (r, s) else s.sumChunk t p off r resid
      let last := decide (y.pos + 1 = roundChunks p.nel p.noise)
      let s := s.modSink t k fun y => { y with pos := if last then 0 else y.pos + 1, round := if last then y.round + 1 else y.round }
      if y.round + 1 < p.rounds then .next (s.updPadWrite t p.job off (redPayload r))
      else if y.pos < dataChunks p.nel then
        let ls := (r.lanes.take (p.nel - 10 * y.pos)).map narrow
        let s := s.updFlags t p.job ((ls.foldl (fun (f : BitVec 4) l => f ||| RedLane.flags l) 0).toNat &&& 12)
        .next (s.modSink t k fun y => { y with lanes := y.lanes ++ ls })
      else .next (s.modSink t k fun y => { y with stats := r.lanes })

/-- A lane with OV or PZ. -/
def RedLane.isBad (l : RedLane) : Bool := decide (l.flags &&& 12 ≠ 0)

/-- Whether block b of the reduced gradient, and the whole of it, is bad (R261). -/
def SinkSt.badBlock (y : SinkSt) (b : Nat) : Bool := ((y.lanes.drop (32 * b)).take 32).any RedLane.isBad
def SinkSt.badShard (y : SinkSt) : Bool := y.lanes.any RedLane.isBad

/-- A reduced element as a W48 value, with the flags of its rounding (R265). -/
def reduced (a : Int) (l : RedLane) : Num × Flags := if l.n = a64Poison then (.poison, fPZ) else roundW48 l.n (a - 62)

/-- The reduced elements of block b. -/
def SinkSt.grads (y : SinkSt) (a : Int) (b : Nat) : List (Num × Flags) := ((y.lanes.drop (32 * b)).take 32).map (reduced a)

/-! ### Cave accesses of a sink (R207, R265, R266) -/

/-- Descriptor i of a shard: master, moment slots 1 and 2, working copy. -/
def State.shardDesc (s : State) (t : Tile) (k : Fin 16) (i : Nat) : Option TensorDesc :=
  tensorDesc (s.reg (shardCa t k (4 + 2 * i))) (s.reg (shardCa t k (5 + 2 * i)))

/-- The read of a part of a block. -/
def State.updRead (s : State) (t : Tile) (k : Fin 16) (job : Nat) (d : TensorDesc) (part addr len : Nat) : State :=
  let wy := s.way t d.loc d.xm addr
  match wy with
  | .own off =>
    let (bs, s) := s.updPad t job off len
    s.modSink t k fun y => { y with got := y.got ++ [(part, some bs)] }
  | .bad => (s.post 0x05 (some job) none t.field t.site (BitVec.ofNat 64 addr)).modSink t k fun y =>
      { y with got := y.got ++ [(part, none)] }
  | _ =>
    let (tag, s) := s.openTxn t (.upd k.val part)
    s.request t (Fin.ofNat 4 job) wy s.moduleId tag none (.rd (Way.addr wy addr) len)

/-- The write of a part of a block. -/
def State.updStore (s : State) (t : Tile) (k : Fin 16) (job : Nat) (d : TensorDesc) (addr : Nat) (data : List Byte) : State :=
  let wy := s.way t d.loc d.xm addr
  match wy with
  | .own off => s.updPadWrite t job off data
  | .bad => s.post 0x05 (some job) none t.field t.site (BitVec.ofNat 64 addr)
  | _ =>
    let (tag, s) := s.openTxn t (.updWrite k.val)
    s.request t (Fin.ofNat 4 job) wy s.moduleId tag none (.wr (Way.addr wy addr) data)

/-- Reads of block b of the BS16 tensors named, mantissas in part 2i and the exponent in part 2i + 1.
    DEDUCED: notes/assumptions/69. -/
def State.askBlock (s : State) (t : Tile) (k : Fin 16) (job b : Nat) (want : List Nat) : State :=
  let s := s.modSink t k fun y => { y with asked := true, got := [] }
  want.foldl (fun s i => match s.shardDesc t k i with
    | some d => (s.updRead t k job d (2 * i) (mantAddr d .bs16 0 b) 64).updRead t k job d (2 * i + 1) (scaleAddr d 0 b) 1
    | none => s.modSink t k fun y => { y with got := y.got ++ [(2 * i, none), (2 * i + 1, none)] }) s

/-- A BS16 block as it came: error fill where a part did not (R148). -/
def SinkSt.block16 (y : SinkSt) (i : Nat) : Nat × List Int :=
  let part (n : Nat) : Option (List Byte) := (y.got.find? fun p => p.1 == n).elim none (·.2)
  (((part (2 * i + 1)).getD [0]).getD 0 0 |>.toNat,
   match part (2 * i) with
   | some bs => mantissas .bs16 bs
   | none => List.replicate 32 (poisonMant .bs16))

/-- The values of a block. -/
def blockVals (f : Fmt) (b : Nat × List Int) : List Num := b.2.map (elemValue f b.1)

/-- Block b of tensor i written in a format. -/
def State.putBlock (s : State) (t : Tile) (k : Fin 16) (job i : Nat) (f : Fmt) (b : Nat) (v : Nat × List Int) : State :=
  match s.shardDesc t k i with
  | some d => (s.updStore t k job d (mantAddr d f 0 b) (packMantissas f v.2)).updStore t k job d (scaleAddr d 0 b) [BitVec.ofNat 8 v.1]
  | none => s

/-- The flags of the unit's own arithmetic, which are those of chain stages (R265, R266): in VCH_FLAGS.
    DESIGN CHOICE: notes/assumptions/140. -/
def State.updArith (s : State) (t : Tile) (fls : List Flags) : State :=
  s.orReg (tileCa t 0x03 0x08) (BitVec.ofNat 64 ((orFlags fls).toNat % 64))

/-- A block requantised, with its flags: with the dither of the shard's step under a tensor ID, or to nearest (R266). -/
def State.requant16 (s : State) (t : Tile) (p : Shard) (sr : Bool) (tid b : Nat) (vs : List Num) : (Nat × List Int) × List Flags :=
  let seed := s.reg (updCa t (0x100 + 8 * p.job))
  let ds := (List.range 32).map fun l => dither seed p.step (tid % 65536) ((p.idx0 + 32 * b + l) % 2 ^ 40)
  let r := requantBlock .bs16 sr ds (vs.map fun v => (v, true))
  ((r.1, r.2.map (·.1)), r.2.map (·.2))

/-- New elements of a moment slot written (R266). -/
def State.putMoment (s : State) (t : Tile) (k : Fin 16) (p : Shard) (slot b : Nat) (vs : List Num) : (Nat × List Int) × State :=
  let (v, fl) := s.requant16 t p p.srm (p.tid + slot) b vs
  (v, (s.updArith t fl).putBlock t k p.job slot .bs16 b v)

/-- New master elements of block b: written, with the working copy, and kept for the digest (R266, R274). -/
def State.putMaster (s : State) (t : Tile) (k : Fin 16) (p : Shard) (b : Nat) (ws : List Num) : State :=
  let (m, fl) := s.requant16 t p true p.tid b ws
  let s := (s.updArith t fl).putBlock t k p.job 0 .bs16 b m
  let c := requantBlock .bs8 false [] ((blockVals .bs16 m).map fun v => (v, true))
  let s := (s.updArith t (c.2.map (·.2))).putBlock t k p.job 3 .bs8 b (c.1, c.2.map (·.1))
  s.modSink t k fun y => { y with master := y.master ++ [m] }

/-- The next block of a pass: its tensors are read, and once they have come `f` does its work and the pass goes on. -/
def State.passBlock (s : State) (t : Tile) (k : Fin 16) (p : Shard) (want : List Nat) (f : SinkSt → State → State) : State :=
  let y := s.sink t k
  if !s.tagsFree t 16 then s
  else if !y.asked ∧ want ≠ [] then s.askBlock t k p.job y.block want
  else if want.any fun i => !(y.got.any fun g => g.1 == 2 * i) || !(y.got.any fun g => g.1 == 2 * i + 1) then s
  else (f y s).modSink t k fun y => { y with asked := false, got := [], block := y.block + 1 }

/-! ### Arithmetic of the rules (R265): results of the chain stages and of native functions -/

def fMul (x y : Num) : Num × Flags := numRound (numMulExact x y)
def fFma (x b c : Num) : Num × Flags := numAdd (numMulExact x b) c
def fFnma (x b c : Num) : Num × Flags := numAdd x (numNeg (numMulExact b c))

/-- An operation on a result, with the flags of both. -/
def andThen (x : Num × Flags) (f : Num → Num × Flags) : Num × Flags := let r := f x.1; (r.1, x.2 ||| r.2)

/-- w − KLR·(KWD·w + d) (R268–R270). -/
def stepMaster (klr kwd w d : Num) : Num × Flags := andThen (fFma w kwd d) fun u => fFnma w klr u

/-- The bias corrections at the first block of a step (R268). -/
def State.biasStep (s : State) (t : Tile) (k : Fin 16) (p : Shard) : State :=
  let p1 := fMul (w48Value (s.reg (shardCa t k 18))) (s.rule t p.rule 2)
  let p2 := fMul (w48Value (s.reg (shardCa t k 19))) (s.rule t p.rule 4)
  let corr (x : Num × Flags) : Num × Flags := andThen (andThen x fun v => numAdd (.fin 1 0) (numNeg v)) (sfuNative .rcp)
  let s := (s.setReg (shardCa t k 18) (w48Word (canonW48 p1.1) 0)).setReg (shardCa t k 19) (w48Word (canonW48 p2.1) 0)
  (s.updArith t [(corr p1).2, (corr p2).2]).modSink t k fun y => { y with c1 := (corr p1).1, c2 := (corr p2).1 }

/-- One element of family 0 (R268): the moments, the master and the flags; `c` are the words of the rule entry. -/
def adaptElem (c : Nat → Num) (c1 c2 : Num) (g0 : Num × Flags) (w o1 o2 : Num) : Num × Num × Num × Flags :=
  let g := andThen g0 fun g => fMul g (c 7)
  let m1 := andThen (andThen g fun g => fMul g (c 3)) fun u => fFma o1 (c 2) u
  let m2 := andThen (andThen (andThen g fun g => fMul g g) fun u => fMul u (c 5)) fun u => fFma o2 (c 4) u
  let den := andThen (andThen (andThen (andThen m2 fun v => fMul v c2) (sfuNative .sqrt)) fun v => numAdd v (c 6)) (sfuNative .rcp)
  let d := andThen (andThen m1 fun v => fMul v c1) fun v => fMul v den.1
  let w' := andThen d fun d => stepMaster (c 0) (c 1) w d
  (m1.1, m2.1, w'.1, w'.2 ||| den.2)

/-- One good block of family 0 (R268). -/
def State.adaptive (s : State) (t : Tile) (k : Fin 16) (p : Shard) (y : SinkSt) : State :=
  let b := y.block
  let res := (List.range 32).map fun l =>
    let at_ (i : Nat) : Num := laneAt (blockVals .bs16 (SinkSt.block16 y i)) l
    adaptElem (fun n => s.rule t p.rule n) y.c1 y.c2 ((SinkSt.grads y p.anchor b).getD l (.fin 0 0, 0)) (at_ 0) (at_ 1) (at_ 2)
  let s := s.updArith t (res.map fun r => r.2.2.2)
  let s := (s.putMoment t k p 1 b (res.map fun r => r.1)).2
  let s := (s.putMoment t k p 2 b (res.map fun r => r.2.1)).2
  s.putMaster t k p b (res.map fun r => r.2.2.1)

/-- One block of family 1's momentum (R269), kept for the matrix work. -/
def State.momentum (s : State) (t : Tile) (k : Fin 16) (p : Shard) (y : SinkSt) : State :=
  let c n := s.rule t p.rule n
  let old := blockVals .bs16 (SinkSt.block16 y 1)
  let g := SinkSt.grads y p.anchor y.block
  let m1 := (List.range 32).map fun l => andThen (andThen (g.getD l (.fin 0 0, 0)) fun g => fMul g (c 7)) fun u => fFma (laneAt old l) (c 2) u
  let (v, s) := (s.updArith t (m1.map (·.2))).putMoment t k p 1 y.block (m1.map (·.1))
  s.modSink t k fun y => { y with held := y.held ++ [v] }

/-- One good block of family 2 (R270): MUL(g, KGS) into the work area, in W48. -/
def State.gradBlock (s : State) (t : Tile) (k : Fin 16) (p : Shard) (y : SinkSt) : State :=
  let gs := (SinkSt.grads y p.anchor y.block).map fun g => andThen g fun g => fMul g (s.rule t p.rule 7)
  let ws := gs.map fun g => w48Word (canonW48 g.1) 0
  (s.updArith t (gs.map (·.2))).updPadWrite t p.job (s.fld (shardCa t k 3) 24 0 + 256 * y.block) (ws.map fun w => toBytes 8 w.toNat).flatten

/-- The master of a block that is not updated, kept for the digest. -/
def keepMaster (t : Tile) (k : Fin 16) (y : SinkSt) (s : State) : State :=
  s.modSink t k fun z => { z with master := z.master ++ [SinkSt.block16 y 0] }

/-- Blocks of a shard. -/
def Shard.blocks (p : Shard) : Nat := p.nel / 32

/-- A sink on to a phase, with its blocks to do from the first. -/
def State.sinkPhase (s : State) (t : Tile) (k : Fin 16) (ph : SinkPhase) : State :=
  s.modSink t k fun y => { y with phase := ph, block := 0, asked := false, got := [] }

/-- What follows the last block of families 1 and 2: the matrix work, or where a block is bad the reading of the
    masters for the digest. -/
def State.blocksDone (s : State) (t : Tile) (k : Fin 16) (p : Shard) : State :=
  let y := s.sink t k
  if p.fam = 0 ∨ y.block < p.blocks then s
  else if SinkSt.badShard y then s.sinkPhase t k .apply
  else (s.sinkPhase t k (if p.fam = 1 then .apply else .factors)).setShardState t k 2

/-- BLOCK_UPDATE: the next block of a shard whose reduced elements are present is read, applied by its rule and written;
    a bad one is left as it is (R261, R268–R270). Family 1 takes its blocks when the whole shard is present and good,
    so that a bad block leaves every moment as it was.
    DEDUCED: notes/assumptions/70. -/
def execBlockUpdate (t : Tile) (k : Fin 16) (s : State) : Out :=
  let p := s.shard t k
  let y := s.sink t k
  let whole := decide (p.nel ≤ y.lanes.length)
  if !s.unitRuns t || !s.bit (shardCa t k 0) 63 || decide (p.blocks ≤ y.block) then .next s
  else match y.phase with
    | .blocks =>
      if decide (y.lanes.length < 32 * (y.block + 1)) || (p.fam == 1 && !whole) then .next s
      else
        let s := if p.fam = 0 ∧ y.block = 0 ∧ !y.asked ∧ s.tagsFree t 16 then s.biasStep t k p else s
        let s := match p.fam with
          | 0 => if SinkSt.badBlock y y.block then s.passBlock t k p [0] (keepMaster t k)
              else s.passBlock t k p [0, 1, 2] fun y s => s.adaptive t k p y
          | 1 => if SinkSt.badShard y then s.passBlock t k p [] fun _ s => s
              else s.passBlock t k p [1] fun y s => s.momentum t k p y
          | _ => s.passBlock t k p [] fun y s => if SinkSt.badBlock y y.block then s else s.gradBlock t k p y
        .next (s.blocksDone t k p)
    | .apply => if SinkSt.badShard y then .next (s.passBlock t k p [0] (keepMaster t k)) else .next s
    | _ => .next s

/-! ### Matrix work (R232, R269–R271) -/

/-- A matrix of values. -/
abbrev Mat := List (List Num)

/-- What the array and the chain did for the update unit: flags by lane, and rows presented. -/
structure MatWork where
  array : List Flags := []
  chain : List Flags := []
  rows  : Nat := 0
  deriving DecidableEq, Repr

def orLists : List Flags → List Flags → List Flags
  | [], ys => ys
  | xs, [] => xs
  | x :: xs, y :: ys => (x ||| y) :: orLists xs ys

/-- Rows of results: the values, and their flags by lane. -/
def gather (rows : List (List (Num × Flags))) : Mat × List Flags :=
  (rows.map fun r => r.map (·.1), rows.foldl (fun f r => orLists f (r.map (·.2))) [])

/-- An elementwise operation of one matrix, and of two. -/
def matMap (w : MatWork) (f : Num → Num × Flags) (a : Mat) : Mat × MatWork :=
  let (m, fl) := gather (a.map fun r => r.map f)
  (m, { w with chain := orLists w.chain fl })
def matZip (w : MatWork) (f : Num → Num → Num × Flags) (a b : Mat) : Mat × MatWork :=
  let (m, fl) := gather (a.zipWith (fun x y => x.zipWith f y) b)
  (m, { w with chain := orLists w.chain fl })

/-- rq16: a matrix requantised to BS16, ties to even. -/
def rq16 (w : MatWork) (a : Mat) : QMat × MatWork :=
  let rs := a.map fun r => (chunks 32 ((r.length + 31) / 32) r).map fun c =>
    requantBlock .bs16 false [] ((c ++ List.replicate (32 - c.length) (.fin 0 0)).map fun v => (v, true))
  (rs.map fun r => r.map fun b => (b.1, b.2.map (·.1)),
   { w with chain := rs.foldl (fun f r => orLists f (r.flatMap fun b => b.2.map (·.2))) w.chain })

/-- The first n columns of a BS16 matrix as values. -/
def qVals (n : Nat) (a : QMat) : Mat := a.map fun r => (r.flatMap (blockVals .bs16)).take n

/-- A row of blocks as the array reads it. -/
def qRow (r : List (Nat × List Int)) : List BlockRead :=
  r.map fun b => ⟨b.1, b.2.map (effMant .bs16 b.1), b.2.any (· == poisonMant .bs16)⟩

/-- One lane of a product: a pass for each 128 contraction indices, accumulated (R62, R65). -/
def laneProduct (x w : List BlockRead) : Num × Flags :=
  let p := passLane .bs16 (x.take 4) (w.take 4)
  let (a, f) := accumulate false 0 p.1 p.2
  if x.length ≤ 4 then (w48Value a, f)
  else
    let p := passLane .bs16 (x.drop 4) (w.drop 4)
    let (a, g) := accumulate true a p.1 p.2
    (w48Value a, f ||| g)

/-- The matrix product of x with the matrix whose transpose's rows are the weight rows. -/
def matMul (w : MatWork) (x weights : QMat) : Mat × MatWork :=
  let ws := weights.map qRow
  let (m, fl) := gather (x.map fun r => let xr := qRow r; ws.map (laneProduct xr))
  (m, { w with array := orLists w.array fl, rows := w.rows + x.length * (if (x.headD []).length ≤ 4 then 1 else 2) })

/-- Row k of the identity tensor of BS16 (R232). -/
def identityRow (k : Nat) : List BlockRead :=
  (List.range 4).map fun b => ⟨0x7F, (List.range 32).map fun l => if 32 * b + l = k then 16384 else 0, false⟩

/-- A transpose by transpose passes (R232) of a matrix with n columns; each pass presents the 128 identity rows. -/
def matTranspose (w : MatWork) (n : Nat) (x : QMat) : QMat × MatWork :=
  let xs := x.map qRow
  let (m, fl) := gather ((List.range n).map fun k => xs.map fun r =>
    let p := passLane .bs16 (identityRow (k % 128)) ((r.drop (4 * (k / 128))).take 4)
    let (a, f) := accumulate false 0 p.1 p.2
    (w48Value a, f))
  rq16 { w with array := orLists w.array fl, rows := w.rows + 128 * ((n + 127) / 128) } m

/-- The product of x with y, y's transpose made by transpose passes (R232, R270); y has n columns. -/
def matProd (w : MatWork) (n : Nat) (x y : QMat) : Mat × MatWork :=
  let (yt, w) := matTranspose w n y
  matMul w x yt

/-- The RSSQ of a matrix at Q = 2·emax − 69, rounded, with emax its largest exponent less 127. -/
def matNorm (n : Nat) (a : QMat) : Num × Flags :=
  let emax : Int := (a.foldl (fun m r => r.foldl (fun m b => max m b.1) m) 0 : Nat) - 127
  let (s, fl) := s96Record (2 * emax - 69) ((qVals n a).flatten.map fun v => (sqNum v, true))
  andThen (.fin 0 0, orFlags fl) fun _ => match s96Value s with
    | .fin m e => roundW48 m e
    | v => copied v

/-- Flags of scalar work. -/
def MatWork.scalar (w : MatWork) (f : Flags) : MatWork := { w with chain := orLists w.chain [f] }

/-- One round of R269 on X, of the given columns. -/
def orthoRound (rows cols : Nat) (p : QMat × MatWork) : QMat × MatWork :=
  let (x, w) := p
  let (a, w) := matMul w x x
  let (a, w) := rq16 w a
  let (aa, w) := matMul w a a
  let (b, w) := matZip w (fun a c => andThen (fMul c (.fin 65 (-5))) fun m => fFma a (.fin (-19) (-2)) m) (qVals rows a) aa
  let (b, w) := rq16 w b
  let (xt, w) := matTranspose w cols x
  let (bx, w) := matMul w b xt
  let (x, w) := matZip w (fun x y => fFma x (.fin 55 (-4)) y) (qVals cols x) bx
  rq16 w x

/-- The orthogonalised momentum (R269). -/
def orthogonalise (rows cols : Nat) (keps : Num) (m1 : QMat) : Mat × MatWork :=
  let r := andThen (andThen (matNorm cols m1) fun v => numAdd v keps) (sfuNative .rsqrt)
  let (x, w) := matMap (MatWork.scalar {} r.2) (fun v => fMul v r.1) (qVals cols m1)
  let (x, w) := iter (orthoRound rows cols) 5 (rq16 w x)
  (qVals cols x, w)

/-- The identity matrix scaled. -/
def matDiag (n : Nat) (v : Num) : Mat := (List.range n).map fun i => (List.range n).map fun j => if i = j then v else .fin 0 0

/-- One step of iroot4's loop on (Y, Z). -/
def rootStep (n : Nat) (p : QMat × QMat × MatWork) : QMat × QMat × MatWork :=
  let (y, z, w) := p
  let (zy, w) := matProd w n z y
  let (u, w) := matZip w (fun i c => fFnma i (.fin 1 (-1)) c) (matDiag n (.fin 3 (-1))) zy
  let (u, w) := rq16 w u
  let (yt, w) := matProd w n y u
  let (y, w) := rq16 w yt
  let (tz, w) := matProd w n u z
  let (z, w) := rq16 w tz
  (y, z, w)

/-- iroot4 of R270. -/
def iroot4 (n : Nat) (keps : Num) (s : QMat) (w : MatWork) : QMat × MatWork :=
  let t := andThen (andThen (matNorm n s) (sfuNative .sqrt)) fun v => numAdd v keps
  let r := andThen t (sfuNative .rcp)
  let q := andThen (sfuNative .sqrt t.1) (sfuNative .rsqrt)
  let (y, w) := matZip (MatWork.scalar w (r.2 ||| q.2)) (fun v d => andThen (numAdd v d) fun a => fMul a r.1) (qVals n s) (matDiag n keps)
  let (y, w) := rq16 w y
  let (i, w) := rq16 w (matDiag n (.fin 1 0))
  let (y, _, w) := iter (rootStep n) 8 (y, i, w)
  let (_, z, w) := iter (rootStep n) 8 (y, i, w)
  let (z, w) := matMap w (fun v => fMul v q.1) (qVals n z)
  rq16 w z

/-- The preconditioned step of R270: the new factors L and F, and D. -/
def precondition (n : Nat) (kb2 keps : Num) (g : Mat) (l f : QMat) : QMat × QMat × Mat × MatWork :=
  let (gq, w) := rq16 {} g
  let (gg, w) := matMul w gq gq
  let (l, w) := matZip w (fun x y => fFma x kb2 y) (qVals n l) gg
  let (l, w) := rq16 w l
  let (gt, w) := matTranspose w n gq
  let (gg, w) := matMul w gt gt
  let (f, w) := matZip w (fun x y => fFma x kb2 y) (qVals n f) gg
  let (f, w) := rq16 w f
  let (rf, w) := iroot4 n keps f w
  let (gf, w) := matProd w n gq rf
  let (gf, w) := rq16 w gf
  let (rl, w) := iroot4 n keps l w
  let (d, w) := matProd w n rl gf
  let (d, w) := rq16 w d
  (l, f, qVals n d, w)

/-- Whether the tile's array and chain take an update run (R271, R374). -/
def State.arrayFree (s : State) (t : Tile) : Bool :=
  let x := s.tile t
  x.mxe.run.isNone && x.mxe.queued.isNone && !x.mxe.halted && x.mxe.hold == 0 && x.chain.run.isNone && x.chain.queued.isNone && x.chain.out.isEmpty &&
    s.fieldState t.field == 4

/-- Words from an offset of the scratchpad, as far as they lie within a job domain's bounds, given free values. -/
def State.freePad (s : State) (t : Tile) (job off : Nat) : Nat → State
  | 0 => s
  | n + 1 =>
    let (w, s) := s.freshWord
    State.freePad (if s.inBounds t job off 8 then s.padStore t off (toBytes 8 w.toNat) else s) t job (off + 8) n

/-- Elements of accumulator rows, from an element on, given free values. -/
def State.freeAcc (s : State) (t : Tile) (e : Nat) : Nat → State
  | 0 => s
  | n + 1 =>
    let (w, s) := s.freshWord
    State.freeAcc (s.writeAcc t (e / 256) (e % 256) w) t (e + 1) n

/-- The marks that matrix work leaves: flags of the array and the chain, rows counted, and what the accumulator rows
    from ACCROW and the work area hold afterwards, which the manual does not say (R271). -/
def State.matrixDone (s : State) (t : Tile) (k : Fin 16) (w : MatWork) : State :=
  let s := (s.mxeFlags t w.array).tel t 0 w.rows
  let s := (s.laneFlags (tileCa t 0x03 0x100) 8 w.chain).orReg (vchFlagsCa t) (BitVec.ofNat 64 ((orFlags w.chain).toNat % 64))
  let s := s.freeAcc t (256 * s.fld (shardCa t k 2) 45 36) 65536
  s.freePad t (s.shard t k).job (s.fld (shardCa t k 3) 24 0) 262144

/-- Blocks of a row of a matrix in packed order, padding included (R38). -/
def rowBlocks (cols : Nat) : Nat := (cols + 31) / 32

/-- Matrix rows of a list of blocks in packed order. -/
def toRows (rows cols : Nat) (bs : List (Nat × List Int)) : QMat := chunks (rowBlocks cols) rows bs

/-- Values of a matrix in packed order, padding included. -/
def packed (m : Mat) : List Num := m.flatMap fun r => r ++ List.replicate (32 * rowBlocks r.length - r.length) (.fin 0 0)

/-- One master block of families 1 and 2 with its step d. -/
def State.applyBlock (s : State) (t : Tile) (k : Fin 16) (p : Shard) (d : Num → Num × Flags) (y : SinkSt) : State :=
  let ds := ((packed (y.result.getD [])).drop (32 * y.block)).take 32
  let w := blockVals .bs16 (SinkSt.block16 y 0)
  let ms := (List.range 32).map fun l =>
    andThen (d (laneAt ds l)) fun d => stepMaster (s.rule t p.rule 0) (s.rule t p.rule 1) (laneAt w l) d
  (s.updArith t (ms.map (·.2))).putMaster t k p y.block (ms.map (·.1))

/-- ORTHOGONALISE (R269): the matrix work of a family-1 shard once the array is free, then its masters block by block.
    DEDUCED: notes/assumptions/71. -/
def execOrthogonalise (t : Tile) (k : Fin 16) (s : State) : Out :=
  let p := s.shard t k
  let y := s.sink t k
  if !s.unitRuns t || !s.bit (shardCa t k 0) 63 || p.fam != 1 || !(y.phase == .apply) || SinkSt.badShard y then .next s
  else match y.result with
    | none =>
      if !s.arrayFree t then .next s
      else
        let (x, w) := orthogonalise p.rows p.cols (s.rule t p.rule 6) (toRows p.rows p.cols y.held)
        .next ((s.matrixDone t k w).modSink t k fun y => { y with result := some x, held := [] })
    | some _ =>
      if p.blocks ≤ y.block then .next s
      else .next (s.passBlock t k p [0] fun y s => s.applyBlock t k p (fun x => fMul x (s.rule t p.rule 8)) y)

/-- PRECONDITION (R270): the factors are read, the matrix work is done once the array is free, and the factors and the
    masters are written block by block. -/
def execPrecondition (t : Tile) (k : Fin 16) (s : State) : Out :=
  let p := s.shard t k
  let y := s.sink t k
  if !s.unitRuns t || !s.bit (shardCa t k 0) 63 || p.fam != 2 || SinkSt.badShard y then .next s
  else match y.phase, y.result with
    | .factors, none =>
      if y.block < p.blocks then
        .next (s.passBlock t k p [1, 2] fun y s => s.modSink t k fun z =>
          { z with held := z.held ++ [SinkSt.block16 y 1], held2 := z.held2 ++ [SinkSt.block16 y 2] })
      else if !s.arrayFree t then .next s
      else
        let n := p.rows
        let (bs, s) := s.updPad t p.job (s.fld (shardCa t k 3) 24 0) (8 * p.nel)
        let g : Mat := (chunks (32 * rowBlocks n) n ((chunks 8 p.nel bs).map fun b => w48Value (BitVec.ofNat 64 (ofBytes b)))).map (·.take n)
        let (l, f, d, w) := precondition n (s.rule t p.rule 4) (s.rule t p.rule 6) g (toRows n n y.held) (toRows n n y.held2)
        .next (((s.matrixDone t k w).modSink t k fun y =>
          { y with result := some d, held := l.flatten, held2 := f.flatten }).sinkPhase t k .apply)
    | .apply, some _ =>
      if p.blocks ≤ y.block then .next s
      else .next (s.passBlock t k p [0] fun y s =>
        let s := s.putBlock t k p.job 1 .bs16 y.block (y.held.getD y.block (0, []))
        let s := s.putBlock t k p.job 2 .bs16 y.block (y.held2.getD y.block (0, []))
        s.applyBlock t k p (fun x => (x, 0)) y)
    | _, _ => .next s

/-! ### Settling (R261, R262, R267, R274–R276) -/

/-- One bit of CRC-64 with the polynomial of ECMA-182, least significant bit first (R274). -/
def crcBit (c : Word) : Word := if c.getLsbD 0 then (c >>> 1) ^^^ 0xC96C5795D7870F42 else c >>> 1

/-- The CRC-64 of bytes (R274). -/
def crc64 (bs : List Byte) : Word := ~~~(bs.foldl (fun c b => iter crcBit 8 (c ^^^ b.setWidth 64)) (BitVec.allOnes 64))

/-- The digest of a shard's master blocks: their mantissa bytes, then their exponent bytes. -/
def shardDigest (bs : List (Nat × List Int)) : Word :=
  crc64 ((bs.flatMap fun b => packMantissas .bs16 b.2) ++ bs.map fun b => BitVec.ofNat 8 b.1)

/-- The anchor of the next step (R262). -/
def nextAnchor (a : Int) (ls : List RedLane) (raise_ : Nat) (ovr : Option Int) : Int :=
  let m := ls.foldl (fun (m : Option Int) (l : RedLane) =>
    if l.n = a64Poison ∨ l.n = 0 then m
    else let x := floorLog2 l.n (a - 62); some (match m with | some y => max x y | none => x)) none
  let x := match m with | some m => m + 8 | none => a
  let x := if ls.any (fun l => decide (l.flags &&& laneOv ≠ 0)) then max x (a + (raise_ : Int)) else x
  let x := match ovr with | some o => max x o | none => x
  max (-560) (min 560 x)

/-- The mailbox record of a step (R275). -/
def mailRecord (crc : Word) (step tid sender : Nat) : List Byte := toBytes 8 crc.toNat ++ toBytes 4 step ++ toBytes 2 tid ++ toBytes 2 sender

/-- The predecessor's record compared with the last digest (R275). -/
def State.checkMail (s : State) (t : Tile) (k : Fin 16) (p : Shard) : State :=
  let before := (p.step + (2 ^ 32 - 1)) % 2 ^ 32
  let (bs, s) := s.updPad t p.job (s.fld (shardCa t k 16) 24 0 + 16 * (before % 2)) 16
  let detail := BitVec.ofNat 64 (k.val <<< 48 + ofBytes ((bs.drop 14).take 2) <<< 32 + p.step)
  if ofBytes ((bs.drop 8).take 4) ≠ before ∨ ofBytes ((bs.drop 12).take 2) ≠ p.tid then
    (s.raise (updFlagsCa t) 6).post 0x12 (some p.job) none t.field t.site detail
  else if ofBytes (bs.take 8) ≠ (s.reg (shardCa t k 17)).toNat then
    (s.raise (updFlagsCa t) 5).post 0x11 (some p.job) none t.field t.site detail
  else s

/-- The mailbox record sent to the next sink of the ring (R275). -/
def State.sendMail (s : State) (t : Tile) (k : Fin 16) (p : Shard) (dig : Word) : State :=
  let off := s.fld (shardCa t k 16) 24 0 + 16 * (p.step % 2)
  let a := 0x40000000000000 + 1 <<< 37 + t.field.val <<< 31 + (s.logicalOf t).getD 0 <<< 25 + off
  if s.moduleValid && (s.logicalOf t).isSome then
    let (tag, s) := s.openTxn t (.updWord k.val)
    s.request t (Fin.ofNat 4 p.job) .fabric (s.fld (shardCa t k 16) 63 48) tag none
      (.bzw (Way.addr .fabric a) (mailRecord dig p.step p.tid s.moduleId))
  else s.post 0x05 (some p.job) none t.field t.site (BitVec.ofNat 64 a)

/-- The statistics of the step's noise (R276). -/
def State.noiseStats (s : State) (t : Tile) (k : Fin 16) (p : Shard) (y : SinkSt) : State :=
  if !p.noise then s
  else
    let l := (y.stats.getD 0 ⟨0, 0⟩).n
    let n : Int := if y.lanes.any fun l => l.n == a64Poison then lanePoison
      else squareLane (y.lanes.foldl (fun n l => n + l.n.natAbs * l.n.natAbs) 0)
    let put (s : State) (w : Nat) (v : Int) : State :=
      (s.setReg (shardCa t k w) (BitVec.ofInt 64 v)).setFld (shardCa t k (w + 1)) 31 0 (v / 2 ^ 64 % 2 ^ 32).toNat
    let s := (put (put s 20 l) 22 n).setFld (shardCa t k 21) 63 48 ((2 * p.anchor - 69) % 2 ^ 16).toNat
    s.setFld (shardCa t k 23) 63 32 ((y.stats.getD 1 ⟨0, 0⟩).n % 2 ^ 32).toNat

/-- The step fault of a step with a bad block (R261). -/
def State.stepFault (s : State) (t : Tile) (k : Fin 16) (p : Shard) (y : SinkSt) (a : Int) : State :=
  let bad := SinkSt.badShard y
  let s := s.setFld (shardCa t k 3) 61 61 (if bad then 1 else 0)
  if !bad then s
  else
    let fl := y.lanes.foldl (fun (f : BitVec 4) l => f ||| l.flags) 0
    (s.raise (updFlagsCa t) 4).post 0x10 (some p.job) none t.field t.site (BitVec.ofNat 64
      (k.val <<< 48 + (fl.getLsbD 2).toNat <<< 45 + (fl.getLsbD 3).toNat <<< 44 + (a % 2 ^ 16).toNat <<< 28 + p.step % 2 ^ 28))

/-- Steps 2 to 4 of R267: the digest, the next anchor, and the anchor word multicast to the leaves. -/
def State.settleBegin (s : State) (t : Tile) (k : Fin 16) (p : Shard) (y : SinkSt) : State :=
  let w13 := s.reg (shardCa t k 13)
  let dig := shardDigest y.master
  let s := s.setShardState t k 3
  let s := if y.fresh then s else s.checkMail t k p
  let s := (s.setReg (shardCa t k 17) dig).sendMail t k p dig
  let ovr := if w13.getLsbD 63 ∧ bits w13 31 0 = (p.step + 1) % 2 ^ 32 then some (signed 16 (bits w13 47 32)) else none
  let a := nextAnchor p.anchor y.lanes (s.fld (updCa t 0) 15 8) ovr
  let s := (s.noiseStats t k p y).stepFault t k p y a
  let w14 := s.reg (shardCa t k 14)
  let (tag, s) := s.openTxn t (.updWord k.val)
  let s := s.send { s.tileHead t (Fin.ofNat 4 p.job) 0x3E 0 false tag with mcg := some { group := bits w14 51 40 } }
    (.wr (bits w14 24 0) (toBytes 8 ((a % 2 ^ 16).toNat <<< 48 + (p.step + 1) % 2 ^ 32)))
  s.modSink t k fun y => { y with phase := .anchor, next := a, tag := some tag }

/-- Steps 5 and 6 of R267: STEP and ANCHOR, and the completion word's CNT. -/
def State.settleEnd (s : State) (t : Tile) (k : Fin 16) (p : Shard) (y : SinkSt) : State :=
  let s := (s.setFld (shardCa t k 12) 31 0 (p.step + 1)).setFld (shardCa t k 12) 63 48 (y.next % 2 ^ 16).toNat
  let s := (s.setShardState t k 0).modSink t k fun _ => { fresh := false }
  let a := s.fld (shardCa t k 15) 55 0
  let who := s.requester t 0
  let wy := s.way t false false a
  match wy with
  | .own off =>
    let (r, s) := s.padCac t p.job off .cnt 1 who
    if r.st = .done then s.slotNet t off 8 else s
  | .bad => s.post 0x05 (some p.job) none t.field t.site (BitVec.ofNat 64 a)
  | _ =>
    let (tag, s) := s.openTxn t (.updWord k.val)
    s.request t (Fin.ofNat 4 p.job) wy 0 tag none (.cac (Way.addr wy a) 1 1 who)

/-- SHARD_SETTLE: once every block is done and every Cave write of the step acknowledged, a sink settles its shard; it
    waits for the WACK of the anchor word between its steps (R267). -/
def execShardSettle (t : Tile) (k : Fin 16) (s : State) : Out :=
  let p := s.shard t k
  let y := s.sink t k
  let txns := (s.tile t).txns
  if !s.unitRuns t || !s.bit (shardCa t k 0) 63 || !s.tagsFree t 2 then .next s
  else match y.tag with
    | some tag => if (tget none txns tag).isSome then .next s else .next (s.settleEnd t k p y)
    | none =>
      if y.round < p.rounds ∨ y.master.length < p.blocks ∨ txns.any (fun e => e.2 == some (.updWrite k.val)) then .next s
      else .next (s.settleBegin t k p y)

/-! ### Writes to the unit's registers (R277) -/

/-- Whether an entry is idle.
    DEDUCED: notes/assumptions/75. -/
def State.shardIdle (s : State) (t : Tile) (k : Fin 16) : Bool :=
  s.fld (shardCa t k 3) 63 62 == 0 && !((s.tile t).sinkIn.any fun e => e.2.tree == s.fld (shardCa t k 0) 51 40)
def State.srcIdle (s : State) (t : Tile) (k : Fin 16) : Bool :=
  let i := s.fld (srcCa t k 0) 56 51
  s.fld (srcCa t k 3) 63 62 == 0 && s.fld (trtCa t i 1) 4 0 == 2 ^ s.fld (trtCa t i 0) 34 32

/-- Whether some valid entry of a job domain, or of a rule, is not idle. -/
def State.updBusy (s : State) (t : Tile) (shardHit srcHit : Word → Bool) : Bool :=
  (List.finRange 16).any fun k =>
    (s.bit (shardCa t k 0) 63 && shardHit (s.reg (shardCa t k 0)) && !s.shardIdle t k) ||
    (s.bit (srcCa t k 0) 63 && srcHit (s.reg (srcCa t k 0)) && !s.srcIdle t k)

/-- Whether a shard entry's words make a valid entry with word 0 as given (R269, R270, R277). A family-2 matrix whose COLS is no
    multiple of 32 holds its rows with their padding (R38).
    DEDUCED: notes/assumptions/75. -/
def State.shardOk (s : State) (t : Tile) (k : Fin 16) (v : Word) : Bool :=
  let w n := s.reg (shardCa t k n)
  let nel := bits (w 1) 16 0
  let rows := bits (w 2) 63 55
  let cols := bits (w 2) 54 46
  let a := signed 16 (bits (w 12) 63 48)
  let desc i (f : Fmt) : Bool := match s.shardDesc t k i with | some d => d.fmt == some f | none => false
  decide (32 ≤ nel ∧ nel ≤ 65536 ∧ nel % 32 = 0 ∧ bits v 17 16 = 0 ∧ -560 ≤ a ∧ a ≤ 560) &&
  decide (bits (w 2) 8 0 = 0 ∧ bits (w 3) 8 0 = 0 ∧ bits (w 14) 2 0 = 0 ∧ bits (w 16) 3 0 = 0) &&
  desc 0 .bs16 && desc 3 .bs8 && (desc 1 .bs16) && (bits v 60 59 == 1 || desc 2 .bs16) &&
  (match bits v 60 59 with
   | 0 => true
   | 1 => decide (32 ≤ cols ∧ cols % 32 = 0 ∧ 1 ≤ rows ∧ rows ≤ cols ∧ cols ≤ 256 ∧ nel = rows * cols)
   | _ => decide (32 ≤ cols ∧ rows = cols ∧ cols ≤ 256 ∧ nel = rows * (32 * rowBlocks cols)))

/-- Whether a source entry's words make a valid entry with word 0 as given. -/
def State.srcOk (s : State) (t : Tile) (k : Fin 16) (v : Word) : Bool :=
  let w n := s.reg (srcCa t k n)
  let nel := bits v 16 0
  decide (32 ≤ nel ∧ nel ≤ 65536 ∧ nel % 32 = 0) &&
  decide (bits (w 1) 34 32 = 0 ∧ bits (w 1) 8 0 = 0 ∧ bits (w 2) 34 32 = 0)

/-- A write to word w of a shard entry. -/
def State.shardWrite (s : State) (t : Tile) (k : Fin 16) (w : Nat) (ca : Nat) (g : RegGroup) (v : Word) : State :=
  let locked := decide (w ≤ 16 ∧ w ≠ 13)
  if locked && s.bit (shardCa t k 0) 63 && !s.shardIdle t k then s.configError ca
  else if w = 0 ∧ v.getLsbD 63 ∧ (rwReserved g.fields v ∨ !s.shardOk t k v) then s.configError ca
  else
    let was := s.bit (shardCa t k 0) 63
    let s := s.plainWrite ca g v
    if w = 0 ∧ !was ∧ v.getLsbD 63 then s.modSink t k fun _ => {} else s

/-- A write to word w of a source entry. -/
def State.srcWrite (s : State) (t : Tile) (k : Fin 16) (w : Nat) (ca : Nat) (g : RegGroup) (v : Word) : State :=
  if w ≤ 2 ∧ s.bit (srcCa t k 0) 63 ∧ !s.srcIdle t k then s.configError ca
  else if w = 0 ∧ v.getLsbD 63 ∧ (rwReserved g.fields v ∨ !s.srcOk t k v) then s.configError ca
  else s.plainWrite ca g v

/-- A write to UPD_JSEED_j and to a word of UPD_RULE_r. -/
def State.jseedWrite (s : State) (t : Tile) (j : Nat) (ca : Nat) (g : RegGroup) (v : Word) : State :=
  if s.updBusy t (fun w => bits w 62 61 == j) (fun w => bits w 62 61 == j) then s.configError ca else s.plainWrite ca g v
def State.ruleWrite (s : State) (t : Tile) (r : Nat) (ca : Nat) (g : RegGroup) (v : Word) : State :=
  if s.updBusy t (fun w => bits w 58 56 == r) (fun _ => false) then s.configError ca else s.plainWrite ca g v

end Sys2Proof.Machine
end

