-- ==== Sys2Proof/Machine/Rind.lean ====
section
/-! DEFINITION. Shared operations on the state of the Rind (chapters 15 to 18): queues and descriptors, loads, ports. -/

namespace Sys2Proof.Machine

def State.modRind (s : State) (f : RindSt → RindSt) : State := { s with rind := f s.rind }
def State.modPower (s : State) (f : PowerSt → PowerSt) : State := s.modRind fun x => { x with power := f x.power }
def State.modPins (s : State) (f : PinSt → PinSt) : State := s.modRind fun x => { x with pins := f x.pins }
def State.modPcie (s : State) (f : PcieSt → PcieSt) : State := s.modRind fun x => { x with pcie := f x.pcie }
def State.modFw (s : State) (f : FwSt → FwSt) : State := s.modRind fun x => { x with fw := f x.fw }
def State.modUnlock (s : State) (f : UnlockSt → UnlockSt) : State := s.modRind fun x => { x with unlock := f x.unlock }
def State.modSide (s : State) (f : SideSt → SideSt) : State := s.modRind fun x => { x with side := f x.side }
def State.modJtag (s : State) (f : JtagSt → JtagSt) : State := s.modRind fun x => { x with jtag := f x.jtag }

/-- A counter of the Rind's TEL_ block advanced (Table 18-1). -/
def State.telRind (s : State) (k n : Nat) : State := s.count (rindCa 2 (0x100 + 8 * k)) n

/-- An event of the Rind's own blocks. -/
def State.postRind (s : State) (code : Nat) (job : Option Nat) (detail : Nat) : State :=
  s.post code job none 0x3C 0 (BitVec.ofNat 64 detail)

/-! ### Queues -/

def queueCa (q w : Nat) : Nat := rindCa 0 (0x4000 + 0x20 * q + 8 * w)
def evqCa : Nat := rindCa 0 0x20
def loadstatCa : Nat := rindCa 0 0x30
def rindPressCa : Nat := rindCa 0 0x70
def resetCa : Nat := rindCa 0 0x28

def State.queue (s : State) (q : Nat) : QueueSt := tget {} s.rind.queues q
def State.modQueue (s : State) (q : Nat) (f : QueueSt → QueueSt) : State :=
  s.modRind fun x => { x with queues := tset {} x.queues q (f (tget {} x.queues q)) }

/-- STATE of a queue (Table 15-8): 0 disabled, 1 running, 2 draining, 3 error. -/
def State.queueState (s : State) (q : Nat) : Nat := s.fld (queueCa q 3) 14 12
def State.setQueueState (s : State) (q v : Nat) : State := s.setFld (queueCa q 3) 14 12 v

/-- FUNC of a queue: 0 the PF, v + 1 for VF v. -/
def State.queueFunc (s : State) (q : Nat) : Nat := s.fld (queueCa q 0) 62 60

/-- The job domain of a function (Table 15-7). -/
def State.funcJob (s : State) (f : Nat) : JobNo := Fin.ofNat 4 (s.fld (rindCa 0 0x10) (4 * f + 1) (4 * f))

/-- A descriptor of a queue changed. -/
def State.setDesc (s : State) (q i : Nat) (st : DescSt) : State :=
  s.modQueue q fun x => { x with descs := x.descs.modify i fun d => { d with st := st } }

/-- The place in its queue of the first descriptor whose state satisfies a test. -/
def QueueSt.findDesc (x : QueueSt) (p : DescSt → Bool) : Option Nat := x.descs.findIdx? fun d => p d.st

/-- The first descriptor of a queue whose state satisfies a test completed (R349). -/
def State.finishFirst (s : State) (q : Nat) (p : DescSt → Bool) (status : Nat) (result detail : Word) : State :=
  match QueueSt.findDesc (s.queue q) p with
  | some i => s.setDesc q i (.done status result detail)
  | none => s

/-! ### Loads (R362, R363) -/

/-- RIND_LOADSTAT at the end of a LOAD or FWLOAD. -/
def State.loadStat (s : State) (status sect ofs : Nat) : State :=
  s.setReg loadstatCa (BitVec.ofNat 64 (status <<< 48 + (sect % 16) <<< 40 + ofs % 2 ^ 40))

/-- A LOAD completed: RIND_LOADSTAT, the claim released, and its descriptor done. -/
def State.loadDone (s : State) (q status sect ofs : Nat) (result : Word) : State :=
  let s := (s.loadStat status sect ofs).modRind fun x => { x with load := none }
  s.finishFirst q (fun d => d == .load) status result (s.reg loadstatCa)

/-- The LOAD in progress abandoned, with status ABORTED: once pass 2 has begun, every context that its image writes is left EMPTY
    (R363, R367). -/
def State.dropLoad (s : State) : State :=
  match s.rind.load with
  | none => s
  | some l =>
    let empty (s : State) (k : Nat) : State := let c : CtxNo := Fin.ofNat 4 k; (s.dropWork (tileOfKey (k / 4)) c).emptyCtx (tileOfKey (k / 4)) c
    let s := if l.again.isSome then l.ctxs.foldl empty s else s
    s.loadDone l.q 9 0 0 l.id

/-- The tile that a record of an image names, by its logical number. -/
def State.recTile (s : State) (r : ImgRec) : Option Tile :=
  if r.spine then none else if h : r.field < 48 then s.siteOf ⟨r.field, h⟩ r.unit else none

/-- A LOAD in progress abandoned by a reset whose scope includes a context or a tile that it claims (R363). -/
def State.abortLoad (s : State) (ctx tile : Nat → Bool) : State :=
  match s.rind.load with
  | some l => if l.ctxs.any ctx || l.recs.any (fun r => (s.recTile r).any fun t => tile t.key) then s.dropLoad else s
  | none => s

/-! ### Ports (R355) -/

/-- Whether a port's link is up. -/
def State.linkOf (s : State) (p : Nat) : Bool := s.domState 49 == 7 && (if p = 0 then s.rind.pins.link0 else s.rind.pins.link1)

/-- The port chosen by RIND_PORTSEL for an IOVA; `col` is the column of the requester's field, none for the Rind, and
    a PF copy goes by IOVA[IBIT]. -/
def State.portFor (s : State) (iova : Nat) (col : Option Nat) (copy : Bool) : Nat :=
  let ps := s.reg (rindCa 0 0x18)
  let bit := iova >>> bits ps 13 8 % 2
  match bits ps 2 0 with
  | 0 => 0
  | 1 => 1
  | 2 => bit
  | _ => if copy then bit else match col with | some c => if c < 4 then 0 else 1 | none => 0

/-- The port a TLP takes: the chosen one, or the other where its link is down; none where both are. -/
def State.livePort (s : State) (p : Nat) : Option Nat :=
  if s.linkOf p then some p else if s.linkOf (1 - p) then some (1 - p) else none

/-- A TLP sent on a port. -/
def State.sendTlp (s : State) (p : Nat) (t : Tlp) : State :=
  (s.telRind (6 + p) 1).modRind fun x => { x with tlps := x.tlps ++ [(p, t)] }

/-- A TLP of the Rind sent on port 0, or on port 1 where the link of port 0 is down; dropped where both are. -/
def State.sendTlp0 (s : State) (t : Tlp) : State :=
  match s.livePort 0 with
  | some p => s.sendTlp p t
  | none => s

end Sys2Proof.Machine
end

