-- ==== Sys2Proof/Machine/Recovery.lean ====
section
/-! DEFINITION. Scrub, press and live remap (R396–R404). -/

namespace Sys2Proof.Machine

/-! ### Scrub (R396, R397) -/

/-- The scrubber's control register. -/
def scrubCa : ScrubUnit → Nat
  | .tile t => tileCa t 0x06 0x18
  | .vat f => vatCa f 0 0x18
  | .cellar f => cellarCa f 0 0x08

/-- Lines of a scrubber's store. -/
def scrubLines : ScrubUnit → Nat
  | .tile _ => 49664
  | .vat _ => 65536
  | .cellar _ => 50331648

def State.scrubber (s : State) : ScrubUnit → Scrubber
  | .tile t => (s.tile t).scrub
  | .vat f => (s.fieldSt f.val).vatScrub
  | .cellar f => (s.fieldSt f.val).celScrub

def State.setScrubber (s : State) (u : ScrubUnit) (x : Scrubber) : State :=
  match u with
  | .tile t => s.modTile t fun y => { y with scrub := x }
  | .vat f => s.modField f.val fun y => { y with vatScrub := x }
  | .cellar f => s.modField f.val fun y => { y with celScrub := x }

/-- Whether the store of a scrubber is served and takes cycles (R379). -/
def State.scrubClocked (s : State) : ScrubUnit → Bool
  | .tile t => s.clocked t.field.val
  | .vat f => s.clocked f.val
  | .cellar f => s.cellarReady f && !s.rind.power.stopped.contains f.val

/-- Whether a scrubber runs. -/
def State.scrubRuns (s : State) (u : ScrubUnit) : Bool := s.bit (scrubCa u) 63 && s.scrubClocked u

/-- The Vat line of an index, unless it is being filled or a miss entry holds it. -/
def State.scrubVatLine (s : State) (f : FieldNo) (n : Nat) : Option VatLine :=
  match tget none (s.vat f).lines n with
  | some l => if (s.vat f).miss.any (fun m => m.line == l.line) then none else some l
  | none => none

/-- The keys, in the table of errors, of the words of line n of a store of memory. -/
def scrubKeys (u : ScrubUnit) (n : Nat) : List Nat :=
  match u with
  | .tile t =>
    if n < 49152 then (List.range 64).map fun i => padAddr t (512 * n) / 8 + i
    else (List.range 64).map fun i => istoreErr t (64 * (n - 49152) + i)
  | .cellar f => (List.range 64).map fun i => cellarAddr f.val (512 * n) / 8 + i
  | .vat _ => []

/-- Upsets that have befallen words of the line since it was last read or written: each names a word and its error. -/
def State.scrubUpset (s : State) (u : ScrubUnit) (n : Nat) (ups : List (Fin 64 × Bool)) : State :=
  let e (two : Bool) : Nat := if two then 2 else 1
  match u with
  | .vat f =>
    match tget none (s.vat f).lines n with
    | some l => s.modVat f fun v => Vat.put v n (some { l with errs := ups.foldl (fun m w => tset 0 m w.1.val (max (tget 0 m w.1.val) (e w.2))) l.errs })
    | none => s
  | _ => ups.foldl (fun s w =>
    let k := (scrubKeys u n).getD w.1.val 0
    { s with ecc := tset 0 s.ecc k (max (tget 0 s.ecc k) (e w.2)) }) s

/-- The errors of line n: the words correctable and those not, by word of the line. -/
def State.scrubErrs (s : State) (u : ScrubUnit) (n : Nat) : List Nat × List Nat :=
  let at_ (i : Nat) : Nat := match u with
    | .vat f => (match s.scrubVatLine f n with | some l => tget 0 l.errs i | none => 0)
    | _ => tget 0 s.ecc ((scrubKeys u n).getD i 0)
  ((List.range 64).filter fun i => at_ i == 1, (List.range 64).filter fun i => decide (2 ≤ at_ i))

/-- The errors of a scrubbed line recorded: corrected words counted, and one event for a line with an uncorrectable word. -/
def State.scrubCount (s : State) (u : ScrubUnit) (n : Nat) (ce ue : List Nat) : State :=
  match u with
  | .tile t =>
    let s := s.padCe t ce.length
    if ue.isEmpty then s
    else if n < 49152 then s.padUe t (512 * n)
    else s.postTile 0x0C t (BitVec.ofNat 64 n)
  | .vat f =>
    let s := s.vatCorrected f ce.length
    if ue.isEmpty then s
    else (s.raise (vatFlagsCa f) 1).postVat 0x0C f none (match s.scrubVatLine f n with | some l => 512 * l.line | none => 0)
  | .cellar f =>
    let s := if ce.isEmpty then s else s.bumpSat (celStatusCa f) 47 32 (((ce.map (· / 8)).eraseDups).length)
    if ue.isEmpty then s else s.cellarUe f (512 * n)

/-- The line unit of a scrubber: in a cellar the port's arbiter grants it to requester 3 (Table 9-1, R303). -/
def State.scrubUnit (s : State) (u : ScrubUnit) : Option State :=
  match u with
  | .cellar f => s.arbTake (arbBase (.cellar f)) 3
  | _ => some s

/-- SCRUB_LINE (R396): the scrubber reads its next line.
    DEDUCED: notes/assumptions/107. -/
def execScrubLine (u : ScrubUnit) (ups : List (Fin 64 × Bool)) (s : State) : Out :=
  if !s.scrubRuns u || (s.scrubber u).fix.isSome then .next s
  else match s.scrubUnit u with
  | none => .next s
  | some s =>
    let ca := scrubCa u
    let n := s.fld ca 25 0
    let s := s.scrubUpset u n ups
    let (ce, ue) := s.scrubErrs u n
    let s := s.scrubCount u n ce ue
    let s := if ce.isEmpty then s else s.setScrubber u ⟨some (n, ce)⟩
    if n + 1 < scrubLines u then .next (s.setFld ca 25 0 (n + 1))
    else .next ((s.setFld ca 25 0 0).setFld ca 47 32 ((s.fld ca 47 32 + 1) % 65536))

/-- SCRUB_WRITEBACK (R396): the words found correctable and not written since are written back corrected; in a scratchpad a held
    scale line that is written is dropped (R159). -/
def execScrubWriteback (u : ScrubUnit) (s : State) : Out :=
  if !s.scrubClocked u then .next s
  else match (s.scrubber u).fix, s.scrubUnit u with
  | some (n, ws), some s =>
    let s := s.setScrubber u {}
    let s := match u with
      | .vat f => match s.scrubVatLine f n with
        | some l => s.modVat f fun v => Vat.put v n (some { l with errs := ws.foldl (fun m i => if tget 0 m i = 1 then tset 0 m i 0 else m) l.errs })
        | none => s
      | _ => ws.foldl (fun (s : State) i =>
        let k := (scrubKeys u n).getD i 0
        if tget 0 s.ecc k = 1 then { s with ecc := tset 0 s.ecc k 0 } else s) s
    let s := match u with
      | .tile t => if n < 49152 then s.modTile t fun x => dropScale x n else s
      | _ => s
    .next (s.bumpSat (scrubCa u) 55 48 1)
  | _, _ => .next s

/-- The place a scrubber reports from. -/
def scrubPlace : ScrubUnit → Nat × Nat × Nat
  | .tile t => (0x10, t.field.val, t.site.val)
  | .vat f => (0x11, f.val, 0x31)
  | .cellar f => (0x12, f.val, 0x32)

/-- SCRUB_STARVED (R397): the scrubber has waited 2^20 cycles for one line. -/
def execScrubStarved (u : ScrubUnit) (s : State) : Out :=
  if !s.scrubRuns u then .next s
  else
    let (code, f, site) := scrubPlace u
    .next (s.post 0x13 none none f site (BitVec.ofNat 64 (code <<< 8)))

/-! ### Press (R398–R400) -/

/-- A context pressed: its stream-in programs stop, their queued programs are discarded, and a PRESS token goes into
    each queue after the entries reserved. -/
def State.pressCtx (s : State) (t : Tile) (c : CtxNo) : State :=
  if !((s.ctx t c).state == .running) then s.configError (pressCa t)
  else
    let f (x : StreamCtx) : StreamCtx := StreamCtx.settle (x.waiting ++ [0x06]) { StreamCtx.stop x with queued := none }
    ((s.modEng t 0 c f).modEng t 1 c f).setFld (pressCa t) (52 + c.val) (52 + c.val) 1

/-- Bits of MASK of TIL_PRESS. -/
def State.pressMask (s : State) (t : Tile) (mask : Nat) : State :=
  allCtx.foldl (fun s c => if mask >>> c.val % 2 = 1 then s.pressCtx t c else s) s

/-- A write to TIL_PRESS (Table 17-6). -/
def State.pressWrite (s : State) (t : Tile) (ca : Nat) (g : RegGroup) (v : Word) : State :=
  (s.plainWrite ca g v).pressMask t (bits v 3 0)

/-- PRESS (R398): a write to TIL_PRESS with bits of MASK set.
    DEDUCED: notes/assumptions/108. -/
def execPress (t : Tile) (mask : BitVec 4) (s : State) : Out :=
  if s.answers (pressCa t) then .next (s.pressMask t mask.toNat) else .next (s.caError (pressCa t))

/-- Whether the press of a context is complete (R399). -/
def State.pressDone (s : State) (t : Tile) (c : CtxNo) : Bool :=
  let e (k : Fin 3) := s.eng t k c
  let x := s.ctx t c
  (e 0).queue.isEmpty && (e 1).queue.isEmpty && (e 0).waiting.isEmpty && (e 1).waiting.isEmpty &&
  !s.hasRun t c && !s.hasInvocation t c && s.soDone t c &&
  ([0, 1, 2] : List (Fin 3)).all (fun k => (e k).run.isNone && (e k).queued.isNone) &&
  (x.state == .ended || (x.state == .running && s.idleWaiting t c))

/-- The job press told of a context whose press has ended. -/
def State.jobPressed (s : State) (t : Tile) (c : CtxNo) (failed : Bool) : State :=
  let k := 4 * t.key + c.val
  let f (p : List Nat × Bool) : List Nat × Bool := if p.1.contains k then (p.1.erase k, p.2 || failed) else p
  s.modRind fun x => { x with press := x.press.map f }

/-- PRESS_COMPLETE (R399): a pressed context whose queues and work are empty and which waits becomes STOPPED. -/
def execPressComplete (t : Tile) (c : CtxNo) (s : State) : Out :=
  if !s.bit (pressCa t) (52 + c.val) || !s.pressDone t c then .next s
  else
    let s := (s.setFld (pressCa t) (52 + c.val) (52 + c.val) 0).setFld (pressCa t) (60 + c.val) (60 + c.val) 1
    let s := s.modCtx t c fun x => if x.state = .running then { x with state := .stopped, cause := 0xF } else x
    .next (s.jobPressed t c false)

/-- PRESS_TIMEOUT (R399): LIM has passed and the press is not complete. -/
def execPressTimeout (t : Tile) (c : CtxNo) (s : State) : Out :=
  if !s.bit (pressCa t) (52 + c.val) || s.pressDone t c then .next s
  else
    let s := (s.setFld (pressCa t) (52 + c.val) (52 + c.val) 0).setFld (pressCa t) (56 + c.val) (56 + c.val) 1
    let s := s.postCtx 0x03 t c (BitVec.ofNat 64 (1 <<< 63 + (s.ctx t c).pc.toNat))
    .next (s.jobPressed t c true)

/-- The running contexts of a job domain on every field that serves. -/
def State.runningOf (s : State) (job : Nat) : List (Tile × CtxNo) :=
  (s.tiles.map fun p =>
    let t := tileOfKey p.1
    if s.serves t.field.val then
      allCtx.filterMap fun c => if (s.ctx t c).state == .running && (s.jobOf t c).val == job then some (t, c) else none
    else []).flatten

/-- A write to RIND_PRESS (R400, Table 17-7). -/
def State.rindPressWrite (s : State) (v : Word) : State :=
  if s.bit rindPressCa 63 then s.configError rindPressCa
  else if !v.getLsbD 0 then s
  else
    let job := bits v 17 16
    let cs := s.runningOf job
    let s := cs.foldl (fun s p => s.pressCtx p.1 p.2) s
    let s := (List.finRange 48).foldl (fun s f =>
      if s.serves f.val && s.fld (fetchCtlCa f) 25 24 == job then s.fetchStop f else s) s
    (s.setReg rindPressCa (BitVec.ofNat 64 (1 <<< 63))).modRind fun x => { x with press := some (cs.map (fun p => 4 * p.1.key + p.2.val), false) }

/-- JOB_PRESS (R400): a write of GO to RIND_PRESS. -/
def execJobPress (job : JobNo) (s : State) : Out := .next (s.rindPressWrite (BitVec.ofNat 64 (job.val <<< 16 + 1)))

/-- JOB_PRESS_DONE (R400): every press has completed or failed. A context reset meanwhile is no longer pressing. -/
def execJobPressDone (s : State) : Out :=
  match s.rind.press with
  | none => .next s
  | some (l, failed) =>
    if l.any (fun k => s.bit (pressCa (tileOfKey (k / 4))) (52 + k % 4)) then .next s
    else .next ((s.setReg rindPressCa (BitVec.ofNat 64 ((if failed then 2 else 1) <<< 61))).modRind fun x => { x with press := none })

/-! ### Live remap (R402–R404) -/

def remapcmdCa (f : FieldNo) : Nat := fcCa f 0 0x1300
def remapstatCa (f : FieldNo) : Nat := fcCa f 0 0x1308
def tilemapCa (f : FieldNo) (k : Nat) : Nat := fcCa f 0 (0x1000 + 8 * k)

/-- Whether some enabled entry of the map names a site (FLD_SITEUSE). -/
def State.siteUsed (s : State) (f : FieldNo) (site : Nat) (but : Option Nat) : Bool :=
  (List.range 40).any fun k => some k != but && s.bit (tilemapCa f k) 7 && s.fld (tilemapCa f k) 5 0 == site

/-- A context that is EMPTY, or STOPPED with PRESSED set (R401). -/
def State.atRest (s : State) (t : Tile) (c : CtxNo) : Bool :=
  (s.ctx t c).state == .empty || ((s.ctx t c).state == .stopped && s.bit (pressCa t) (60 + c.val))

/-- Whether logical tile n is named by a valid member of a group of the field's table. -/
def State.groupNames (s : State) (f : FieldNo) (n : Nat) : Bool :=
  s.regs.any fun p =>
    let g := (p.1 - mcgCa f 0 0) / 0x40
    decide (mcgCa f 0 0 ≤ p.1 ∧ g < 4096) && s.bit (mcgCa f g 0) 63 &&
      (List.range (min (s.groupSize f g) 16)).any fun m => (s.member f g m).tile == n

/-- Whether a tile is a node or the sink of a tree with an occupied slot. -/
def State.treeBusy (s : State) (f : FieldNo) (k : Nat) (t : Tile) : Bool :=
  (s.tile t).redSlots.any (fun p => p.2.isSome) ||
  (s.fieldSt f.val).slots.any fun p =>
    p.2.isSome && s.fld (rtreeCa f (p.1 / 16) 0) 51 46 == 0x3F && s.fld (rtreeCa f (p.1 / 16) 0) 26 25 != 2 &&
      s.fld (rtreeCa f (p.1 / 16) 0) 24 19 == k

/-- Whether R402 refuses a remap of logical tile k, held by a site, to another. -/
def State.remapRefused (s : State) (f : FieldNo) (k site : Nat) (t : Tile) : Bool :=
  decide (42 ≤ site) || s.siteUsed f site none || s.bit (fcCa f 0 0x1200) site ||
  allCtx.any (fun c => !s.atRest t c || s.claimsCtx t c) ||
  (List.finRange 16).any (fun e => s.fld (shardCa t e 3) 63 62 != 0 || s.fld (srcCa t e 3) 63 62 != 0) ||
  (s.tile t).spx.cmd.isSome || s.groupNames f (40 * f.val + k) || s.treeBusy f k t ||
  s.claimsPad t 0 0x1800000 || (match s.rind.load with
    | some l => l.recs.any fun r => !r.spine && r.field == f.val && r.unit == k
    | none => false)

/-- A write to FLD_REMAPCMD (R402, Table 17-12). -/
def State.remapWrite (s : State) (f : FieldNo) (v : Word) : State :=
  if !v.getLsbD 16 then s
  else
    let k := bits v 13 8
    let site := bits v 5 0
    match s.siteOf f k with
    | none => s.configError (remapcmdCa f)
    | some t =>
      if (s.fieldSt f.val).remap.isSome || s.remapRefused f k site t then s.configError (remapcmdCa f)
      else
        let s := s.modField f.val fun x => { x with remap := some ⟨k, t.site, Fin.ofNat 42 site, .copy, 0⟩ }
        (s.setReg (remapstatCa f) (BitVec.ofNat 64 (1 <<< 61))).modTile t fun x => { x with moving := true, marks := [] }

/-- REMAP (R402).
    DEDUCED: notes/assumptions/109. -/
def execRemap (f : FieldNo) (k : Fin 64) (site : Fin 64) (s : State) : Out :=
  if !s.answers (remapcmdCa f) then .next (s.caError (remapcmdCa f))
  else if 40 ≤ k.val ∨ 42 ≤ site.val then .next (s.configError (remapcmdCa f))
  else .next (s.remapWrite f (BitVec.ofNat 64 (1 <<< 16 + k.val <<< 8 + site.val)))

/-- The phase, the passes, the marked lines and the lines moved in the current phase of FLD_REMAPSTAT (Table 17-13); UE is kept. -/
def State.remapStat (s : State) (f : FieldNo) (phase passes marked moved : Nat) : State :=
  let ue := s.fld (remapstatCa f) 47 32
  s.setReg (remapstatCa f) (BitVec.ofNat 64 (phase % 8 <<< 61 + passes % 32 <<< 56 + ue <<< 32 + marked % 65536 <<< 16 + moved % 65536))

/-- Lines of a tile's scratchpad that hold an uncorrectable word. -/
def State.badLines (s : State) (t : Tile) : List Nat :=
  let a := padAddr t 0 / 8
  ((s.ecc.filter fun p => decide (a ≤ p.1 ∧ p.1 < a + 0x300000 ∧ 2 ≤ p.2)).map fun p => (p.1 - a) / 64).eraseDups

/-- The words of a tile's instruction store that are uncorrectable. -/
def State.badIstore (s : State) (t : Tile) : List Nat :=
  (s.ecc.filter fun p => decide (istoreErr t 0 ≤ p.1 ∧ p.1 < istoreErr t 32768 ∧ 2 ≤ p.2)).map fun p => (p.1 - istoreErr t 0) / 8

/-- REMAP_COPY_DONE (R403): every line has been moved once. `lines` of registers and queues changed after they were
    moved. -/
def execRemapCopyDone (f : FieldNo) (lines : Fin 193) (s : State) : Out :=
  match (s.fieldSt f.val).remap with
  | some r =>
    if r.stage ≠ .copy ∨ !s.serves f.val then .next s
    else
      let t : Tile := ⟨f, r.old⟩
      let n := (s.tile t).marks.length + lines.val
      let s := s.bumpSat (remapstatCa f) 47 32 ((s.badLines t).length + ((s.badIstore t).map (· / 64)).eraseDups.length)
      let s := (s.remapStat f 2 0 n 0).modField f.val fun x => { x with remap := some { r with stage := .catchup } }
      .next (s.modTile t fun x => { x with marks := [] })
  | none => .next s

/-- REMAP_CATCHUP_PASS (R403): a catch-up pass ends; the lines marked meanwhile are few enough for CUTOVER, or another pass
    follows, or the remap has failed. -/
def execRemapCatchupPass (f : FieldNo) (lines : Fin 193) (s : State) : Out :=
  match (s.fieldSt f.val).remap with
  | some r =>
    if r.stage ≠ .catchup ∨ !s.serves f.val then .next s
    else
      let t : Tile := ⟨f, r.old⟩
      let n := (s.tile t).marks.length + lines.val
      let moved := s.fld (remapstatCa f) 15 0 + s.fld (remapstatCa f) 31 16
      if n ≤ 64 then .next ((s.remapStat f 3 (r.pass + 1) n 0).modField f.val fun x =>
        { x with remap := some { r with stage := .cutover, pass := r.pass + 1 } })
      else if 16 ≤ r.pass + 1 then
        .next (((s.remapStat f 5 16 n 0).modField f.val fun x => { x with remap := none }).modTile t fun x => { x with marks := [], moving := false })
      else
        .next (((s.remapStat f 2 (r.pass + 1) n moved).modField f.val fun x => { x with remap := some { r with pass := r.pass + 1 } }).modTile t
          fun x => { x with marks := [] })
  | none => .next s

/-- The entries of a table whose keys lie in a range, moved up or down by a distance. -/
def tmove {α : Type} [DecidableEq α] (d : Nat → α) (m : Table α) (src dst n : Nat) : Table α :=
  let kept := tclear (fun k => decide (dst ≤ k ∧ k < dst + n)) m
  (m.filter fun p => decide (src ≤ p.1 ∧ p.1 < src + n)).foldl (fun m p => tset (d (p.1 - src + dst)) m (p.1 - src + dst) p.2) kept

/-- The state of a tile's site moved to another site (Table 17-8): scratchpad, registers of blocks 0x00 to 0x0B, the
    instruction store, the accumulators and what no register shows. Uncorrectable words of scratchpad and instruction store arrive
    as error fill. -/
def State.moveSite (s : State) (a b : Tile) : State :=
  let bad := (s.ecc.filter fun p => decide (padAddr a 0 / 8 ≤ p.1 ∧ p.1 < padAddr a 0 / 8 + 0x300000 ∧ 2 ≤ p.2)).map fun p => p.1 - padAddr a 0 / 8
  let blocks : List Nat := (List.range 12) ++ [0x10, 0x20, 0x21]
  let regs := blocks.foldl (fun m k => tmove regReset m (tileCa a k 0) (tileCa b k 0) 0x100000) s.regs
  let live := tmove regReset s.live (tileCa a 5 0) (tileCa b 5 0) 0x100000
  let arbs := tmove (fun _ => ({} : ArbSt)) s.arbs (tileCa a 5 0) (tileCa b 5 0) 1
  let mem := tmove (fun _ => (0 : Byte)) s.mem (padAddr a 0) (padAddr b 0) 0x1800000
  let ecc := tclear (fun k => decide (padAddr b 0 / 8 ≤ k ∧ k < padAddr b 0 / 8 + 0x300000) || decide (istoreErr b 0 ≤ k ∧ k < istoreErr b 32768)) s.ecc
  let words := s.badIstore a
  let res := tmove (fun _ => false) s.resBad (tileCa a 0x20 0) (tileCa b 0x20 0) 0x200000
  let x := s.tile a
  let s := { s with regs := regs, live := live, arbs := arbs, mem := mem, ecc := ecc, resBad := res }
  let s := bad.foldl (fun (s : State) w => s.setBytes (padAddr b (8 * w)) (rawFill 8)) s
  let s := words.foldl (fun (s : State) w => s.setReg (tileCa b 0x10 (8 * w)) (BitVec.ofNat 64 (ofBytes (rawFill 8)))) s
  let s := s.modTile b fun y => { x with moving := false, marks := [], dbg := y.dbg }
  s.modTile a fun y => { gated := true, dbg := y.dbg }

/-- The direction code of NET_TRT_i from one site to another, where they are neighbours. -/
def dirTo (a b : Tile) : Option Nat := ([1, 2, 3, 4] : List Nat).find? fun d => upSite a d == some b

/-- The entries of a router whose parent was one site, rewritten to name another; where no code names it from there, the
    code is a free value (DEDUCED, notes/assumptions/60). -/
def State.retarget (s : State) (u old new : Tile) : State :=
  (List.range 64).foldl (fun s i =>
    if s.bit (trtCa u i 0) 63 && upSite u (s.fld (trtCa u i 0) 42 40) == some old then
      match dirTo u new with
      | some d => s.setFld (trtCa u i 0) 42 40 d
      | none =>
        let (w, s) := s.freshWord
        s.setFld (trtCa u i 0) 42 40 (w.toNat % 5)
    else s) s

/-- The moved tile's own entries: each mesh parent as seen from the new site. -/
def State.reparent (s : State) (old new : Tile) : State :=
  (List.range 64).foldl (fun s i =>
    match upSite old (s.fld (trtCa new i 0) 42 40) with
    | none => s
    | some p =>
      match dirTo new p with
      | some d => s.setFld (trtCa new i 0) 42 40 d
      | none =>
        let (w, s) := s.freshWord
        s.setFld (trtCa new i 0) 42 40 (w.toNat % 5)) s

/-- REMAP_CUTOVER (R403, R404): with packets held, the last lines are moved, the map and the tree entries rewritten in
    one cycle, and the packets released. -/
def execRemapCutover (f : FieldNo) (s : State) : Out :=
  match (s.fieldSt f.val).remap with
  | some r =>
    if r.stage ≠ .cutover ∨ !s.serves f.val then .next s
    else
      let a : Tile := ⟨f, r.old⟩
      let b : Tile := ⟨f, r.new⟩
      let s := s.moveSite a b
      let s := s.setFld (tilemapCa f r.tile) 5 0 r.new.val
      let s := s.reparent a b
      let s := (([1, 2, 3, 4] : List Nat).filterMap fun d => upSite a d).foldl (fun s u => s.retarget u a b) s
      .next ((s.remapStat f 4 r.pass 0 0).modField f.val fun x => { x with remap := none })
  | none => .next s

end Sys2Proof.Machine
end

