-- ==== Sys2Proof/Machine/Resets.lean ====
section
/-! DEFINITION. Resets (R365, R405–R407): what each scope clears, and how a reset is requested and completes. -/

namespace Sys2Proof.Machine

/-! ### Parts of Table 17-14 -/

/-- The registers of a range of control addresses back at their reset values, but for those kept. -/
def State.clearRegs (s : State) (lo hi : Nat) (keep : Nat → Bool) : State :=
  let p (k : Nat) : Bool := decide (lo ≤ k ∧ k < hi) && !keep k
  { s with regs := tclear p s.regs, live := tclear p s.live, arbs := tclear p s.arbs }

/-- The registers of blocks 0x00 to 0x0B of a tile that a scope below module keeps: network tags, path mask and epochs, and the
    tree entries unless the scope reaches them. -/
def tileKeeps (t : Tile) (trees : Bool) (k : Nat) : Bool :=
  k == tileCa t 8 0 || k == tileCa t 8 0x10 || k == tileCa t 6 0x10 ||
  decide (tileCa t 6 0x1000 ≤ k ∧ k < tileCa t 6 0x4C00) ||
  (!trees && decide (tileCa t 8 0x100 ≤ k ∧ k < tileCa t 8 0x500))

/-- The contexts of a tile made EMPTY, with the work of each on the shared units. -/
def State.emptyTile (s : State) (t : Tile) : State := allCtx.foldl (fun s c => ((s.dropWork t c).emptyCtx t c).resetStreams t c) s

/-- A transaction of a unit that is reset: its answer is discarded (R294). -/
def TxnKind.forget : TxnKind → TxnKind
  | .upd _ _ => .stale
  | .updWrite _ => .stale
  | .updWord _ => .stale
  | .spx _ => .stale
  | k => k

/-- Whether a transaction is an update entry's, k. -/
def TxnKind.ofShard (k : Nat) : TxnKind → Bool
  | .upd i _ => i == k
  | .updWrite i => i == k
  | .updWord i => i == k
  | _ => false

/-- A tile's registers and units reset; its stores, transactions and tags stay. A sparse command is abandoned, which sets
    SPX_FLAGS.ABORT (R294). -/
def State.resetTile (s : State) (t : Tile) (trees : Bool) (keep : Nat → Bool) : State :=
  let cmd := (s.tile t).spx.cmd.isSome
  let s := (s.emptyTile t).clearRegs (tileCa t 0 0) (tileCa t 12 0) keep
  let s := if cmd then s.raise (spxFlagsCa t) 5 else s
  s.modTile t fun x =>
    { eng := x.eng, txns := x.txns.map fun p => (p.1, p.2.map TxnKind.forget), nextTag := x.nextTag, owed := x.owed, marks := x.marks, moving := x.moving, dbg := x.dbg,
      gated := x.gated, scrub := x.scrub, redSlots := if trees then [] else x.redSlots }

/-- The fields that take epoch notices: those in TEST or beyond (R153, R378). -/
def State.noticeFields (s : State) : List Nat :=
  (List.range 48).filter fun f => let st := s.fieldState f; decide (2 ≤ st ∧ st ≤ 5)

/-- The epoch of the logical tile that a site holds advanced, and its notices sent (R153). -/
def State.advanceEpoch (s : State) (t : Tile) : State :=
  match s.logicalOf t with
  | none => s
  | some k =>
    let e := (s.fld (spdEpochCa t) 15 0 + 1) % 65536
    let fs := s.noticeFields
    let s := (s.setFld (spdEpochCa t) 15 0 e).modTile t fun x => { x with owed := fs ++ [48] }
    let n := 40 * t.field.val + k
    let note (s : State) (d : Nat × Nat) : State :=
      s.send (s.nodeHead 0 t.field.val 0x30 d.1 d.2) (.epochNotice n (BitVec.ofNat 16 e))
    (fs.map fun f => (f, 0x30)).foldl note (note s (0x3C, 0))

/-- The Vat of a field told to write back and invalidate every line. -/
def State.vatFlushAll (s : State) (f : FieldNo) : State :=
  if !s.serves f.val then s
  else (s.setFld (vatCa f 0 0) 63 63 1).modVat f fun x => { x with flush := some ⟨none, 0⟩ }

/-- The fetch engine and calendar of a field reset. -/
def State.resetFetch (s : State) (f : FieldNo) : State :=
  let s := s.clearRegs (fcCa f 0 0x2000) (fcCa f 0 0x2018) fun _ => false
  (s.clearRegs (fcCa f 0 0x4000) (fcCa f 0 0x8000) fun _ => false).modField f.val fun x => { x with fetch := { gen := x.fetch.gen + 1, touches := x.fetch.touches, done := x.fetch.done } }

/-- A station's trees and groups reset. -/
def State.resetTrees (s : State) (f : FieldNo) : State :=
  (s.clearRegs (stationCa f 1 0x10000) (stationCa f 1 0x80000) fun _ => false).modField f.val fun x =>
    { x with slots := [], redCred := [], rootOut := [] }

/-- A field's cross-module trees reset. -/
def State.resetXtrees (s : State) (f : FieldNo) : State :=
  (s.clearRegs (engineCa f 0 0x4000) (engineCa f 0 0x8000) fun _ => false).modEngine f fun x => { x with xslots := [] }

/-- The tiles of a module. -/
def allTiles : List Tile := ((List.finRange 48).map fun f => sitesOf f).flatten

/-! ### The scopes -/

/-- A field reset. -/
def State.fieldReset (s : State) (f : FieldNo) : State :=
  let s := s.abortLoad (fun k => k / 4 / 42 == f.val) fun k => k / 42 == f.val
  let s := (sitesOf f).foldl (fun s t => s.resetTile t true (tileKeeps t true)) s
  let s := (sitesOf f).foldl (fun s t => s.advanceEpoch t) s
  (((s.resetTrees f).resetXtrees f).resetFetch f).vatFlushAll f

/-- A tile reset. -/
def State.tileReset (s : State) (t : Tile) : State :=
  let s := s.abortLoad (fun k => k / 4 == t.key) fun k => k == t.key
  (s.resetTile t false (tileKeeps t false)).advanceEpoch t

/-- The context that a register of tile blocks 0x00 to 0x0B is indexed by, if any. -/
def ctxOfReg (block off : Nat) : Option Nat :=
  match block with
  | 0x00 => if 0x100 ≤ off ∧ off < 0x160 then some (off / 8 % 4) else none
  | 0x01 => if 0x100 ≤ off ∧ off < 0x200 then some ((off - 0x100) / 0x40)
            else if 0x200 ≤ off ∧ off < 0x400 then some ((off - 0x200) / 0x80) else none
  | 0x02 => if 0x300 ≤ off ∧ off < 0x320 then some (off / 8 % 4)
            else if 0x1000 ≤ off ∧ off < 0x1100 then some ((off - 0x1000) / 0x40)
            else if 0x2000 ≤ off ∧ off < 0x2200 then some ((off - 0x2000) / 0x80) else none
  | 0x03 => if 0x1000 ≤ off ∧ off < 0x3000 then some ((off - 0x1000) / 0x800)
            else if 0x4000 ≤ off ∧ off < 0x8000 then some ((off - 0x4000) / 0x1000) else none
  | 0x07 => if 0x100 ≤ off ∧ off < 0x160 then some (off / 8 % 4)
            else if 0x10000 ≤ off then some ((off - 0x10000) / 0x1000 % 4) else none
  | 0x09 => if 0x140 ≤ off ∧ off < 0x160 then some (off / 8 % 4) else none
  | 0x0A => if 0x100 ≤ off ∧ off < 0x120 then some (off / 8 % 4) else none
  | _ => none

/-- A context reset: EMPTY, and the registers it indexes at their reset values. -/
def State.contextReset (s : State) (t : Tile) (c : CtxNo) : State :=
  let s := s.abortLoad (fun k => k == 4 * t.key + c.val) fun _ => false
  let s := ((s.dropWork t c).emptyCtx t c).resetStreams t c
  s.clearRegs (tileCa t 0 0) (tileCa t 12 0) fun k => ctxOfReg (caParts k).block (caParts k).off != some c.val

/-- The tree entries of a tile whose JOB is j made invalid, their slots freed. -/
def State.jobTrees (s : State) (t : Tile) (j : Nat) : State :=
  (List.range 64).foldl (fun s i =>
    if s.bit (trtCa t i 0) 63 && s.fld (trtCa t i 0) 59 58 == j then
      (s.setFld (trtCa t i 0) 63 63 0).modTile t fun x => { x with redSlots := x.redSlots.filter fun p => p.1 / 16 != i }
    else s) s

/-- The update entries of a tile whose JOB is j made invalid; answers on their way to one are discarded. -/
def State.jobUpdates (s : State) (t : Tile) (j : Nat) : State :=
  (List.finRange 16).foldl (fun s k =>
    let s := if s.bit (shardCa t k 0) 63 && s.fld (shardCa t k 0) 62 61 == j then
        ((s.setFld (shardCa t k 0) 63 63 0).setShardState t k 0).modTile t fun x => { x with
          sinks := tset {} x.sinks k.val {}
          txns := x.txns.map fun p => (p.1, p.2.map fun y => if TxnKind.ofShard k.val y then .stale else y) }
      else s
    if s.bit (srcCa t k 0) 63 && s.fld (srcCa t k 0) 62 61 == j then
      ((s.setFld (srcCa t k 0) 63 63 0).setSrcState t k 0).modTile t fun x => { x with srcs := tset {} x.srcs k.val {} }
    else s) s

/-- The entries of a station, and of its engine, whose JOB is j made invalid; the fetch engine of the domain cancelled. -/
def State.jobField (s : State) (f : FieldNo) (j : Nat) : State :=
  let ofJob (lo hi step b : Nat) (p : Nat × Word) : Bool :=
    decide (lo ≤ p.1 ∧ p.1 < hi) && (p.1 - lo) % step == 0 && p.2.getLsbD 63 && bits p.2 (b + 1) b == j
  let r0 := rtreeCa f 0 0
  let trees := ((s.regs.filter (ofJob r0 (r0 + 0x10000) 16 58)).map fun p => (p.1 - r0) / 16)
  let m0 := mcgCa f 0 0
  let groups := ((s.regs.filter (ofJob m0 (m0 + 0x40000) 0x40 58)).map fun p => (p.1 - m0) / 0x40)
  let x0 := xtreeCa f 0 0
  let xs := ((s.regs.filter (ofJob x0 (x0 + 0x4000) 0x20 61)).map fun p => (p.1 - x0) / 0x20)
  let s := trees.foldl (fun s k => s.setFld (rtreeCa f k 0) 63 63 0) s
  let s := groups.foldl (fun s g => s.setFld (mcgCa f g 0) 63 63 0) s
  let s := xs.foldl (fun s k => s.setFld (xtreeCa f k 0) 63 63 0) s
  let s := s.modField f.val fun x =>
    { x with slots := x.slots.filter fun p => !trees.contains (p.1 / 16), rootOut := x.rootOut.filter fun p => !trees.contains p.1 }
  let s := s.modEngine f fun x => { x with xslots := x.xslots.filter fun p => !xs.contains (p.1 / 16) }
  if s.fld (fetchCtlCa f) 25 24 = j then (s.fetchCancel f 0).fetchStop f else s

/-- A job-domain reset: the domain's contexts, entries and fetch engines. -/
def State.jobReset (s : State) (j : JobNo) : State :=
  let cs := (allTiles.map fun t => (allCtx.filter fun c => s.jobOf t c == j).map fun c => (t, c)).flatten
  let s := cs.foldl (fun s p => s.contextReset p.1 p.2) s
  let s := allTiles.foldl (fun s t => (s.jobTrees t j.val).jobUpdates t j.val) s
  (List.finRange 48).foldl (fun s f => s.jobField f j.val) s

/-- Debug back to locked, with a new nonce (R422). -/
def State.debugLock (s : State) : State :=
  ((s.setFld (rindCa 3 0x08) 9 8 0).setFld (rindCa 3 0x08) 63 63 0).modUnlock fun u => { u with nonce := u.nonce + 1, verify := none }

/-- A module reset.
    DEDUCED: notes/assumptions/96. -/
def State.moduleReset (s : State) : State :=
  let s := s.dropLoad
  let s := (List.finRange 48).foldl (fun s f =>
    let s := (sitesOf f).foldl (fun s t => (s.resetTile t true fun _ => false).modTile t fun x => { x with owed := [] }) s
    let s := ((s.resetTrees f).resetFetch f).vatFlushAll f
    let s := s.clearRegs (fcCa f 0 0x1000) (fcCa f 0 0x1208) fun _ => false
    let s := s.clearRegs (stationCa f 0 0) (stationCa f 0 0x08) fun _ => false
    let s := s.clearRegs (stationCa f 0 0x10000) (stationCa f 0 0x100000) fun _ => false
    let s := s.setReg (stationCa f 1 0) 0
    (s.clearRegs (cellarCa f 3 0) (cellarCa f 4 0) fun _ => false).modField f.val fun x => { x with free := [] }) s
  let s := s.clearRegs (hostAgentCa 0 0) (hostAgentCa 0 0x100) fun _ => false
  let s := s.clearRegs (hostAgentCa 1 0) (hostAgentCa 2 0) fun _ => false
  let s := s.modAgent fun a => { a with moves := [], move := none, ptcmd := none }
  ({ s with epochs := [] } : State).debugLock

/-! ### Requests (R365) -/

/-- Whether a reset word names a scope and codes that exist (Table 15-24). -/
def resetOk (v : Word) : Bool :=
  decide (1 ≤ bits v 55 53 ∧ bits v 55 53 ≤ 5 ∧ bits v 45 40 < 48 ∧ bits v 37 32 < 40)

/-- A write to RIND_RESET: rejected while a reset is in progress. -/
def State.resetWrite (s : State) (v : Word) : State :=
  if !s.rind.resets.isEmpty then s.configError resetCa
  else if 48 ≤ bits v 45 40 ∨ 40 ≤ bits v 37 32 ∨ 6 ≤ bits v 55 53 then s.configError resetCa
  else if bits v 55 53 = 0 then s
  else s.modRind fun x => { x with resets := [{ word := v }] }

/-- The first reset requested and not yet performed, where it has a scope. -/
def State.nextReset (s : State) (scope : Nat) : Option ResetReq :=
  match s.rind.resets.find? (fun r => !r.did) with
  | some r => if bits r.word 55 53 = scope then some r else none
  | none => none

/-- A reset performed: the first one not yet performed is marked. -/
def State.resetDid (s : State) : State :=
  let mark : List ResetReq → List ResetReq := fun l => match l.findIdx? (fun r => !r.did) with
    | some i => l.modify i fun r => { r with did := true }
    | none => l
  s.modRind fun x => { x with resets := mark x.resets }

/-- MODULE_RESET (R405). -/
def execModuleReset (s : State) : Out :=
  match s.nextReset 1 with
  | some _ => .next s.moduleReset.resetDid
  | none => .next s

/-- FIELD_RESET (R405). -/
def execFieldReset (s : State) : Out :=
  match s.nextReset 2 with
  | some r => .next (s.fieldReset (fieldNo (bits r.word 45 40))).resetDid
  | none => .next s

/-- TILE_RESET (R405). -/
def execTileReset (s : State) : Out :=
  match s.nextReset 3 with
  | some r => .next (match s.siteOf (fieldNo (bits r.word 45 40)) (bits r.word 37 32) with
    | some t => (s.tileReset t).resetDid
    | none => s.resetDid)
  | none => .next s

/-- CONTEXT_RESET (R405). -/
def execContextReset (s : State) : Out :=
  match s.nextReset 4 with
  | some r => .next (match s.siteOf (fieldNo (bits r.word 45 40)) (bits r.word 37 32) with
    | some t => (s.contextReset t (Fin.ofNat 4 (bits r.word 31 30))).resetDid
    | none => s.resetDid)
  | none => .next s

/-- JOB_DOMAIN_RESET (R405). -/
def execJobDomainReset (s : State) : Out :=
  match s.nextReset 5 with
  | some r => .next (s.jobReset (Fin.ofNat 4 (bits r.word 29 28))).resetDid
  | none => .next s

/-- Whether the Vats that a reset writes back have finished. -/
def State.resetSettled (s : State) (w : Word) : Bool :=
  match bits w 55 53 with
  | 1 => (List.range 48).all fun f => (s.fieldSt f).vat.flush.isNone && (s.fieldSt f).vat.wb.isEmpty
  | 2 => (s.fieldSt (bits w 45 40)).vat.flush.isNone && (s.fieldSt (bits w 45 40)).vat.wb.isEmpty
  | _ => true

/-- RESET_DONE (R365): the first reset is complete: BUSY clears, the event is recorded and its descriptor completes. -/
def execResetDone (s : State) : Out :=
  match s.rind.resets with
  | [] => .next s
  | r :: rest =>
    if !r.did || !s.resetSettled r.word then .next s
    else
      let s := (s.modRind fun x => { x with resets := rest }).postRind 0x1B none r.word.toNat
      .next (match r.q with
        | some q => s.finishFirst q (fun d => d == .reset) 0 0 0
        | none => s)

/-! ### Cold reset (R369, R372, R405, R433) -/

/-- RIND_FWSTAT: the flash as shipped until the device changes it. -/
def State.fwStat (s : State) : Word := s.rind.fw.stat.getD Config.flashStatus

/-- The firmware after a cold reset: a trial ends with the previous slot. -/
def FwSt.cold (x : FwSt) : FwSt :=
  match x.stat with
  | some w => { stat := some (if w.getLsbD 63 then setBits (setBits w 63 63 0) 62 62 (if x.back then 1 else 0) else w), svn := x.svn, back := x.back }
  | none => { svn := x.svn, back := x.back }

/-- A cold reset: everything as at reset but for what is fused, stored in flash or outside the module; the straps are
    sampled.
    DEDUCED: notes/assumptions/97. -/
def State.coldReset (s : State) (straps : BitVec 3) (main low : Bool) : State :=
  let r : RindSt := { ticks := s.rind.ticks, tlps := s.rind.tlps, revoked := s.rind.revoked, fw := FwSt.cold s.rind.fw }
  let r := { r with pins := { main := main, reset := low, straps := straps }, unlock := { nonce := s.rind.unlock.nonce + 1 } }
  { State.reset with pending := s.pending, free := s.free, rind := r }

end Sys2Proof.Machine
end

