-- ==== Sys2Proof/Machine/Power.lean ====
section
/-! DEFINITION. Power domains, clocks, the thaw and the freeze, the cap and the thermal limits (R370–R389), and the pins
(R430–R433). -/

namespace Sys2Proof.Machine

def domCa (d : Nat) : Nat := rindCa 1 (0x100 + 8 * d)
def pwrCtlCa : Nat := rindCa 1 0x00
def domcmdCa : Nat := rindCa 1 0x08
def pwrMeasCa : Nat := rindCa 1 0x10
def energyCa : Nat := rindCa 1 0x18
def optgateCa : Nat := edgeCa 0 0x100
def optstatCa : Nat := edgeCa 0 0x108

/-- STATE of a field given. -/
def State.setField (s : State) (f : FieldNo) (st : Nat) : State := s.setFld (domCa (f.val + 1)) 3 0 st

/-- A power-and-thermal event: cause, domain, and the temperature or the power in units of 10 W. -/
def State.pwrEvent (s : State) (cause dom x : Nat) : State := s.postRind 0x1A none (cause + dom <<< 8 + (x % 65536) <<< 16)

/-- TJ of a field. -/
def State.tj (s : State) (f : FieldNo) : Nat := s.fld (domCa (f.val + 1)) 47 40

/-- ALERT# (R432): a field in emergency freeze, or an input loss since power-good last rose. -/
def State.alert (s : State) : Bool :=
  s.rind.pins.alert || (List.range 48).any fun f => s.fieldState f == 6 && s.fld (domCa (f + 1)) 31 28 == 15

/-! ### What loses its power -/

/-- Whether a place of the network (Node.place) lies in a field. -/
def placeIn (f : FieldNo) (k : Nat) : Bool :=
  if k < 2048 then decide (k / 42 = f.val) else if k < 4096 then k == 2048 + f.val else decide (k / 64 = 64 + f.val)

/-- Everything that a field's rail holds gone: its registers, stores and work, and the packets inside it.
    DEDUCED: notes/assumptions/100. -/
def State.wipeField (s : State) (f : FieldNo) : State :=
  let lo := mkCa f.val 0 0 0
  let hi := mkCa (f.val + 1) 0 0 0
  let s := s.clearRegs lo hi fun k => (caParts k).site == 0x33
  let s := s.clearRange (padAddr ⟨f, 0⟩ 0) (2 ^ 31)
  let s := s.clearRange (cellarAddr f.val 0) (2 ^ 35)
  let at_ (n : Node) : Bool := placeIn f (Node.place n) && n != .spine f.val 0x33
  let inside (p : Packet) : Bool := (decide (0 < (Packet.left p)) && at_ (Packet.start p)) || p.trail.any fun h => at_ h.node
  let s := s.modRind fun x => { x with armed := x.armed.filter fun k => !(decide (lo ≤ k ∧ k < hi) && (caParts k).site != 0x33) }
  { s with resBad := tclear (fun k => decide (lo ≤ k ∧ k < hi)) s.resBad,
           ecc := tclear (fun k => decide (2 ^ 60 + lo ≤ k ∧ k < 2 ^ 60 + hi)) s.ecc,
           times := tset 0 s.times f.val 0,
           tiles := tclear (fun k => decide (k / 42 = f.val)) s.tiles,
           fields := tset {} s.fields f.val {},
           net := s.net.filter fun p => !inside p,
           links := tclear (fun k => placeIn f (k / 8192) || placeIn f (k % 8192)) s.links,
           vcb := tclear (fun k => decide (k / 64 = f.val)) s.vcb }

/-- An optical engine without power: its tables, slots, packets and half-ports. -/
def State.wipeEngine (s : State) (f : FieldNo) : State :=
  let s := s.clearRegs (engineCa f 0 0) (stationCa f 0 0) fun _ => false
  let s := s.modRind fun x => { x with armed := x.armed.filter fun k => k != engineCa f 4 0 }
  { s with engines := tset {} s.engines f.val {},
           hports := tset {} (tset {} s.hports (2 * f.val) {}) (2 * f.val + 1) {} }

/-- PD49 without power: ports, EDGE_ block, fabric time and every engine. -/
def State.wipeEdge (s : State) : State :=
  let s := (List.finRange 48).foldl (fun s f => s.wipeEngine f) s
  let s := s.clearRegs (edgeCa 0 0) (mkCa 0x3E 0 0 0) fun _ => false
  let s := { s with sync := {} }
  let s := (s.modPcie fun _ => {}).modPins fun p => { p with link0 := false, link1 := false, pwrgd := false }
  (s.modPower fun p => { p with training := [] }).setFld (domCa 49) 3 0 0

/-! ### Links of a field -/

/-- The express links of a field with their far ends. -/
def expressOf (f : FieldNo) : List (Nat × FieldNo) :=
  (List.range 14).filterMap fun l => (linkPeer f l).map fun p => (l, p.1)

/-- The stitched mesh links of a field: the station that owns each, its number there and the field at the far end (R172). -/
def stitchedOf (f : FieldNo) : List (FieldNo × Nat × FieldNo) :=
  let x := f.val % 8
  let y := f.val / 8
  let east (g h : Nat) (k : FieldNo) : List (FieldNo × Nat × FieldNo) := (List.range 7).map fun r => (fieldNo g, 14 + r, if k = fieldNo g then fieldNo h else fieldNo g)
  let north (g h : Nat) (k : FieldNo) : List (FieldNo × Nat × FieldNo) := (List.range 6).map fun c => (fieldNo g, 21 + c, if k = fieldNo g then fieldNo h else fieldNo g)
  (if x < 7 then east f.val (f.val + 1) f else []) ++ (if 0 < x then east (f.val - 1) f.val f else []) ++
  (if y < 5 then north f.val (f.val + 8) f else []) ++ (if 0 < y then north (f.val - 8) f.val f else [])

/-- The stitched mesh links of a field put into service where the far field serves, when this one comes to serve (R167). -/
def State.meshOn (s : State) (f : FieldNo) : State :=
  (stitchedOf f).foldl (fun s l => if s.serves l.2.2.val then s.setFld (jetLinkCa l.1 l.2.1) 2 0 2 else s) s

/-- Every express link and stitched mesh link of a field put out of service (R167, R385). -/
def State.linksOff (s : State) (f : FieldNo) : State :=
  let s := (stitchedOf f).foldl (fun s l => s.setFld (jetLinkCa l.1 l.2.1) 2 0 0) s
  s.changeLinks fun s => (expressOf f).foldl (fun s l => s.setLink f l.1 0) s

/-- Whether a field has left TEST and is not held: its links may calibrate (R375, R376).
    DEDUCED: notes/assumptions/105. -/
def State.calibrates (s : State) (f : FieldNo) : Bool := s.serves f.val && !s.bit (domCa (f.val + 1)) 26

/-- Whether every express link of a field with a powered far end has ended calibration (R375). -/
def State.calDone (s : State) (f : FieldNo) : Bool :=
  (expressOf f).all fun l =>
    let st := s.fieldState l.2.val
    st == 0 || st == 6 || decide (2 ≤ s.fld (jetLinkCa f l.1) 2 0)

/-- JCAL set for the fields whose step 3 has become complete. -/
def State.checkCal (s : State) : State :=
  (List.finRange 48).foldl (fun s f =>
    if s.fieldState f.val == 3 && s.calibrates f && s.calDone f then s.setFld (domCa (f.val + 1)) 25 25 1 else s) s

/-- Calibration and cellar training of a field begin (R375). -/
def State.startCal (s : State) (f : FieldNo) : State :=
  let s := s.setFld (celStatusCa f) 2 0 1
  ((expressOf f).foldl (fun s l =>
    if s.calibrates l.2 && s.fld (jetLinkCa f l.1) 2 0 == 0 then s.setLink f l.1 1 else s) s).checkCal

/-! ### Throttling (R380) -/

/-- The cap level L. -/
def State.capLevel (s : State) : Nat := s.fld pwrMeasCa 3 0

/-- THROT of a field: the larger of the cap level and its thermal level while it serves. -/
def State.setThrot (s : State) (f : FieldNo) : State :=
  s.setFld (domCa (f.val + 1)) 39 36 (if s.serves f.val then max s.capLevel (tget 0 s.rind.power.therm f.val) else 0)

/-- THROT of every field. -/
def State.setThrots (s : State) : State := (List.finRange 48).foldl (fun s f => s.setThrot f) s

/-! ### The end of a field's power -/

/-- What the Rind keeps of a field that is no longer powered. -/
def State.forgetField (s : State) (f : FieldNo) : State :=
  let s := s.modPower fun p =>
    { p with held := p.held.erase f.val, therm := tset 0 p.therm f.val 0, warm := p.warm.erase f.val,
             cool := tset 0 p.cool f.val 0, clock := tset 0 p.clock f.val 0, stopped := p.stopped.erase f.val }
  let s := (s.setFld (domCa (f.val + 1)) 26 24 0).tinvGone f.val
  s.setThrot f

/-- A field's rail removed: it becomes OFF (R385). -/
def State.railOff (s : State) (f : FieldNo) : State :=
  let s := (s.linksOff f).wipeField f
  let s := (s.setField f 0).setFld (domCa (f.val + 1)) 47 40 0
  (s.forgetField f).checkCal

/-- An emergency freeze (R383): the rail removed at once; the field is FAILED with FSTAGE = 0xF. -/
def State.emergency (s : State) (f : FieldNo) (cause : Nat) : State :=
  let tj := s.tj f
  let s := (s.linksOff f).wipeField f
  let s := (s.setField f 6).setFld (domCa (f.val + 1)) 31 28 15
  ((s.forgetField f).checkCal).pwrEvent cause (f.val + 1) tj

/-- A stage of a thaw failed (R373). -/
def State.stageFailed (s : State) (f : FieldNo) : State :=
  let st := s.fieldState f.val
  let s := s.linksOff f
  let s := (s.setFld (domCa (f.val + 1)) 31 28 st).setField f 6
  ((s.forgetField f).checkCal).pwrEvent 0x01 (f.val + 1) (s.tj f)

/-! ### Commands (Table 16-7) -/

/-- A field's ramp begins. -/
def State.startRamp (s : State) (f : FieldNo) : State :=
  ((s.setField f 1).setFld (domCa (f.val + 1)) 27 27 0).modPower fun p => { p with rampAt := some s.rind.ticks }

/-- Whether 2 ms have passed since the last ramp began (R377). -/
def State.rampFree (s : State) : Bool :=
  match s.rind.power.rampAt with
  | some t => decide (t + 2000000 ≤ s.rind.ticks)
  | none => true

/-- THAW (R371, R376, R377). -/
def State.thaw (s : State) (f : FieldNo) (hold : Bool) : State :=
  let first := decide (f = 3 ∨ f = 4)
  if s.fieldState f.val != 0 || s.rind.power.queue.contains f.val || s.domState 49 != 7 || !(first || s.serves 3 || s.serves 4) then
    s.configError domcmdCa
  else
    let s := s.modPower fun p => { p with held := if hold then f.val :: p.held.erase f.val else p.held.erase f.val }
    if s.rind.power.queue.isEmpty && s.rampFree then s.startRamp f
    else (s.modPower fun p => { p with queue := p.queue ++ [f.val] }).setFld (domCa (f.val + 1)) 27 27 1

/-- CONTINUE (R376). -/
def State.continue_ (s : State) (f : FieldNo) : State :=
  if !s.bit (domCa (f.val + 1)) 26 then s.configError domcmdCa
  else
    let s := (s.setFld (domCa (f.val + 1)) 26 26 0).modPower fun p => { p with held := p.held.erase f.val }
    s.startCal f

/-- SETFREQ (R28, R379). -/
def State.setFreq (s : State) (f : FieldNo) (freq : Nat) : State :=
  if freq = 2 ∧ !s.bit pwrCtlCa 63 then s.configError domcmdCa
  else
    let s := s.setFld (domCa (f.val + 1)) 33 32 freq
    if s.fieldState f.val = 4 then s.modPower fun p => { p with stopped := f.val :: p.stopped.erase f.val } else s

/-- A field enters FREEZING (R385): its Vat begins to write back. A FAILED field's clocks are stopped, and what its Vat and its
    home hold is lost with the rail.
    DEDUCED: notes/assumptions/102. -/
def State.startFreeze (s : State) (f : FieldNo) : State :=
  let s := if s.serves f.val then s.vatFlushAll f else s.modField f.val fun x => { x with vat := {}, home := {}, cellar := {} }
  let s := (s.setField f 5).setFld (domCa (f.val + 1)) 26 26 0
  s.setThrot f

/-- FREEZE of a field (R371, R377, R385).
    DEDUCED: notes/assumptions/102. -/
def State.freeze (s : State) (f : FieldNo) : State :=
  let st := s.fieldState f.val
  let serves (g : Nat) : Bool := s.serves g && g != f.val
  let others := (List.range 48).any fun g => s.fieldState g != 0 && g != f.val
  let empty := (sitesOf f).all fun t => allCtx.all fun c => (s.ctx t c).state == .empty
  if st = 0 then
    (s.modPower fun p => { p with queue := p.queue.erase f.val }).setFld (domCa (f.val + 1)) 27 27 0
  else if st = 5 then s
  else if others && !(serves 3 || serves 4) then s.configError domcmdCa
  else if st = 1 ∨ st = 2 ∨ st = 6 ∨ s.bit (domCa (f.val + 1)) 26 ∨ empty then s.startFreeze f
  else s.configError domcmdCa

/-- FREEZE of PD49 (R386). -/
def State.freezeEdge (s : State) : State :=
  let off := (List.range 48).all fun f => s.fieldState f == 0
  if s.domState 49 ≠ 7 ∨ !off ∨ s.fld optgateCa 47 0 ≠ 0 then s.configError domcmdCa
  else
    let s := s.wipeEdge
    (s.rind.power.queue.foldl (fun s f => s.setFld (domCa (f + 1)) 27 27 0) s).modPower fun p =>
      { p with queue := [], frozen := true }

/-- A write to PWR_DOMCMD (Table 16-7).
    DEDUCED: notes/assumptions/11. -/
def State.domcmdWrite (s : State) (v : Word) : State :=
  let op := bits v 18 16
  let d := bits v 5 0
  if 5 ≤ op ∨ bits v 13 12 = 3 ∨ d = 0 ∨ 49 < d then s.configError domcmdCa
  else if op = 0 then s
  else if d = 49 then (if op = 2 then s.freezeEdge else s.configError domcmdCa)
  else
    let f := fieldNo (d - 1)
    match op with
    | 1 => s.thaw f (v.getLsbD 8)
    | 2 => s.freeze f
    | 3 => s.continue_ f
    | _ => s.setFreq f (bits v 13 12)

/-- A command of PWR_DOMCMD as a register write, while PD0 is on. -/
def State.domCommand (s : State) (op dom x : Nat) : State :=
  if s.rind.pins.standby then s.domcmdWrite (BitVec.ofNat 64 (op <<< 16 + dom + x)) else s

/-- THAW (R373). -/
def execThaw (dom : Fin 64) (hold : Bool) (s : State) : Out := .next (s.domCommand 1 dom.val (if hold then 256 else 0))

/-- FREEZE (R385, R386). -/
def execFreeze (dom : Fin 64) (s : State) : Out := .next (s.domCommand 2 dom.val 0)

/-- CONTINUE (R376). -/
def execContinue (dom : Fin 64) (s : State) : Out := .next (s.domCommand 3 dom.val 0)

/-- SETFREQ (R379). -/
def execSetfreq (dom : Fin 64) (freq : Fin 4) (s : State) : Out := .next (s.domCommand 4 dom.val (freq.val <<< 12))

/-! ### The thaw (R373–R378) -/

/-- QUEUED_THAW_START: the first queued THAW, 2 ms after the last ramp began (R377). -/
def execQueuedThawStart (s : State) : Out :=
  match s.rind.power.queue with
  | [] => .next s
  | f :: rest =>
    if !s.rampFree then .next s
    else .next ((s.modPower fun p => { p with queue := rest }).startRamp (fieldNo f))

/-- RAMP_END: the rail is up and the PLL locked; the field enters TEST, on its power-on values. -/
def execRampEnd (f : FieldNo) (s : State) : Out :=
  if s.fieldState f.val ≠ 1 then .next s
  else .next ((s.wipeField f).setField f 2)

/-- The epochs of a field's tiles and their copies loaded from the Rind's master copy (R153, R378). -/
def State.loadEpochs (s : State) (f : FieldNo) : State :=
  let s := s.epochs.foldl (fun (s : State) p => s.applyNotice f p.1 (p.2.setWidth 16)) s
  let s := (sitesOf f).foldl (fun s t =>
    if t.site.val < 40 then s.setFld (spdEpochCa t) 15 0 (tget 0 s.epochs (40 * f.val + t.site.val)).toNat else s) s
  let ns := (s.fieldSt f.val).notices
  let s := s.modField f.val fun x => { x with notices := [] }
  ns.foldl (fun s n => (s.applyNotice f n.1 n.2).noticeApplied n.1 f.val n.2) s

/-- The sites that failed BIST or self-test marked bad, their logical tiles without EN, and the defects reported. -/
def State.markBad (s : State) (f : FieldNo) (bad : BitVec 42) : State :=
  (sitesOf f).foldl (fun s t =>
    if bad.getLsbD t.site.val then
      let s := s.setFld (fcCa f 0 0x1200) t.site.val t.site.val 1
      let s := (List.range 40).foldl (fun s k =>
        if s.fld (tilemapCa f k) 5 0 = t.site.val then s.setFld (tilemapCa f k) 7 7 0 else s) s
      s.post 0x0D none none f.val 0x30 (BitVec.ofNat 64 (t.site.val <<< 32))
    else s) s

/-- The number of sites in a mask. -/
def countBits (m : BitVec 42) : Nat := (List.range 42).foldl (fun n i => if m.getLsbD i then n + 1 else n) 0

/-- TEST_END (R373, R376, R378): the tests end; `bad` are the sites that failed them. -/
def execTestEnd (f : FieldNo) (bad : BitVec 42) (s : State) : Out :=
  if s.fieldState f.val ≠ 2 then .next s
  else if 32 < countBits bad then .next ((s.markBad f bad).stageFailed f)
  else
    let s := (s.loadEpochs f).markBad f bad
    let s := ((s.setField f 3).setThrot f).meshOn f
    if s.rind.power.held.contains f.val then .next (s.setFld (domCa (f.val + 1)) 26 26 1)
    else .next (s.startCal f)

/-- STAGE_FAILED (R373): a stage of the thaw exceeds its bound or fails its test. -/
def execStageFailed (f : FieldNo) (s : State) : Out :=
  let st := s.fieldState f.val
  if st = 1 ∨ st = 2 ∨ (st = 3 ∧ !s.bit (domCa (f.val + 1)) 26) then .next (s.stageFailed f) else .next s

/-- LINK_CALIBRATION_END (R375): the calibration of an express link ends. -/
def execLinkCalibrationEnd (f : FieldNo) (link : Fin 14) (good : Bool) (s : State) : Out :=
  if !s.serves f.val || s.fld (jetLinkCa f link.val) 2 0 != 1 then .next s
  else if good then .next (s.changeLinks fun s => s.setLink f link.val 2).checkCal
  else .next ((s.changeLinks fun s => s.setLink f link.val 3).checkCal.linkFailure f link.val)

/-- CELLAR_TRAINING_END (R201, R375). -/
def execCellarTrainingEnd (f : FieldNo) (good : Bool) (s : State) : Out :=
  if !s.serves f.val || s.fld (celStatusCa f) 2 0 != 1 then .next s
  else .next ((s.setFld (celStatusCa f) 2 0 (if good then 2 else 3)).setFld (domCa (f.val + 1)) 24 24 1)

/-- FIELD_FULL (R375): calibration and training are complete; the clock switches to FREQ. -/
def execFieldFull (f : FieldNo) (s : State) : Out :=
  let d := domCa (f.val + 1)
  if s.fieldState f.val ≠ 3 ∨ s.bit d 26 ∨ !s.bit d 25 ∨ !s.bit d 24 then .next s
  else
    let s := s.setField f 4
    let s := if s.fld d 33 32 = tget 0 s.rind.power.clock f.val then s
      else s.modPower fun p => { p with stopped := f.val :: p.stopped.erase f.val }
    .next (s.pwrEvent 0x08 (f.val + 1) (s.tj f))

/-- CLOCK_RESTART (R379): the clock runs again, at the new setting. -/
def execClockRestart (f : FieldNo) (s : State) : Out :=
  if !s.rind.power.stopped.contains f.val then .next s
  else
    let q := s.fld (domCa (f.val + 1)) 33 32
    .next (s.modPower fun p => { p with stopped := p.stopped.erase f.val, clock := tset 0 p.clock f.val q })

/-! ### Freezing (R385) -/

/-- Whether a FREEZING field has completed its write-back and its recalls. -/
def State.freezeSettled (s : State) (f : FieldNo) : Bool :=
  let v := (s.fieldSt f.val).vat
  let h := (s.fieldSt f.val).home
  v.lines.isEmpty && v.miss.isEmpty && v.wb.isEmpty && v.flush.isNone && h.slots.isEmpty && (s.fieldSt f.val).cellar.ops.isEmpty && decide (Home.dirUse h = 0)

/-- FREEZE_DONE (R385). -/
def execFreezeDone (f : FieldNo) (s : State) : Out :=
  if s.fieldState f.val ≠ 5 ∨ !s.freezeSettled f then .next s else .next (s.railOff f)

/-- FREEZE_OVERRUN (R385). -/
def execFreezeOverrun (f : FieldNo) (s : State) : Out :=
  if s.fieldState f.val ≠ 5 then .next s else .next (s.emergency f 0x07)

/-! ### The power cap (R382) -/

/-- L changed: counted, recorded when it leaves 0 or returns to it, and in force in every serving field. -/
def State.setCap (s : State) (l : Nat) : State :=
  let old := s.capLevel
  if l = old then s
  else
    let s := ((s.setFld pwrMeasCa 3 0 l).modPower fun p => { p with capAge := 0 }).telRind 0 1
    let s := if old = 0 ∨ l = 0 then s.pwrEvent 0x06 0 (s.fld pwrMeasCa 31 16 / 10) else s
    s.setThrots

/-- The effective cap C, in watts. -/
def State.capWatts (s : State) : Nat :=
  let c := min 42000 (800 * s.fld pwrMeasCa 63 48 / 1000)
  if s.bit pwrCtlCa 63 then min c (s.fld pwrCtlCa 47 32) else c

/-- The mean of a list of numbers. -/
def mean (l : List Nat) : Nat := if l.isEmpty then 0 else l.foldl (· + ·) 0 / l.length

/-- POWER_SAMPLE: the input voltage in mV and current in 0.1 A are sampled, and `e12` µJ have been drawn from the
    12 V input since the last sample (R382).
    DEDUCED: notes/assumptions/103. -/
def execPowerSample (mv ia e12 : BitVec 16) (s : State) : Out :=
  if !s.rind.pins.standby then .next s
  else
    let w := mv.toNat * ia.toNat / 10000
    let l := ((mv.toNat, ia.toNat, w) :: s.rind.power.samples).take 100
    let s := s.modPower fun p => { p with samples := l, capAge := min (p.capAge + 1) 100 }
    let s := s.setFld pwrMeasCa 63 48 (mean (l.map fun x => x.1))
    let s := s.setFld pwrMeasCa 47 32 (mean (l.map fun x => x.2.1))
    let s := s.setFld pwrMeasCa 31 16 (mean (l.map fun x => x.2.2))
    let s := s.setReg energyCa (s.reg energyCa + BitVec.ofNat 64 (mv.toNat * ia.toNat / 1000 + e12.toNat))
    let c := s.capWatts
    .next (if c + c / 20 < w ∨ 8000 < ia.toNat then s.setCap (min (s.capLevel + 4) 12) else s)

/-- CAP_ADJUST: the adjustment of every 100 µs (R382). -/
def execCapAdjust (s : State) : Out :=
  let p := s.fld pwrMeasCa 31 16
  let c := s.capWatts
  let h := 100 * s.fld pwrCtlCa 23 16
  let l := s.capLevel
  if !s.rind.pins.standby then .next s
  else if c < p then .next (s.setCap (min (l + 1) 12))
  else if p + h < c ∧ 100 ≤ s.rind.power.capAge ∧ 0 < l then .next (s.setCap (l - 1))
  else .next s

/-- A write to PWR_CTL (R28): clearing CAPEN is rejected while a field has FREQ 1.10 GHz. -/
def State.pwrCtlWrite (s : State) (ca : Nat) (g : RegGroup) (v : Word) : State :=
  if s.bit ca 63 && !v.getLsbD 63 && (List.range 48).any (fun f => s.fld (domCa (f + 1)) 33 32 == 2) then s.configError ca
  else s.plainWrite ca g v

/-! ### Thermal limits (R383) -/

/-- A threshold crossed: the sensor event of R420, where a receiver is named. -/
def State.sensorEvent (s : State) (sensor value : Nat) : State :=
  if s.rind.side.receiver.isNone then s else s.modSide fun x => { x with events := x.events ++ [(sensor, value, 0)] }

/-- The thermal level of a field given. -/
def State.setTherm (s : State) (f : FieldNo) (l : Nat) : State :=
  (s.modPower fun p => { p with therm := tset 0 p.therm f.val l, cool := tset 0 p.cool f.val 0 }).setThrot f

/-- The hottest of a field's junction sensors, in whole degrees (R416). -/
def State.hottest (s : State) (f : FieldNo) : Nat :=
  (List.range 8).foldl (fun m i => max m (signed 16 (s.fld (fcCa f 3 (0x400 + 8 * i)) 15 0) / 16).toNat) 0

/-- THERMAL_READ: the field controller reports its hottest junction in TJ, and the Rind acts on it (R383).
    DEDUCED: notes/assumptions/104. -/
def execThermalRead (f : FieldNo) (s : State) : Out :=
  let st := s.fieldState f.val
  let t := min 255 (s.hottest f)
  if st = 0 then .next s
  else
    let s := s.setFld (domCa (f.val + 1)) 47 40 t
    if st ≠ 3 ∧ st ≠ 4 ∧ st ≠ 5 then .next s
    else if 105 ≤ t then .next ((s.emergency f 0x05).sensorEvent (0x100 + f.val) t)
    else if st = 5 then .next s
    else
      let warm := s.rind.power.warm.contains f.val
      let above := decide (s.fld pwrCtlCa 7 0 < t)
      let s := if above && !warm then ((s.pwrEvent 0x03 (f.val + 1) t).sensorEvent (0x100 + f.val) t).modPower fun p => { p with warm := f.val :: p.warm }
        else if above then s else s.modPower fun p => { p with warm := p.warm.erase f.val }
      let lim := s.fld pwrCtlCa 15 8
      let l := tget 0 s.rind.power.therm f.val
      if lim < t then
        let s := if l = 0 then (s.pwrEvent 0x04 (f.val + 1) t).sensorEvent (0x100 + f.val) t else s
        .next (s.setTherm f (min (l + 1) 12))
      else if t + 3 < lim ∧ 0 < l then
        let n := tget 0 s.rind.power.cool f.val + 1
        if 10 ≤ n then .next (s.setTherm f (l - 1))
        else .next (s.modPower fun p => { p with cool := tset 0 p.cool f.val n })
      else .next (s.modPower fun p => { p with cool := tset 0 p.cool f.val 0 })

/-! ### Inputs and pins (R372, R384, R428, R430–R433) -/

/-- INPUT_LOSS: the input voltage, in mV, has been below 46 V or above 59 V for 100 µs (R384, R428).
    DEDUCED: notes/assumptions/101. -/
def execInputLoss (mv : BitVec 16) (s : State) : Out :=
  if !s.rind.pins.standby || decide (46000 ≤ mv.toNat ∧ mv.toNat ≤ 59000) then .next s
  else
    let p := s.fld pwrMeasCa 31 16 / 10
    let s := (List.finRange 48).foldl (fun s f => if s.fieldState f.val = 0 then s else s.railOff f) s
    let s := s.rind.power.queue.foldl (fun s f => s.setFld (domCa (f + 1)) 27 27 0) s
    let s := (s.wipeEdge.modPower fun p => { p with queue := [] }).modPins fun p => { p with main := false, alert := true }
    .next ((s.pwrEvent 0x09 0 p).sensorEvent 0x10 mv.toNat)

/-- MAIN_POWER_IN_RANGE: main power has been in range for 20 ms; PD49 is ramped, the ports start and power-good rises
    (R372). A PD49 frozen by command waits for a cold reset (R386). -/
def execMainPowerInRange (s : State) : Out :=
  let p := s.rind.pins
  if !p.standby || p.reset || p.main then .next s
  else
    let s := s.modPins fun p => { p with main := true }
    if s.rind.power.frozen then .next s
    else .next ((s.modPins fun p => { p with pwrgd := true, alert := false }).setFld (domCa 49) 3 0 7)

/-- STANDBY_APPLY: standby power is applied: a cold reset (R372, R430, R434). -/
def execStandbyApply (straps : BitVec 3) (s : State) : Out :=
  if s.rind.pins.standby then .next s else .next (s.coldReset straps false false)

/-- STANDBY_LOSS: every domain is removed at once and all state is lost (R430).
    DEDUCED: notes/assumptions/14. -/
def execStandbyLoss (s : State) : Out :=
  .next (((s.coldReset s.rind.pins.straps false false).setFld (domCa 0) 3 0 0).modPins fun p => { p with standby := false })

/-- RESET_PIN: RESET# has been low for 10 µs (R433). -/
def execResetPin (s : State) : Out :=
  if s.rind.pins.standby then .next (s.coldReset s.rind.pins.straps false true) else .next s

/-- RESET_PIN_RELEASE: RESET# rises: the straps are sampled and the core starts (R433, R434). -/
def execResetPinRelease (straps : BitVec 3) (s : State) : Out :=
  if s.rind.pins.reset then .next (s.modPins fun p => { p with reset := false, straps := straps }) else .next s

/-! ### Optical sub-gates (R387) -/

/-- The gust links of an engine whose far ends are on. -/
def State.gustsOf (s : State) (f : FieldNo) : List (Nat × FieldNo × Nat) :=
  (List.range 14).filterMap fun l => match linkPeer f l with
    | some (g, m) => if s.engineOn g.val then some (l, g, m) else none
    | none => none

/-- A gust link's STATE at both its ends. -/
def State.setGust (s : State) (f : FieldNo) (l : Nat) (g : FieldNo) (m st : Nat) : State :=
  (s.setFld (gustCa f l) 2 0 st).setFld (gustCa g m) 2 0 st

/-- An engine's sub-gate switched off. -/
def State.engineOff (s : State) (f : FieldNo) : State :=
  let s := (s.gustsOf f).foldl (fun s l => s.setGust f l.1 l.2.1 l.2.2 0) s
  let s := (s.wipeEngine f).setFld optstatCa f.val f.val 0
  s.modPower fun p => { p with training := p.training.erase f.val }

/-- A write to EDGE_OPTGATE (R387). -/
def State.optgateWrite (s : State) (ca : Nat) (v : Word) : State :=
  let old := s.reg ca
  let new := BitVec.ofNat 64 (bits v 47 0)
  let roles := (List.finRange 96).any fun h => s.hpRole h != 0
  if (old &&& ~~~new) ≠ 0 ∧ roles then s.configError ca
  else
    let offs := (List.finRange 48).filter fun f => old.getLsbD f.val && !new.getLsbD f.val
    let ons := (List.finRange 48).filter fun f => !old.getLsbD f.val && new.getLsbD f.val
    let s := (offs.foldl (fun s f => s.engineOff f) s).setReg ca new
    ons.foldl (fun s f =>
      let s := (s.gustsOf f).foldl (fun s l => s.setGust f l.1 l.2.1 l.2.2 1) s
      s.modPower fun p => { p with training := p.training ++ [f.val] }) s

/-- GUST_CALIBRATION_END: the gust links of a newly powered engine have calibrated; `failed` are those that failed (R387). -/
def execGustCalibrationEnd (f : FieldNo) (failed : List (Fin 14)) (s : State) : Out :=
  if !s.rind.power.training.contains f.val || !s.engineOn f.val then .next s
  else
    let s := (s.gustsOf f).foldl (fun s l =>
      if s.fld (gustCa f l.1) 2 0 ≠ 1 then s
      else if failed.any fun x => x.val == l.1 then
        (s.setGust f l.1 l.2.1 l.2.2 3).postEng 0x0E f none (2 <<< 40 + l.1 <<< 32)
      else s.setGust f l.1 l.2.1 l.2.2 2) s
    let s := s.modPower fun p => { p with training := p.training.erase f.val }
    .next (s.setFld optstatCa f.val f.val 1)

/-! ### Spare lanes of gust links (R391) -/

def gsparecmdCa (f : FieldNo) : Nat := engineCa f 0 0x200

/-- A write to ISO_GSPARECMD (R173, R391). -/
def State.gsparecmdWrite (s : State) (f : FieldNo) (ca : Nat) (v : Word) : State :=
  let l := bits v 44 40
  let d := v.getLsbD 39
  let b := bits v 37 30
  let x := s.engine f
  let used := x.spared.contains (l, d, b) || x.switches.any fun w => w.link == l && w.dir == d && w.bundle == b
  if s.bit ca 63 || (linkPeer f l).isNone || decide (40 ≤ b) || used then s.configError ca
  else (s.setFld ca 63 63 1).modEngine f fun x => { x with switches := x.switches ++ [⟨l, d, b, bits v 29 26, true⟩] }

/-- GSPARECMD (R391). -/
def execGsparecmd (f : FieldNo) (link : Fin 32) (dir : Bool) (bundle : Byte) (lane : Fin 16) (s : State) : Out :=
  let v := link.val <<< 40 + (if dir then 1 <<< 39 else 0) + bundle.toNat <<< 30 + lane.val <<< 26
  if s.answers (gsparecmdCa f) then .next (s.gsparecmdWrite f (gsparecmdCa f) (BitVec.ofNat 64 v)) else .next (s.caError (gsparecmdCa f))

/-- A switch of a gust link's bundle done. -/
def State.gustSwitched (s : State) (f : FieldNo) (w : Switch) : State :=
  let s := s.setFld (gustCa f w.link) 15 8 (s.fld (gustCa f w.link) 15 8 + 1)
  let s := match linkPeer f w.link with
    | some (g, m) => s.setFld (gustCa g m) 15 8 (s.fld (gustCa g m) 15 8 + 1)
    | none => s
  (s.modEngine f fun x => { x with spared := x.spared ++ [(w.link, w.dir, w.bundle)] }).setFld (gsparecmdCa f) 63 63 0

/-- SPARE_SWITCH_COMPLETE (R173, R391): the spare has trained and both ends switch to it; n is the number of the switch among
    those in progress at the station, or at the engine for a gust link. -/
def execSpareSwitchComplete (f : FieldNo) (gust : Bool) (n : Nat) (s : State) : Out :=
  if gust then
    match (s.engine f).switches[n]? with
    | none => .next s
    | some w => .next ((s.modEngine f fun x => { x with switches := x.switches.eraseIdx n }).gustSwitched f w)
  else
    match (s.fieldSt f.val).switches[n]? with
    | none => .next s
    | some w => .next ((s.modField f.val fun x => { x with switches := x.switches.eraseIdx n }).switched f w)

/-! ### The smallest service (R388) -/

/-- Whether the module gives service: PD0 and PD49 are ON, a port is in link-up, and field 3 or field 4 serves with at least 8 logical
    tiles enabled in its map. -/
def State.givesService (s : State) : Bool :=
  s.domState 0 == 7 && s.domState 49 == 7 && (s.rind.pins.link0 || s.rind.pins.link1) &&
    ([3, 4] : List FieldNo).any fun f => s.serves f.val && decide (8 ≤ (List.range 40).countP fun k => s.bit (tilemapCa f k) 7)

/-! ### Site gating (R381) -/

/-- SITE_GATE: an idle tile site is gated again after 1,024 cycles without an access. -/
def execSiteGate (t : Tile) (s : State) : Out :=
  let idle := allCtx.all (fun c => (s.ctx t c).state == .empty && !s.bit (tileCa t 0x0A (0x100 + 8 * c.val)) 63) &&
    (List.finRange 16).all fun k => !s.bit (shardCa t k 0) 63 && !s.bit (srcCa t k 0) 63
  if s.serves t.field.val && idle then .next (s.modTile t fun x => { x with gated := true }) else .next s

end Sys2Proof.Machine
end

