-- ==== Sys2Proof/Machine/Telemetry.lean ====
section
/-! DEFINITION. Counter snapshots, time copies, lane counts, sensors and the sideband (R412–R420). -/

namespace Sys2Proof.Machine

/-! ### Snapshots (R414) -/

/-- The base of the block that a control address lies in. -/
def blockBase (ca : Nat) : Nat := ca - ca % 1048576

/-- The number of TEL_CNT counters of the TEL_ block at a base. -/
def telCounters (base : Nat) : Nat :=
  let p := caParts base
  match (siteKind p.field p.site).bind fun k => blockRegs k p.block with
  | some gs => match gs.find? fun g => g.base == 0x100 && g.tag == .counter with
    | some g => (match g.dims with | [(_, n)] => n | _ => 0)
    | none => 0
  | none => 0

/-- A snapshot of the TEL_ block at a base. -/
def State.snapshot (s : State) (base : Nat) : State :=
  let s := (List.range (telCounters base)).foldl (fun (s : State) k => s.setReg (base + 0x900 + 8 * k) (s.reg (base + 0x100 + 8 * k))) s
  s.setReg (base + 8) (s.timeCopy (caParts base).field)

/-- A write to TEL_SNAP. -/
def State.snapWrite (s : State) (ca : Nat) (v : Word) : State := if v.getLsbD 0 then s.snapshot (blockBase ca) else s

/-- The bases of every TEL_ block of the module. -/
def telBlocks : List Nat :=
  rindCa 2 0 :: ((List.finRange 48).map fun f =>
    [fcCa f 3 0, vatCa f 2 0, cellarCa f 4 0, engineCa f 4 0, stationCa f 2 0] ++ (sitesOf f).map fun t => tileCa t 0x0B 0).flatten

def snapatCa : Nat := rindCa 2 0x20

/-- A write to TEL_SNAPAT: every powered TEL_ block is armed, or all are disarmed (R414). -/
def State.snapatWrite (s : State) (v : Word) : State :=
  (s.setReg snapatCa v).modRind fun x => { x with armed := if v = 0 then [] else telBlocks.filter fun b => s.powered b }

/-- SNAPSHOT_ARM (R414). -/
def execSnapshotArm (t : Word) (s : State) : Out := .next (if s.rind.pins.standby then s.snapatWrite t else s)

/-- Whether the clock of a TEL_ block at a base runs: that of a field's block stops with the field's (R379), an optical engine's and
    the Rind's never. -/
def State.telClocked (s : State) (base : Nat) : Bool :=
  let p := caParts base
  !(decide (p.field < 48) && p.site != 0x33 && s.rind.power.stopped.contains p.field)

/-- ARMED_SNAPSHOT: the armed TEL_ block at a control address takes its snapshot in the first cycle whose time copy has reached the
    armed time (R414). -/
def execArmedSnapshot (ca : Ca) (s : State) : Out :=
  let b := blockBase ca.toNat
  if s.rind.armed.contains b && s.telClocked b && decide ((s.reg snapatCa).toNat ≤ (s.timeCopy (caParts b).field).toNat) then
    .next ((s.snapshot b).modRind fun x => { x with armed := x.armed.erase b })
  else .next s

/-! ### Time copies and lane counts (R413, R415) -/

/-- TIME_COPY_SET: the Rind sets the time copy of every powered field from ISO_TIME (R413). -/
def execTimeCopySet (s : State) : Out :=
  let now := s.now
  .next { s with times := (List.range 48).foldl (fun (m : Table Word) f => if s.fieldState f = 0 ∨ s.fieldState f = 6 then m else tset 0 m f now) s.times }

def laneselCa (f : FieldNo) : Nat := stationCa f 2 0x800

/-- A write to TEL_LANESEL: a link that the station does not own and a bundle that no link has are reserved codes, which their
    fields do not take; a bundle that the link named does not have makes a reserved combination (R7, R172). CLR acts on the
    selection that the write leaves.
    DEDUCED: notes/assumptions/112. -/
def State.laneselWrite (s : State) (f : FieldNo) (ca : Nat) (g : RegGroup) (v : Word) : State :=
  let l := bits v 20 16
  let b := bits v 7 0
  if ownsLink f l && decide (linkBundles l ≤ b ∧ b < 195) then s.configError ca
  else
    let v := if ownsLink f l then v else setBits v 20 16 (s.fld ca 20 16)
    let s := s.setReg ca (storeFields g.fields (s.reg ca) v)
    let s := if ownsLink f l && decide (b < 195) then s else s.configError ca
    let sel := s.reg ca
    if v.getLsbD 63 then
      s.modField f.val fun x => { x with lanes := (List.range 17).foldl (fun (m : Table Nat) i =>
        tset 0 m (laneKey (bits sel 20 16) (sel.getLsbD 15) (bits sel 7 0) i) 0) x.lanes }
    else s

/-- TEL_LANECNT_w: the counts of four lanes of the selected bundle. -/
def State.laneCounts (s : State) (f : FieldNo) (w : Nat) : Word :=
  let sel := s.reg (laneselCa f)
  BitVec.ofNat 64 ((List.range 4).foldl (fun n i =>
    let lane := 4 * w + i
    n + (if lane < 17 then tget 0 (s.fieldSt f.val).lanes (laneKey (bits sel 20 16) (sel.getLsbD 15) (bits sel 7 0) lane) else 0) <<< (16 * i)) 0)

/-! ### Sensors (R416) -/

/-- TEL_SENS_s of a field's controller, or of the Rind. -/
def sensCa (place : Option FieldNo) (n : Nat) : Nat :=
  match place with
  | some f => fcCa f 3 (0x400 + 8 * n)
  | none => rindCa 2 (0x400 + 8 * n)

/-- The unit of telemetry that a reading of a cellar's dies takes: its port's arbiter grants it to requester 4 (Tables 9-1, 18-2).
    The other sensors take none. -/
def State.sensorUnit (s : State) (place : Option FieldNo) (n : Nat) : Option State :=
  match place with
  | some f => if n = 11 then s.arbTake (arbBase (.cellar f)) 4 else some s
  | none => some s

/-- SENSOR_UPDATE: a new reading, and the highest since PEAK was last read (R416). -/
def execSensorUpdate (place : Option FieldNo) (n : Fin 12) (v : BitVec 16) (s : State) : Out :=
  let ca := sensCa place n.val
  if (place.isNone && decide (6 ≤ n.val)) || !s.powered ca then .next s
  else match s.sensorUnit place n.val with
  | none => .next s
  | some s =>
    let w := s.reg ca
    let more := !s.rind.peaks.contains ca || decide (signed 16 (bits w 47 32) < signed 16 v.toNat)
    let w := setBits (setBits w 63 63 1) 15 0 v.toNat
    let w := if more then setBits w 47 32 v.toNat else w
    .next ((s.setReg ca w).modRind fun x => { x with peaks := if x.peaks.contains ca then x.peaks else ca :: x.peaks })

/-! ### Sideband (R419, R420) -/

/-- Whether the sideband answers (R369, R419, R433). -/
def State.sideOn (s : State) : Bool := s.rind.pins.standby && !s.rind.pins.reset && !s.rind.fw.restart

/-- The module's address on the SMBus, by the straps as last sampled: ADDR2, ADDR1, ADDR0 (R434). -/
def State.smbusAddress (s : State) : Nat := 0x60 + s.rind.pins.straps.toNat

/-- An answer on the sideband; none while it is silent. -/
def State.sideAnswer (s : State) (a : SideAns) : State :=
  if s.sideOn then s.modSide fun x => { x with sent := x.sent ++ [a] } else s

/-- SET_ENDPOINT_ID. -/
def execSetEndpointId (e : Byte) (s : State) : Out :=
  .next (if s.sideOn then (s.modSide fun x => { x with eid := e }).sideAnswer (.eid e) else s)

/-- GET_ENDPOINT_ID. -/
def execGetEndpointId (s : State) : Out := .next (s.sideAnswer (.eid s.rind.side.eid))

/-- GET_ENDPOINT_UUID. -/
def execGetEndpointUuid (s : State) : Out := .next (s.sideAnswer (.uuid Config.uuid))

/-- GET_MCTP_VERSION_SUPPORT. -/
def execGetMctpVersionSupport (s : State) : Out := .next (s.sideAnswer (.version Config.mctpVersion))

/-- GET_MESSAGE_TYPE_SUPPORT: MCTP control and PLDM (PRESUMED, notes/assumptions/63). -/
def execGetMessageTypeSupport (s : State) : Out := .next (s.sideAnswer (.types [0, 1]))

/-- GETTID. -/
def execGettid (s : State) : Out := .next (s.sideAnswer (.tid Config.terminusId))

/-- GETPLDMVERSION: of the PLDM types 0 and 2. -/
def execGetpldmversion (ty : Byte) (s : State) : Out :=
  .next (s.sideAnswer (if ty = 0 ∨ ty = 2 then .version Config.pldmVersion else .unsupported))

/-- GETPLDMTYPES. -/
def execGetpldmtypes (s : State) : Out := .next (s.sideAnswer (.types [0, 2]))

/-- GETPLDMCOMMANDS: the commands of a PLDM type, by their codes (PRESUMED, notes/assumptions/63). -/
def execGetpldmcommands (ty : Byte) (s : State) : Out :=
  .next (s.sideAnswer (if ty = 0 then .commands [2, 3, 4, 5] else if ty = 2 then .commands [4, 0x0A, 0x11, 0x21, 0x51] else .unsupported))

/-- The sensors of the PDR repository in order: their IDs, and 1 for a state sensor (Table 18-5). -/
def pdrs : List (Nat × Nat) :=
  (([1, 2, 3, 4, 5, 6, 0x10, 0x11, 0x12, 0x13, 0x14] : List Nat).map fun i => (i, 0)) ++
    ((List.range 48).map fun f => (0x100 + f, 0)) ++ ((List.range 50).map fun d => (0x200 + d, 1))

/-- GETPDR: the n-th record of the repository. -/
def execGetpdr (n : Byte) (s : State) : Out :=
  .next (s.sideAnswer (match pdrs[n.toNat]? with
    | some p => .pdr p.1 p.2 (if n.toNat + 1 < pdrs.length then n.toNat + 1 else 0)
    | none => .unsupported))

/-- The latest sample of a numeric sensor (Table 18-5). -/
def State.numericSensor (s : State) (id : Nat) : Option Nat :=
  if 1 ≤ id ∧ id ≤ 6 then some (s.fld (sensCa none (id - 1)) 15 0)
  else if id = 0x10 then some (s.fld pwrMeasCa 63 48)
  else if id = 0x11 then some (s.fld pwrMeasCa 47 32)
  else if id = 0x12 then some (s.fld pwrMeasCa 31 16)
  else if id = 0x13 then some ((s.reg energyCa).toNat / 1000000000 % 2 ^ 32)
  else if id = 0x14 then some s.capLevel
  else if 0x100 ≤ id ∧ id < 0x130 then some (s.fld (domCa (id - 0x100 + 1)) 47 40)
  else none

/-- GETSENSORREADING. -/
def execGetsensorreading (id : BitVec 16) (s : State) : Out :=
  .next (s.sideAnswer (match s.numericSensor id.toNat with | some v => .reading v | none => .unsupported))

/-- GETSTATESENSORREADINGS. -/
def execGetstatesensorreadings (id : BitVec 16) (s : State) : Out :=
  let d := id.toNat - 0x200
  .next (s.sideAnswer (if 0x200 ≤ id.toNat ∧ d < 50 then .states [s.domState d] else .unsupported))

/-- SETEVENTRECEIVER. -/
def execSeteventreceiver (e : Byte) (s : State) : Out :=
  .next (if s.sideOn then (s.modSide fun x => { x with receiver := some e }).sideAnswer .done else s)

/-- The first sensor event that has been sent a number of times satisfying a test, sent once more: forgotten when it is
    acknowledged, or unacknowledged for the fourth time (R420). -/
def State.sendEvent (s : State) (p : Nat → Bool) (acked : Bool) : State :=
  match s.rind.side.events.findIdx? fun e => p e.2.2 with
  | none => s
  | some i =>
    let e := s.rind.side.events.getD i (0, 0, 0)
    if !s.sideOn then s
    else
      let s := s.sideAnswer (.event e.1 e.2.1)
      let rest := if acked || decide (3 ≤ e.2.2) then s.rind.side.events.eraseIdx i else s.rind.side.events.set i (e.1, e.2.1, e.2.2 + 1)
      s.modSide fun x => { x with events := rest }

/-- PLATFORMEVENTMESSAGE: a sensor event is sent for the first time (R420). -/
def execPlatformeventmessage (acked : Bool) (s : State) : Out := .next (s.sendEvent (fun n => n == 0) acked)

/-- EVENT_MESSAGE_RETRY: an event not acknowledged is sent again, up to three times (R420). -/
def execEventMessageRetry (acked : Bool) (s : State) : Out := .next (s.sendEvent (fun n => decide (0 < n)) acked)

end Sys2Proof.Machine
end

