-- ==== Sys2Proof/Machine/Debug.lean ====
section
/-! DEFINITION. Keys and signatures (R361), the debug unlock (R422), halting and stepping (R423, R424), and the test port
but for its accesses (R421). -/

namespace Sys2Proof.Machine

/-! ### Keys (R361) -/

def keyCa (k : Nat) : Nat := rindCa 0 (0x40 + 8 * k)

/-- RIND_KEY_s: as fused, with later revocations. -/
def State.keyReg (s : State) (k : Nat) : Word :=
  if s.rind.revoked.contains k then setBits (setBits (Config.keyFuses k) 62 62 1) 56 56 0 else setBits (Config.keyFuses k) 56 56 0

/-- Whether a slot is present, unrevoked and marked: bit 60 for images, bit 61 for firmware. -/
def State.keyOk (s : State) (k use : Nat) : Bool :=
  let w := s.keyReg k
  w.getLsbD 63 && !w.getLsbD 62 && w.getLsbD use

/-- Whether a signature block over a message is accepted. -/
def State.sigOk (s : State) (use : Nat) (block msg : List Byte) : Bool :=
  let key := block.take 97
  let zero (a b : Nat) : Bool := ((block.drop a).take (b - a)).all fun x => x == 0
  ((List.range 4).any fun k => s.keyOk k use && Config.sha384 key == Config.keyHash k) && zero 97 128 && zero 224 256 &&
    Config.ecdsaVerify key (Config.sha384 msg) ((block.drop 128).take 96)

/-- A write to RIND_KEY_s: a revocation cannot be undone, nor leave no slot marked for firmware. -/
def State.keyWrite (s : State) (k : Nat) (ca : Nat) (v : Word) : State :=
  if !v.getLsbD 56 then s
  else if !(List.range 4).any fun j => j != k && s.keyOk j 61 then s.configError ca
  else s.modRind fun x => { x with revoked := if x.revoked.contains k then x.revoked else k :: x.revoked }

/-- REVOKE (R361). -/
def execRevoke (k : Fin 4) (s : State) : Out :=
  .next (if s.rind.pins.standby then s.keyWrite k.val (keyCa k.val) (1 <<< 56) else s)

/-! ### Unlock (R422) -/

def dbgUnlockCa : Nat := rindCa 3 0x08

/-- The debug level: 0 locked, 1 observe, 2 full. -/
def State.level (s : State) : Nat := s.fld dbgUnlockCa 9 8

/-- DBG_CHAL. -/
def State.challenge (s : State) : Word := Config.nonce s.rind.unlock.nonce

/-- The response block as written. -/
def State.respBytes (s : State) : List Byte :=
  ((List.range 32).map fun w => toBytes 8 (tget 0 s.rind.unlock.resp w).toNat).flatten

/-- Whether the response signs the challenge for a level. -/
def State.respOk (s : State) (level : Nat) : Bool :=
  s.sigOk 61 s.respBytes (toBytes 8 s.challenge.toNat ++ toBytes 8 Config.serial.toNat ++ toBytes 8 level)

/-- A halt left, or given up before it takes effect: stepping a context n bundles, or freely (R424). -/
def State.dbgResume (s : State) (t : Tile) (ctx n : Nat) : State :=
  if !(s.tile t).dbg.halted then s
  else s.modTile t fun x => { x with dbg := { halted := false, cause := 0, stepCtx := ctx, left := n, due := false, pass := true } }

/-- The tiles whose state is not as at reset. -/
def State.liveTiles (s : State) : List Tile := s.tiles.map fun p => tileOfKey p.1

/-- Debug back to locked: halted tiles released and injections cancelled (R422). -/
def State.relock (s : State) : State :=
  let s := s.liveTiles.foldl (fun s t => (s.dbgResume t 0 0).modTile t fun x => { x with mxe := { x.mxe with inject := (0, 0) } }) s
  s.setFld dbgUnlockCa 9 8 0

/-- A write to DBG_UNLOCK (Table 18-7).
    DEDUCED: notes/assumptions/110. -/
def State.dbgUnlockWrite (s : State) (v : Word) : State :=
  let go := v.getLsbD 0
  let req := bits v 2 1
  if req = 3 ∨ (go = true ∧ (req = 0 ∨ s.bit dbgUnlockCa 63 = true ∨ s.rind.unlock.locked = true)) then s.configError dbgUnlockCa
  else
    let s := if v.getLsbD 3 then s.relock else s
    if !go then s
    else
      let good := s.respOk req
      (s.setFld dbgUnlockCa 63 63 1).modUnlock fun u => { u with verify := some (good, req), nonce := u.nonce + 1 }

/-- DEBUG_UNLOCK: a write of GO (R422). -/
def execDebugUnlock (req : Fin 4) (s : State) : Out :=
  .next (if s.rind.pins.standby then s.dbgUnlockWrite (BitVec.ofNat 64 (2 * req.val + 1)) else s)

/-- RELOCK (R422). -/
def execRelock (s : State) : Out := .next (if s.rind.pins.standby then s.dbgUnlockWrite 8 else s)

/-- UNLOCK_VERIFY_DONE (R422): the level is raised, or the refusal counted; the third in a row locks GO out. -/
def execUnlockVerifyDone (s : State) : Out :=
  match s.rind.unlock.verify with
  | none => .next s
  | some (good, req) =>
    let s := (s.setFld dbgUnlockCa 63 63 0).modUnlock fun u => { u with verify := none }
    if good then .next (((s.setFld dbgUnlockCa 62 61 1).setFld dbgUnlockCa 60 56 0).setFld dbgUnlockCa 9 8 (max s.level req))
    else
      let n := min 31 (s.fld dbgUnlockCa 60 56 + 1)
      .next (((s.setFld dbgUnlockCa 62 61 2).setFld dbgUnlockCa 60 56 n).modUnlock fun u =>
        if 3 ≤ n then { u with locked := true, lockedAt := s.rind.ticks } else u)

/-- UNLOCK_LOCKOUT_END: 60 s after the refusal that locked GO out (R422). -/
def execUnlockLockoutEnd (s : State) : Out :=
  if s.rind.unlock.lockedAt + 60000000000 ≤ s.rind.ticks then .next (s.modUnlock fun u => { u with locked := false }) else .next s

/-! ### Halting and stepping (R423, R424) -/

def dbgTctlCa (t : Tile) : Nat := tileCa t 0x0C 0
def dbgFhaltCa (f : FieldNo) : Nat := fcCa f 4 0

/-- A write to DBG_TCTL (Table 18-8). -/
def State.dbgTctlWrite (s : State) (t : Tile) (v : Word) : State :=
  let halt := v.getLsbD 0
  let resume := v.getLsbD 1
  if halt && resume then s.configError (dbgTctlCa t)
  else if halt then (if (s.tile t).dbg.halted then s else s.dbgHalt t 1)
  else if resume && TileSt.dbgHalted (s.tile t) then s.dbgResume t (bits v 17 16) (bits v 47 32)
  else s

/-- A write to DBG_FHALT (R424).
    DEDUCED: notes/assumptions/111. -/
def State.dbgFhaltWrite (s : State) (f : FieldNo) (v : Word) : State :=
  (sitesOf f).foldl (fun s t =>
    if v.getLsbD 63 then (if TileSt.dbgHalted (s.tile t) then s.dbgResume t 0 0 else s)
    else if v.getLsbD t.site.val && !(s.tile t).dbg.halted then s.dbgHalt t 1
    else s) s

/-- A debug command through a register of a block, as its power and the debug level admit: halting and stepping need
    observe (R22, R422). -/
def State.dbgCommand (s : State) (ca level : Nat) (f : State → State) : State :=
  if !s.answers ca then s.caError ca
  else if s.level < level then s.configError ca
  else f s

/-- HALT (R423). -/
def execHalt (t : Tile) (s : State) : Out := .next (s.dbgCommand (dbgTctlCa t) 1 fun s => s.dbgTctlWrite t 1)

/-- DEBUG_RESUME (R424). -/
def execDebugResume (t : Tile) (ctx : CtxNo) (step : BitVec 16) (s : State) : Out :=
  .next (s.dbgCommand (dbgTctlCa t) 1 fun s => s.dbgTctlWrite t (BitVec.ofNat 64 (step.toNat <<< 32 + ctx.val <<< 16 + 2)))

/-- STEP_COMPLETE: the stepped context has issued its bundles (R424). -/
def execStepComplete (t : Tile) (s : State) : Out :=
  if !(s.tile t).dbg.due || !s.clocked t.field.val then .next s
  else .next ((s.dbgHalt t 3).modTile t fun x => { x with dbg := { x.dbg with due := false } })

/-- BREAKPOINT: the current context would issue the bundle at an enabled breakpoint (R424). -/
def execBreakpoint (t : Tile) (s : State) : Out :=
  match s.actor t with
  | none => .next s
  | some c =>
    let x := s.ctx t c
    if s.clocked t.field.val && x.state == .running && x.wait == .no && s.breakHit t c then .next (s.dbgHalt t 2) else .next s

/-- FIELD_HALT (R424). -/
def execFieldHalt (f : FieldNo) (sites : BitVec 42) (s : State) : Out :=
  .next (s.dbgCommand (dbgFhaltCa f) 1 fun s => s.dbgFhaltWrite f (sites.setWidth 64))

/-- FIELD_RESUME (R424). -/
def execFieldResume (f : FieldNo) (s : State) : Out :=
  .next (s.dbgCommand (dbgFhaltCa f) 1 fun s => s.dbgFhaltWrite f (1 <<< 63))

/-! ### The test port (R421) -/

/-- Whether the test port responds (R433). -/
def State.jtagOn (s : State) : Bool := s.rind.pins.standby && !s.rind.pins.reset

/-- The pins of the first n cells of the boundary register, as sampled. -/
def boundary (n : Nat) : BitVec 112 :=
  BitVec.ofNat 112 ((List.range n).foldl (fun v i => if Config.boundaryPin i then v + 2 ^ i else v) 0)

/-- IDCODE. -/
def idcode : BitVec 112 := BitVec.ofNat 112 ((Config.stepping.toNat % 16) <<< 28 + 0x0048 <<< 12 + 0x2B9 <<< 1 + 1)

/-- An instruction of the test port selected, with the register it captures. -/
def State.jtagSelect (s : State) (ir : Byte) (dr : BitVec 112) : State :=
  if s.jtagOn then s.modJtag fun j => { j with ir := ir, dr := dr, driven := false } else s

/-- EXTEST: only while main power is absent; otherwise it acts as BYPASS (DEDUCED, notes/assumptions/64). -/
def execExtest (cells : List Bool) (s : State) : Out :=
  if s.rind.pins.main then .next (s.jtagSelect 0xFF 0)
  else if !s.jtagOn then .next s
  else .next (s.modJtag fun _ => { ir := 0, dr := boundary cells.length, latch := cells, driven := true })

/-- IDCODE. -/
def execIdcode (s : State) : Out := .next (s.jtagSelect 1 idcode)

/-- SAMPLE/PRELOAD: the pins are sampled and the cells preloaded. -/
def execSamplePreload (cells : List Bool) (s : State) : Out :=
  .next (if s.jtagOn then (s.jtagSelect 2 (boundary cells.length)).modJtag fun j => { j with latch := cells } else s)

/-- BYPASS. -/
def execBypass (s : State) : Out := .next (s.jtagSelect 0xFF 0)

end Sys2Proof.Machine
end

