-- ==== Sys2Proof/Machine/Queues.lean ====
section
/-! DEFINITION. The registers of the RIND_ block that have rules of their own (R344–R347, R352, R369), the doorbells and the
firmware. -/

namespace Sys2Proof.Machine

/-! ### Data windows and function domains (R344, R345) -/

/-- RIND_DWIN_f_i. -/
def dwinCa (f i : Nat) : Nat := rindCa 0 (0x1000 + 0x80 * f + 8 * i)

/-- A write to RIND_DWIN_f_i: a VF has four windows, which name the Cave or a logical scratchpad window (R344). -/
def State.dwinWrite (s : State) (f i : Nat) (ca : Nat) (g : RegGroup) (v : Word) : State :=
  let ok := bits v 55 54 == 0 || (bits v 55 53 == 2 && v.getLsbD 37)
  if 1 ≤ f ∧ 4 ≤ i then s
  else if 1 ≤ f ∧ v.getLsbD 63 ∧ !ok then s.configError ca
  else s.plainWrite ca g v

/-- Whether some queue of a function has EN = 1. -/
def State.queuesOn (s : State) (func : Nat) : Bool :=
  (List.range 256).any fun q => s.bit (queueCa q 0) 63 && s.queueFunc q == func

def funcjobCa : Nat := rindCa 0 0x10

/-- The job domain that a RIND_FUNCJOB value gives a function. -/
def funcJobIn (v : Word) (f : Nat) : Nat := bits v (4 * f + 1) (4 * f)

/-- A write to RIND_FUNCJOB (R345). -/
def State.funcjobWrite (s : State) (ca : Nat) (g : RegGroup) (v : Word) : State :=
  let changed := (List.range 5).filter fun f => funcJobIn v f != funcJobIn (s.reg ca) f
  let twice := (List.range 4).any fun a => (List.range 4).any fun b => a != b && funcJobIn v (a + 1) == funcJobIn v (b + 1)
  if s.rind.pcie.vfEnable || changed.any (fun f => s.queuesOn f) || twice then s.configError ca else s.plainWrite ca g v

/-! ### Queues (R346, R347) -/

/-- The MSI-X vectors of a function (R337). -/
def vectorsOf (func : Nat) : Nat := if func = 0 then 1024 else if func ≤ 4 then 256 else 0

/-- Whether word 0 may set EN in queue q (R346).
    DEDUCED: notes/assumptions/113. -/
def queueOk (q : Nat) (v : Word) : Bool :=
  let f := bits v 62 60
  decide (f ≤ 4 ∧ (f = 0 ∨ q / 64 = f - 1) ∧ bits v 51 41 < vectorsOf f ∧ 4 ≤ bits v 59 56 ∧ 4 ≤ bits v 55 52)

/-- A write to RIND_Q_q (R346). Setting EN starts the queue afresh; clearing it makes it drain. -/
def State.queueWrite (s : State) (q w : Nat) (ca : Nat) (g : RegGroup) (v : Word) : State :=
  let old := s.reg ca
  let clears := decide (w = 0) && old.getLsbD 63 && decide (storeFields g.fields old v = setBits old 63 63 0)
  if w = 3 then s
  else if s.queueState q ≠ 0 then
    (if clears then (s.setReg ca (setBits old 63 63 0)).setQueueState q 2 else s.configError ca)
  else if w = 0 ∧ v.getLsbD 63 then
    if !queueOk q v then s.configError ca
    else ((s.plainWrite ca g v).setReg (queueCa q 3) (setBits (s.reg (queueCa q 3)) 63 12 0x9)).modQueue q fun _ => {}
  else s.plainWrite ca g v

/-- QUEUE_DRAINED: a draining queue has completed what it had fetched (R346). -/
def execQueueDrained (q : QueueNo) (s : State) : Out :=
  .next (if s.queueState q.val = 2 ∧ (s.queue q.val).descs.isEmpty then s.setQueueState q.val 0 else s)

/-- The entries of a queue's SQ and CQ. -/
def State.sqSize (s : State) (q : Nat) : Nat := 2 ^ s.fld (queueCa q 0) 59 56
def State.cqSize (s : State) (q : Nat) : Nat := 2 ^ s.fld (queueCa q 0) 55 52

/-- A doorbell (R341, R347): accepted through its queue's function, at a size of 4 or 8 bytes, while the queue runs; a
    value that is not good puts the queue in error. -/
def State.doorbell (s : State) (q : Nat) (func : Func) (size : Nat) (good : Bool) (f : State → State) : State :=
  if !s.linkOf 0 then s
  else
  let s := s.telRind 4 1
  if decide (s.queueFunc q ≠ func.val) || s.queueState q != 1 || !(size == 4 || size == 8) then s.configError (queueCa q 3)
  else
    let s := s.telRind 1 1
    if good then f s else (s.setQueueState q 3).configError (queueCa q 3)

/-- SQ_DOORBELL (R347). -/
def execSqDoorbell (q : QueueNo) (func : Func) (size : Fin 9) (v : BitVec 16) (s : State) : Out :=
  .next (s.doorbell q.val func size.val (decide (v.toNat < s.sqSize q.val)) fun s => s.modQueue q.val fun x => { x with tail := v.toNat })

/-- CQ_DOORBELL (R347): CQHEAD moves forward, never past CQTAIL. -/
def execCqDoorbell (q : QueueNo) (func : Func) (size : Fin 9) (v : BitVec 16) (s : State) : Out :=
  let n := s.cqSize q.val
  let ca := queueCa q.val 3
  let old := s.fld ca 31 16
  let ok := decide (v.toNat < n ∧ (v.toNat + n - old) % n ≤ (s.fld ca 47 32 + n - old) % n)
  .next (s.doorbell q.val func size.val ok fun s => s.setFld ca 31 16 v.toNat)

/-- A write to RIND_EVQ (R352). -/
def State.evqWrite (s : State) (ca : Nat) (g : RegGroup) (v : Word) : State :=
  let bad (j : Nat) : Bool :=
    let f := s.queueFunc (bits v (9 * j + 7) (9 * j))
    v.getLsbD (9 * j + 8) && f != 0 && (s.funcJob f).val != j
  if (List.range 4).any bad then s.configError ca else s.plainWrite ca g v

/-! ### Firmware (R368, R369) -/

def fwctlCa : Nat := rindCa 0 0x68

/-- RIND_FWSTAT given. -/
def State.setFwStat (s : State) (w : Word) : State := s.modFw fun x => { x with stat := some w }

/-- The security version of the package in a slot: 0 slot A, 1 slot B. -/
def State.slotSvn (s : State) (k : Nat) : Nat :=
  match tget 0 s.rind.fw.svn k with
  | 0 => (Config.flashSvn k).toNat
  | n => n - 1

/-- A firmware event (Table 15-15): 1 trial started, 2 confirmed, 3 reverted. -/
def State.fwEvent (s : State) (k : Nat) : State := s.postRind 0x1C none k

/-- Whether a LOAD, FWLOAD or RESET is in progress. -/
def State.coreBusy (s : State) : Bool :=
  s.rind.load.isSome || !s.rind.resets.isEmpty ||
  s.rind.queues.any fun q => q.2.descs.any fun d => d.st == .load || d.st == .fwload || d.st == .reset

/-- SWITCH accepted: the core restarts from the other slot, on trial; debug is locked (R422). -/
def State.fwSwitch (s : State) : State :=
  let w := s.fwStat
  let b := w.getLsbD 62
  let s := (s.setFwStat (setBits (setBits w 63 63 1) 62 62 (if b then 0 else 1))).modFw fun x => { x with back := b, restart := true, ready := false, since := s.rind.ticks }
  (s.setFld dbgUnlockCa 9 8 0).fwEvent 1

/-- CONFIRM: the running slot is what every later reset starts, and SVNFLOOR rises to its SVN. -/
def State.fwConfirm (s : State) : State :=
  let w := s.fwStat
  if !w.getLsbD 63 then s
  else
    let b := w.getLsbD 62
    let w := setBits (setBits w 63 63 0) 47 40 (max (bits w 47 40) (s.slotSvn (if b then 1 else 0)))
    ((s.setFwStat w).modFw fun x => { x with back := b }).fwEvent 2

/-- A write to RIND_FWCTL (Table 15-26). -/
def State.fwctlWrite (s : State) (v : Word) : State :=
  let w := s.fwStat
  let other := if w.getLsbD 62 then w.getLsbD 60 else w.getLsbD 61
  if v.getLsbD 0 then (if !other || w.getLsbD 63 || s.coreBusy then s.configError fwctlCa else s.fwSwitch)
  else if v.getLsbD 1 then s.fwConfirm
  else s

/-- SWITCH (R369). -/
def execSwitch (s : State) : Out := .next (if s.rind.pins.standby then s.fwctlWrite 1 else s)

/-- CONFIRM (R369). -/
def execConfirm (s : State) : Out := .next (if s.rind.pins.standby then s.fwctlWrite 2 else s)

/-- FIRMWARE_READY: the firmware that restarted reports ready (R369). -/
def execFirmwareReady (s : State) : Out :=
  .next (if s.rind.fw.restart then s.modFw fun x => { x with restart := false, ready := true, since := s.rind.ticks } else s)

/-- Whether a trial has passed its limit: 2 s to report ready, 60 s from then to be confirmed (R369). -/
def State.trialOver (s : State) : Bool :=
  s.fwStat.getLsbD 63 && decide ((if s.rind.fw.ready then 60000000000 else 2000000000) ≤ s.rind.ticks - s.rind.fw.since)

/-- FIRMWARE_REVERT: a trial not ready within 2 s, or not confirmed within 60 s of ready, ends: the core restarts from the
    previous slot (R369). -/
def execFirmwareRevert (s : State) : Out :=
  let w := s.fwStat
  if !s.trialOver then .next s
  else
    let s := s.setFwStat (setBits (setBits w 63 63 0) 62 62 (if s.rind.fw.back then 1 else 0))
    let s := s.modFw fun x => { x with restart := true, ready := false, since := s.rind.ticks }
    .next ((s.setFld dbgUnlockCa 9 8 0).fwEvent 3)

end Sys2Proof.Machine
end

