-- ==== Sys2Proof/Machine/Control.lean ====
section
/-! DEFINITION. Writes and reads of control registers (R3–R7, R17, R22, R23): what each register does beyond its access codes,
what the computed ones show, and the scan windows (R401, R425). -/

namespace Sys2Proof.Machine

/-- The tile whose site a control address names. -/
def tileOfCa (p : CaParts) : Tile := ⟨fieldNo p.field, Fin.ofNat 42 p.site⟩

/-- The n-th index of a register. -/
def idx (is : List Nat) (n : Nat) : Nat := is.getD n 0

/-! ### The tile map (R17) -/

def sitebadCa (f : FieldNo) : Nat := fcCa f 0 0x1200

/-- FLD_SITEUSE. -/
def State.siteUse (s : State) (f : FieldNo) : Word :=
  BitVec.ofNat 64 ((List.range 42).foldl (fun m i => if s.siteUsed f i none then m + 2 ^ i else m) 0)

/-- Whether a context of the tile that holds a logical tile is loaded. -/
def State.tileLoaded (s : State) (f : FieldNo) (k : Nat) : Bool :=
  match s.siteOf f k with
  | some t => allCtx.any fun c => !((s.ctx t c).state == .empty)
  | none => false

/-- A write to FLD_TILEMAP_t (R17). The epoch of the logical tile goes with it (DEDUCED, notes/assumptions/62). -/
def State.tilemapWrite (s : State) (f : FieldNo) (k : Nat) (ca : Nat) (g : RegGroup) (v : Word) : State :=
  let new := storeFields g.fields (s.reg ca) v
  let site := bits new 5 0
  if new.getLsbD 7 && (s.siteUsed f site (some k) || s.bit (sitebadCa f) site) || s.tileLoaded f k then s.configError ca
  else
    let s := s.plainWrite ca g v
    match s.siteOf f k with
    | some t => s.setFld (spdEpochCa t) 15 0 (s.fld (eptabCa t (40 * f.val + k)) 15 0)
    | none => s

/-- A write to FLD_SITEBAD (R17). -/
def State.sitebadWrite (s : State) (f : FieldNo) (ca : Nat) (g : RegGroup) (v : Word) : State :=
  if v &&& s.siteUse f ≠ 0 then s.configError ca else s.plainWrite ca g v

/-! ### Scan windows (R401, R425) -/

/-- A byte of a list replaced, where the list has it. -/
def putBytes (l : List Byte) (i : Nat) (d : List Byte) : List Byte :=
  if i + d.length ≤ l.length then l.take i ++ d ++ l.drop (i + d.length) else l

/-- A weight buffer of a tile: 0 or 1. -/
def Matrix.buf (m : Matrix) (b : Nat) : WeightBuf := if b = 0 then m.buf0 else m.buf1

/-- Eight bytes at an offset of a weight buffer's window: mantissa bytes, 256 to a row; exponent bytes, 16 to a row; the check
    entries (DESIGN CHOICE, notes/assumptions/65). -/
def WeightBuf.view (w : WeightBuf) (o : Nat) : Nat :=
  let row (i : Nat) : List Byte := w.rows.getD i []
  if o < 0x10000 then ofBytes (((row (o / 256)).drop (o % 256)).take 8)
  else if o < 0x11000 then
    let o := o - 0x10000
    ofBytes (((row (o / 16)).drop (256 + o % 16)).take 8)
  else
    let i := (o - 0x11000) / 2
    (List.range 4).foldl (fun n j => n + ((w.check.getD (i + j) 0) % 65536).toNat <<< (16 * j)) 0

/-- A list with a member in place i, the places before it filled up with a default where it is shorter. -/
def growTo {α : Type} (d : α) (l : List α) (i : Nat) : List α := l ++ List.replicate (i + 1 - l.length) d

/-- Eight bytes at an offset of a weight buffer's window written; a row or entry that the buffer does not hold yet is added to it,
    with the rows before it as zeros (DESIGN CHOICE, notes/assumptions/65). -/
def WeightBuf.put (w : WeightBuf) (o : Nat) (v : Word) : WeightBuf :=
  let d := toBytes 8 v.toNat
  let put (row i : Nat) : WeightBuf :=
    { w with rows := (growTo (List.replicate 272 0) w.rows row).modify row fun r => putBytes (growTo 0 r (i + 7)) i d }
  if o < 0x10000 then put (o / 256) (o % 256)
  else if o < 0x11000 then put ((o - 0x10000) / 16) (256 + o % 16)
  else
    let i := (o - 0x11000) / 2
    if 512 ≤ i then w
    else
      let check := (List.range 4).foldl (fun (c : List Int) j => c.set (i + j) (signed 16 (bits v (16 * j + 15) (16 * j)))) (growTo 0 w.check (i + 3))
      { w with check := check }

/-- The bytes of the entries of a stream queue, each at its first unit. -/
def StreamCtx.image (x : StreamCtx) : List Byte :=
  (x.queue.map fun p => match p with
    | .ready (.data b _) => b ++ List.replicate ((64 - b.length % 64) % 64) 0
    | .ready (.token ty) => ty :: List.replicate 63 0
    | .reserved r => List.replicate (64 * r.units) 0).flatten

/-- The entry of a stream queue that holds a byte of its units, and the byte's place in it. -/
def placeAt : List Place → Nat → Option (Nat × Nat)
  | [], _ => none
  | p :: ps, o =>
    let n := 64 * Place.units p
    if o < n then some (0, o) else (placeAt ps (o - n)).map fun x => (x.1 + 1, x.2)

/-- Eight bytes of the units of a stream queue written, where an entry holds them. -/
def StreamCtx.putUnits (x : StreamCtx) (o : Nat) (v : Word) : StreamCtx :=
  match placeAt x.queue o with
  | none => x
  | some (i, k) => { x with queue := x.queue.modify i fun p => match p with
      | .ready (.data b pr) => .ready (.data (putBytes b k ((toBytes 8 v.toNat).take (b.length - k))) pr)
      | .ready (.token _) => if k = 0 then .ready (.token (v.setWidth 8)) else p
      | .reserved r => .reserved r }

/-- The descriptor of a place of a stream queue: bit 63 valid, 62 a token, 61 a reservation, 60 the row predicate, and in the low bits
    the size in bytes (DESIGN CHOICE, notes/assumptions/65). -/
def placeWord : Place → Nat
  | .ready (.data b p) => 1 <<< 63 + (if p then 1 <<< 60 else 0) + b.length
  | .ready (.token _) => 1 <<< 63 + 1 <<< 62
  | .reserved r => 1 <<< 63 + 1 <<< 61 + r.size

/-- A descriptor written: an entry changed or added at the end, its bytes kept and further ones 0; one that is not valid ends the
    queue. -/
def StreamCtx.putDesc (x : StreamCtx) (i : Nat) (v : Word) : StreamCtx :=
  let old : List Byte := match x.queue[i]? with | some (.ready (.data b _)) => b | _ => []
  let n := min 16384 (bits v 31 0)
  let p : Place := if v.getLsbD 62 then .ready (.token 0) else .ready (.data ((old ++ List.replicate n 0).take n) (v.getLsbD 60))
  if !v.getLsbD 63 then { x with queue := x.queue.take i }
  else if i < x.queue.length then { x with queue := x.queue.set i p }
  else if i = x.queue.length ∧ i < 32 then { x with queue := x.queue ++ [p] } else x

/-- A stream-program register as its scan window shows it: IX, CN, PLIM or CMPV. -/
def StreamRun.view (r : StreamRun) (w : Nat) : Word :=
  if w < 4 then BitVec.ofNat 64 (r.ix.getD w 0) else if w < 8 then BitVec.ofNat 64 (r.cn.getD (w - 4) 0)
  else if w = 8 then BitVec.ofNat 64 r.plim else r.cmpv

/-- A stream-program register written through its scan window. -/
def StreamRun.put (r : StreamRun) (w : Nat) (v : Word) : StreamRun :=
  if w < 4 then { r with ix := r.ix.set w (bits v 23 0) } else if w < 8 then { r with cn := r.cn.set (w - 4) (bits v 23 0) }
  else if w = 8 then { r with plim := bits v 23 0 } else { r with cmpv := v }

/-- The bytes of the replay buffer's window: 512 for each of the rows it holds, oldest first: the bytes of the row's entry, its
    exponents after its mantissas, and the predicate in the last byte (DESIGN CHOICE, notes/assumptions/65). -/
def Matrix.replayImage (m : Matrix) : List Byte :=
  (m.replay.map fun r => r.1 ++ List.replicate (511 - r.1.length) 0 ++ [if r.2 then 1 else 0]).flatten

/-- Eight bytes of the replay buffer's window written; a row that it does not hold yet is added to it. -/
def Matrix.replayPut (m : Matrix) (o : Nat) (v : Word) : Matrix :=
  if 10 ≤ o / 512 then m
  else { m with replay := (growTo (List.replicate 272 0, false) m.replay (o / 512)).modify (o / 512) fun r =>
      (putBytes r.1 (o % 512) ((toBytes 8 v.toNat).take (r.1.length - o % 512)), if o % 512 = 504 then v.getLsbD 56 else r.2) }

/-- A word of a scan window. The layouts that Table 18-9 leaves open are the model's (DESIGN CHOICE, notes/assumptions/65). -/
def State.scanView (s : State) (t : Tile) (off : Nat) : Word × State :=
  if off < 0x2000 then
    let q := (s.ctx t (Fin.ofNat 4 ((off - 0x1000) / 128))).tokens
    (match q[off % 128 / 8]? with
     | some ty => BitVec.ofNat 64 (256 + ty.toNat)
     | none => 0, s)
  else if off < 0x3000 then
    ((s.eng t (Fin.ofNat 3 ((off - 0x2000) / 64)) (Fin.ofNat 4 (off % 64 / 16))).gen.setWidth 64, s)
  else if off < 0x10000 then
    let x := s.eng t (Fin.ofNat 3 ((off - 0x3000) / 1024)) (Fin.ofNat 4 (off % 1024 / 256))
    let w := off % 256 / 8
    if w = 10 then (BitVec.ofNat 64 (x.cst + x.dest <<< 32), s)
    else if w < 10 then (StreamRun.view (x.run.getD x.kept) w, s) else (0, s)
  else if off < 0x80000 then
    let o := off - 0x10000
    let x := s.eng t (Fin.ofNat 3 (o / 0x20000)) (Fin.ofNat 4 (o % 0x20000 / 0x8000))
    if o % 0x8000 < 0x4000 then (BitVec.ofNat 64 (ofBytes (((StreamCtx.image x).drop (o % 0x8000)).take 8)), s)
    else (BitVec.ofNat 64 (((x.queue[o % 0x4000 / 8]?).map placeWord).getD 0), s)
  else if off < 0xC0000 then
    let o := off - 0x80000
    (BitVec.ofNat 64 (WeightBuf.view (Matrix.buf (s.tile t).mxe (o / 0x20000)) (o % 0x20000)), s)
  else (BitVec.ofNat 64 (ofBytes (((Matrix.replayImage (s.tile t).mxe).drop (off - 0xC0000)).take 8)), s)

/-- Whether a write into a scan window is accepted now: the contexts it belongs to are at rest, and its unit is idle (R401). -/
def State.scanOk (s : State) (t : Tile) (off : Nat) : Bool :=
  let engIdle (e c : Nat) : Bool := let x := s.eng t (Fin.ofNat 3 e) (Fin.ofNat 4 c); x.run.isNone && x.queued.isNone
  let rest (c : Nat) : Bool := s.atRest t (Fin.ofNat 4 c)
  if off < 0x2000 then rest ((off - 0x1000) / 128)
  else if off < 0x3000 then rest (off % 64 / 16) && engIdle ((off - 0x2000) / 64) (off % 64 / 16)
  else if off < 0x10000 then rest (off % 1024 / 256) && engIdle ((off - 0x3000) / 1024) (off % 1024 / 256)
  else if off < 0x80000 then
    rest ((off - 0x10000) % 0x20000 / 0x8000) && engIdle ((off - 0x10000) / 0x20000) ((off - 0x10000) % 0x20000 / 0x8000)
  else allCtx.all (fun c => s.atRest t c) && (s.tile t).mxe.run.isNone && (s.tile t).mxe.queued.isNone

/-- A word written into a scan window. -/
def State.scanPut (s : State) (t : Tile) (off : Nat) (v : Word) : State :=
  if off < 0x2000 then
    let i := off % 128 / 8
    s.modCtx t (Fin.ofNat 4 ((off - 0x1000) / 128)) fun x =>
      let q := if !v.getLsbD 8 then x.tokens.take i else if i < x.tokens.length then x.tokens.set i (v.setWidth 8)
        else if i = x.tokens.length then x.tokens ++ [v.setWidth 8] else x.tokens
      { x with tokens := q }
  else if off < 0x3000 then
    s.modEng t (Fin.ofNat 3 ((off - 0x2000) / 64)) (Fin.ofNat 4 (off % 64 / 16)) fun x => { x with gen := v.setWidth 8 }
  else if off < 0x10000 then
    let w := off % 256 / 8
    s.modEng t (Fin.ofNat 3 ((off - 0x3000) / 1024)) (Fin.ofNat 4 (off % 1024 / 256)) fun x =>
      if w = 10 then { x with cst := bits v 1 0, dest := bits v 47 32 }
      else if w < 10 then { x with kept := StreamRun.put x.kept w v } else x
  else if off < 0x80000 then
    let o := off - 0x10000
    s.modEng t (Fin.ofNat 3 (o / 0x20000)) (Fin.ofNat 4 (o % 0x20000 / 0x8000)) fun x =>
      if o % 0x8000 < 0x4000 then StreamCtx.putUnits x (o % 0x8000) v else StreamCtx.putDesc x (o % 0x4000 / 8) v
  else if off < 0xC0000 then
    let o := off - 0x80000
    s.modTile t fun x =>
      let m := x.mxe
      let m := if o / 0x20000 = 0 then { m with buf0 := WeightBuf.put m.buf0 (o % 0x20000) v }
        else { m with buf1 := WeightBuf.put m.buf1 (o % 0x20000) v }
      { x with mxe := m }
  else s.modTile t fun x => { x with mxe := Matrix.replayPut x.mxe (off - 0xC0000) v }

/-- A write into a scan window (R401). -/
def State.scanWrite (s : State) (t : Tile) (ca off : Nat) (v : Word) : State :=
  if s.scanOk t off then s.scanPut t off v else s.configError ca

/-! ### Writes -/

/-- The debug level that a write to a register of a DBG_ block, or to MXE_CHKINJ, needs (R73, R422). -/
def writeLevel (k : SiteKind) (p : CaParts) (g : RegGroup) : Nat :=
  match k, p.block with
  | .tile, 0x0C => if g.tag = .dbgTctl ∨ g.base = 0x100 then 1 else 2
  | .fieldCtl, 0x04 => 1
  | .tile, 0x02 => if g.tag = .mxeChkinj then 2 else 0
  | _, _ => 0

/-- A write to a register of a tile, by its tag. -/
def State.tileWrite (s : State) (t : Tile) (p : CaParts) (ca : Nat) (g : RegGroup) (is : List Nat) (v : Word) : State :=
  let c : CtxNo := Fin.ofNat 4 (idx is 0)
  match g.tag with
  | .istore => s.istoreWrite t (idx is 0) ca v
  | .accWindow => s.accWindowWrite t (512 * (p.block % 2) + idx is 0) (idx is 1) v false
  | .mxeCtl => s.mxeCtlWrite t ca g v
  | .mxeChkinj => s.chkinjWrite t v (s.level == 2)
  | .tilCtxcfg => s.ctxcfgWrite t c ca g v
  | .tilCtxcmd => s.ctxcmdWrite t c v
  | .tilPress => s.pressWrite t ca g v
  | .seqLc => s.lcWrite t c ca g v
  | .vchCfg => s.vchCfgWrite t c ca g (p.off % 128 / 8) v
  | .vchVec => s.vchCfgWrite t c ca g 0 v
  | .rowState => s.rowStateWrite t (idx is 0) ca g v false
  | .sfuCtl => s.vmodeWrite t ca g v
  | .spdBound => s.spdBoundWrite t (idx is 0) ca g v
  | .strProg => s.strProgWrite t (Fin.ofNat 4 (idx is 1)) ca v
  | .netTrt => s.trtWrite t (idx is 0) ca g v
  | .updJseed => s.jseedWrite t (idx is 0) ca g v
  | .updRule => s.ruleWrite t (idx is 0) ca g v
  | .updShard => s.shardWrite t (Fin.ofNat 16 (idx is 0)) (p.off % 256 / 8) ca g v
  | .updSrc => s.srcWrite t (Fin.ofNat 16 (idx is 0)) (p.off % 32 / 8) ca g v
  | .spxRing => s.spxRingWrite t c ca g v
  | .arbCommit => if woReserved g.fields v then s.configError ca else s.arbCommit (ca - p.off) (v.getLsbD 0) (v.getLsbD 1)
  | .telSnap => s.snapWrite ca v
  | .dbgTctl => s.dbgTctlWrite t v
  | .scan => s.scanWrite t ca p.off v
  | _ => s.plainWrite ca g v

/-- A write to a register of a field's shared blocks, by its tag. -/
def State.fieldWrite (s : State) (f : FieldNo) (p : CaParts) (ca : Nat) (g : RegGroup) (is : List Nat) (v : Word) : State :=
  match g.tag with
  | .fldTilemap => s.tilemapWrite f (idx is 0) ca g v
  | .fldSitebad => s.sitebadWrite f ca g v
  | .remapcmd => if woReserved g.fields v then s.configError ca else s.remapWrite f v
  | .fetchctl => s.fetchCfgWrite f ca g v
  | .fldCal => if p.off % 16 = 0 ∧ !calBaseOk v then s.configError ca else s.fetchCfgWrite f ca g v
  | .fetchcmd => s.fetchCmdWrite f v
  | .dbgFhalt => s.dbgFhaltWrite f v
  | .vatCmd => s.vatCmdWrite f ca v
  | .migFree => s.migFreeWrite f ca v
  | .netRtree => s.rtreeWrite f (idx is 0) (p.off % 16 == 8) ca g v
  | .jetSparecmd => if woReserved g.fields v then s.configError ca else s.sparecmdWrite f ca v
  | .gsparecmd => if woReserved g.fields v then s.configError ca else s.gsparecmdWrite f ca v
  | .isoXtree => s.xtreeWrite f (idx is 0) (p.off % 32 / 8) ca g v
  | .isoHpctl => s.hpctlWrite (Fin.ofNat 96 (2 * f.val + (p.block - 1))) ca g v
  | .telLanesel => s.laneselWrite f ca g v
  | .arbCommit => if woReserved g.fields v then s.configError ca else s.arbCommit (ca - p.off) (v.getLsbD 0) (v.getLsbD 1)
  | .telSnap => s.snapWrite ca v
  | _ => s.plainWrite ca g v

/-- A write to a register of the Rind or the edge, by its tag. -/
def State.rindWrite (s : State) (p : CaParts) (ca : Nat) (g : RegGroup) (is : List Nat) (v : Word) : State :=
  match g.tag with
  | .caveCtl => s.caveCtlWrite ca g v
  | .cavePt => s.cavePtWrite ca g v
  | .cavePtcmd => s.ptCmdWrite ca v
  | .migCmd => s.migCmdWrite ca v
  | .isoModid => s.modidWrite ca g v
  | .isoTimeset => s.timeset ca v
  | .isoTimectl => s.timectlWrite ca g v
  | .rindDwin => s.dwinWrite (idx is 0) (idx is 1) ca g v
  | .funcjob => s.funcjobWrite ca g v
  | .queueWord => s.queueWrite (idx is 0) (p.off % 32 / 8) ca g v
  | .evq => s.evqWrite ca g v
  | .rindKey => s.keyWrite (idx is 0) ca v
  | .rindReset => s.resetWrite v
  | .fwctl => s.fwctlWrite v
  | .rindPress => s.rindPressWrite v
  | .pwrCtl => s.pwrCtlWrite ca g v
  | .domcmd => s.domcmdWrite v
  | .optgate => s.optgateWrite ca v
  | .telSnapat => s.snapatWrite v
  | .telSnap => s.snapWrite ca v
  | .dbgUnlock => s.dbgUnlockWrite v
  | .dbgResp => s.modUnlock fun u => { u with resp := tset 0 u.resp (idx is 0) v }
  | .arbCommit => if woReserved g.fields v then s.configError ca else s.arbCommit (ca - p.off) (v.getLsbD 0) (v.getLsbD 1)
  | _ => s.plainWrite ca g v

/-- A write to a mapped register of a block that answers. An access opens a tile site's gate (R381). -/
def State.regWrite (s : State) (ca : Nat) (k : SiteKind) (g : RegGroup) (is : List Nat) (v : Word) : State :=
  let p := caParts ca
  let s := if k = .tile then s.modTile (tileOfCa p) fun x => { x with gated := false } else s
  if s.claims ca then s.configError ca
  else if s.level < writeLevel k p g then s.configError ca
  else if k = .tile then s.tileWrite (tileOfCa p) p ca g is v
  else if p.field < 48 then s.fieldWrite (fieldNo p.field) p ca g is v
  else s.rindWrite p ca g is v

/-- A register write from outside (R3–R7, R22, R23): a write with field code 0x3F is taken by every field that serves; a block
    of such a field whose sub-gate is off completes it as R22 says. -/
def State.controlWrite (s : State) (ca : Nat) (v : Word) : State :=
  match decodeCa ca with
  | none => s.caError ca
  | some (k, g, is) =>
    if (caParts ca).field = 0x3F then
      (List.range 48).foldl (fun s f =>
        let a := ca - (0x3F <<< 34) + f <<< 34
        if !s.serves f then s else if s.answers a then s.regWrite a k g is v else s.caError a) s
    else if s.answers ca then s.regWrite ca k g is v
    else s.caError ca

/-! ### Reads -/

/-- A number of entries of a status in a field. -/
def at_ (v lo : Nat) : Nat := v <<< lo

/-- TIL_CTXSTATE_c (Table 4-14). -/
def State.ctxstate (s : State) (t : Tile) (c : CtxNo) : Nat :=
  let x := s.ctx t c
  let st := match x.state with
    | .empty => 0 | .stopped => 1 | .running => 2 | .stopping => 3 | .ended => 4 | .fault => 5
  let cur := if (s.tile t).current = some c ∧ !TileSt.dbgHalted (s.tile t) then 1 else 0
  at_ st 29 + at_ cur 28 + at_ (x.cause % 16) 24 + at_ x.tokens.length 16 + x.pc.toNat

/-- MXE_STATUS (Table 3-10). -/
def State.mxeStatus (s : State) (t : Tile) : Nat :=
  let m := (s.tile t).mxe
  let sh := Matrix.shadow m
  let shadow := if WeightBuf.full sh then 2 else if sh.rows.isEmpty && sh.mask.isNone then 0 else 1
  let run := match m.run with
    | some r => at_ r.desc.ctx.val 30 + at_ 1 29 + at_ (r.prob % 256) 16 + r.row % 1024
    | none => 0
  run + (if m.queued.isSome then at_ 1 28 else 0) + at_ shadow 26 + (if m.active then at_ 1 25 else 0) + if m.halted then at_ 1 24 else 0

/-- VCH_STATUS (Table 5-15). -/
def State.vchStatus (s : State) (t : Tile) : Nat :=
  let h := (s.tile t).chain
  let run := match h.run with
    | some v => at_ v.ctx.val 30 + at_ 1 29 + at_ v.cfg.val 24
    | none => 0
  run + (if h.queued.isSome then at_ 1 28 else 0) + h.lastRow % 1024

/-- STR_STATUS_e_c (Table 7-15). -/
def State.strStatus (s : State) (t : Tile) (e : Fin 3) (c : CtxNo) : Nat :=
  let x := s.eng t e c
  let run := match x.run with
    | some r => at_ 1 45 + at_ r.prog 40 + at_ r.ip 35
    | none => 0
  at_ (min 255 x.disc) 56 + at_ x.gen.toNat 48 + at_ (x.cst % 4) 46 + run + (if x.queued.isSome then at_ 1 44 else 0) +
    at_ x.queue.length 24 + at_ (StreamCtx.units x) 15

/-- VAT_STATUS (Table 9-14). -/
def State.vatStatus (s : State) (f : FieldNo) : Nat :=
  let v := (s.fieldSt f.val).vat
  at_ v.miss.length 48 + at_ v.wb.length 40 + at_ v.pend.length 32 + v.tcache.foldl (fun n p => n + p.2.length) 0

/-- FLD_FETCHSTAT but for LATE (Table 9-24). -/
def State.fetchStat (s : State) (f : FieldNo) : Nat :=
  let x := s.fetch f
  at_ x.gen.toNat 40 + at_ (s.fld (fetchCtlCa f) 8 0 - x.touches.length) 31 + (if x.running then at_ 1 29 else 0) + x.cursor % 1024

/-- MIG_STATUS but for NOFREE (Table 9-20). -/
def State.migStatus (s : State) : Nat :=
  let page := match s.agent.move with | some m => m.page | none => s.agent.last
  (if s.agent.move.isSome then at_ 1 63 else 0) + at_ s.agent.moves.length 56 + page

/-- Bits of a word taken from a number. -/
def overlay (w : Word) (hi lo v : Nat) : Word := setBits w hi lo (v >>> lo)

/-- What a read of a mapped register shows, before write-only and reserved fields are masked. -/
def State.regView (s : State) (ca : Nat) (k : SiteKind) (g : RegGroup) (is : List Nat) : Word × State :=
  let p := caParts ca
  let t := tileOfCa p
  let f := fieldNo p.field
  let w := s.reg ca
  let c : CtxNo := Fin.ofNat 4 (idx is 0)
  let n (v : Nat) : Word × State := (BitVec.ofNat 64 v, s)
  match g.tag with
  | .fldSiteuse => (s.siteUse f, s)
  | .istore =>
    if 2 ≤ tget 0 s.ecc (istoreErr t (idx is 0)) then
      (BitVec.ofNat 64 (2 ^ 63), s.postTile 0x0C t (BitVec.ofNat 64 (49152 + idx is 0 / 64)))
    else (w, s)
  | .accWindow => s.readAcc t (512 * (p.block % 2) + idx is 0) (idx is 1)
  | .mxeStatus => n (s.mxeStatus t)
  | .tilCtxstate => n (s.ctxstate t c)
  | .vchStatus => n (s.vchStatus t)
  | .strStatus => n (s.strStatus t (Fin.ofNat 3 (idx is 0)) (Fin.ofNat 4 (idx is 1)))
  | .netSlotuse => n (if k = .tile then s.trtUse t none else s.rtreeUse f none)
  | .dbgTctl => n (if TileSt.dbgHalted (s.tile t) then at_ 1 63 + at_ ((s.tile t).dbg.cause % 4) 61 else 0)
  | .scan => s.scanView t p.off
  | .vatStatus => n (s.vatStatus f)
  | .homeStat =>
    let h := s.home (if k = .cellar then f.val else 48)
    (overlay w 38 0 (at_ h.slots.length 32 + Home.dirUse h), s)
  | .migFree => n (at_ (s.fieldSt f.val).free.length 32)
  | .migStatus => (overlay (overlay w 63 56 s.migStatus) 23 0 s.migStatus, s)
  | .fetchstat => (overlay w 47 0 (s.fetchStat f), s)
  | .jetSpare =>
    let l := idx is 0
    if !ownsLink f l || decide (linkBundles l ≤ 8 * idx is 2) then n 0
    else
      let left := linkBundles l - 8 * idx is 2
      if 8 ≤ left then (w, s) else n (bits w (8 * left - 1) 0)
  | .telLanecnt => (s.laneCounts f (idx is 0), s)
  | .isoSerial => (Config.serial, s)
  | .rindId => (setBits w 47 40 Config.stepping.toNat, s)
  | .rindKey => (s.keyReg (idx is 0), s)
  | .rindReset => n (if s.rind.resets.isEmpty then 0 else at_ 1 63)
  | .fwstat => (s.fwStat, s)
  | .rindDwin => if 1 ≤ idx is 0 ∧ 4 ≤ idx is 1 then n 0 else (w, s)
  | .dbgChal => (s.challenge, s)
  | _ => (w, s)

/-- Whether a register lies in a tile's or a field controller's DBG_ block, which only the observe level reads (R422).
    DEDUCED: notes/assumptions/13. -/
def readHidden (k : SiteKind) (p : CaParts) : Bool :=
  match k, p.block with
  | .tile, 0x0C => true
  | .fieldCtl, 0x04 => true
  | _, _ => false

/-- A read of a mapped register; a full-width one clears its RC fields (R4, R5). -/
def State.regRead (s : State) (ca : Nat) (k : SiteKind) (g : RegGroup) (is : List Nat) (full : Bool) : Word × State :=
  let p := caParts ca
  if readHidden k p && s.level == 0 then s.freshWord
  else
    let s := if k = .tile then s.modTile (tileOfCa p) fun x => { x with gated := false } else s
    let (w, s) := s.regView ca k g is
    let s := if full && g.fields.any (fun f => f.acc == .rc) then
        (s.setReg ca (clearRc g.fields (s.reg ca))).modRind fun x => { x with peaks := x.peaks.erase ca }
      else s
    (maskWo g.fields w, s)

/-- A register read from outside: whether it was answered, and the value, all ones where nothing answers (R22, R23). -/
def State.controlRead (s : State) (ca : Nat) (full : Bool) : Bool × Word × State :=
  match decodeCa ca with
  | none => (false, BitVec.allOnes 64, s.caError ca)
  | some (k, g, is) =>
    if (caParts ca).field = 0x3F || !s.answers ca then (false, BitVec.allOnes 64, s.caError ca)
    else
      let (w, s) := s.regRead ca k g is full
      (true, w, s)

/-- The value of a register read kept as the answer. -/
def State.setAnswer (s : State) (w : Word) : State := s.modRind fun x => { x with answer := w }

/-! ### Commands -/

/-- A register write as a command: the row that has it does what any write of that register does, so a write that names
    another register is that register's.
    DESIGN CHOICE: notes/assumptions/9. -/
def State.writeOf (s : State) (ca : Ca) (v : Word) : Out := .next (s.controlWrite ca.toNat v)

/-- REGISTER_WRITE (R3–R7, R22): a write to any control address. -/
def execRegisterWrite (ca : Ca) (v : Word) (s : State) : Out := .next (s.controlWrite ca.toNat v)

/-- REGISTER_READ_CLEAR (R5, R22): a full-width read; the value is kept as the answer. -/
def execRegisterReadClear (ca : Ca) (s : State) : Out :=
  let (_, w, s) := s.controlRead ca.toNat true
  .next (s.setAnswer w)

/-- BROADCAST_WRITE (R23). -/
def execBroadcastWrite (ca : Ca) (v : Word) (s : State) : Out :=
  s.writeOf ca v

/-- TILEMAP_WRITE (R17). -/
def execTilemapWrite (ca : Ca) (v : Word) (s : State) : Out := s.writeOf ca v

/-- SITEBAD_WRITE (R17). -/
def execSitebadWrite (ca : Ca) (v : Word) (s : State) : Out := s.writeOf ca v

/-- ISTORE_WRITE (R80). -/
def execIstoreWrite (ca : Ca) (v : Word) (s : State) : Out := s.writeOf ca v

/-- CTXCFG_WRITE (R99, R279). -/
def execCtxcfgWrite (ca : Ca) (v : Word) (s : State) : Out := s.writeOf ca v

/-- LOOP_COUNTER_WRITE (R99). -/
def execLoopCounterWrite (ca : Ca) (v : Word) (s : State) : Out := s.writeOf ca v

/-- COUNTER_WRITE (R106). -/
def execCounterWrite (ca : Ca) (v : Word) (s : State) : Out := s.writeOf ca v

/-- CHECK_INJECT (R73): a write to MXE_CHKINJ with a count. -/
def execCheckInject (t : Tile) (block count : Fin 16) (s : State) : Out :=
  .next (s.controlWrite (tileCa t 0x02 0x20) (BitVec.ofNat 64 (16 * block.val + count.val)))

/-- CHECK_INJECT_CANCEL (R73): a write to MXE_CHKINJ with COUNT = 0. -/
def execCheckInjectCancel (t : Tile) (s : State) : Out := .next (s.controlWrite (tileCa t 0x02 0x20) 0)

/-- CHAIN_CONFIG_WRITE (R110). -/
def execChainConfigWrite (ca : Ca) (v : Word) (s : State) : Out := s.writeOf ca v

/-- ROWSTATE_WRITE (R123); `collide` says that the chain writes the entry in the same cycle. -/
def execRowstateWrite (ca : Ca) (v : Word) (collide : Bool) (s : State) : Out :=
  match decodeCa ca.toNat with
  | some (_, g, is) =>
    if g.tag == .rowState && collide && s.answers ca.toNat && !s.claims ca.toNat then
      .next (s.rowStateWrite (tileOfCa (caParts ca.toNat)) (idx is 0) ca.toNat g v true)
    else .next (s.controlWrite ca.toNat v)
  | none => .next (s.controlWrite ca.toNat v)

/-- VMODE_WRITE (R142). -/
def execVmodeWrite (ca : Ca) (v : Word) (s : State) : Out := s.writeOf ca v

/-- SPD_BOUND_WRITE (R149). -/
def execSpdBoundWrite (ca : Ca) (v : Word) (s : State) : Out := s.writeOf ca v

/-- STREAM_PROGRAM_WRITE (R155). -/
def execStreamProgramWrite (ca : Ca) (v : Word) (s : State) : Out := s.writeOf ca v

/-- SPARECMD (R173). -/
def execSparecmd (ca : Ca) (v : Word) (s : State) : Out := s.writeOf ca v

/-- TREE_ENTRY_WRITE (R196, R321). -/
def execTreeEntryWrite (ca : Ca) (v : Word) (s : State) : Out := s.writeOf ca v

/-- CAVE_ENABLE_WRITE (Table 9-16). -/
def execCaveEnableWrite (ca : Ca) (v : Word) (s : State) : Out := s.writeOf ca v

/-- PT_WRITE (R204): a write to CAVE_PTCMD with OP 1. -/
def execPtWrite (ca : Ca) (v : Word) (s : State) : Out := s.writeOf ca v

/-- PT_READ (R204): a write to CAVE_PTCMD with OP 2. -/
def execPtRead (ca : Ca) (v : Word) (s : State) : Out := s.writeOf ca v

/-- MOVE (R222): a write to MIG_CMD. -/
def execMove (ca : Ca) (v : Word) (s : State) : Out := s.writeOf ca v

/-- FREE_RING_PUSH (R223): a write to MIG_FREE. -/
def execFreeRingPush (ca : Ca) (v : Word) (s : State) : Out := s.writeOf ca v

/-- FETCH_START (R225): a write to FLD_FETCHCMD with OP 1. -/
def execFetchStart (ca : Ca) (v : Word) (s : State) : Out := s.writeOf ca v

/-- FETCH_STOP (R225): a write to FLD_FETCHCMD with OP 2. -/
def execFetchStop (ca : Ca) (v : Word) (s : State) : Out := s.writeOf ca v

/-- CANCEL (R227): a write to FLD_FETCHCMD with OP 3. -/
def execCancel (ca : Ca) (v : Word) (s : State) : Out := s.writeOf ca v

/-- SHARD_ENTRY_WRITE (R277). -/
def execShardEntryWrite (ca : Ca) (v : Word) (s : State) : Out := s.writeOf ca v

/-- SPARSE_RING_WRITE (chapter 12). -/
def execSparseRingWrite (ca : Ca) (v : Word) (s : State) : Out := s.writeOf ca v

/-- ROLE_WRITE (R326): a write to ISO_HPCTL. -/
def execRoleWrite (ca : Ca) (v : Word) (s : State) : Out := s.writeOf ca v

/-- MODID_WRITE (R311). -/
def execModidWrite (ca : Ca) (v : Word) (s : State) : Out := s.writeOf ca v

/-- TIMESET (R333). -/
def execTimeset (ca : Ca) (v : Word) (s : State) : Out := s.writeOf ca v

/-- TIMECTL_WRITE (R333). -/
def execTimectlWrite (ca : Ca) (v : Word) (s : State) : Out := s.writeOf ca v

/-- DATA_WINDOW_WRITE (R344). -/
def execDataWindowWrite (ca : Ca) (v : Word) (s : State) : Out := s.writeOf ca v

/-- FUNCJOB_WRITE (R345). -/
def execFuncjobWrite (ca : Ca) (v : Word) (s : State) : Out := s.writeOf ca v

/-- QUEUE_CONFIG_WRITE (R346). -/
def execQueueConfigWrite (ca : Ca) (v : Word) (s : State) : Out := s.writeOf ca v

/-- EVQ_WRITE (R352). -/
def execEvqWrite (ca : Ca) (v : Word) (s : State) : Out := s.writeOf ca v

/-- PWR_CTL_WRITE (R28). -/
def execPwrCtlWrite (ca : Ca) (v : Word) (s : State) : Out := s.writeOf ca v

/-- OPTGATE_WRITE (R387). -/
def execOptgateWrite (ca : Ca) (v : Word) (s : State) : Out := s.writeOf ca v

/-- SNAPSHOT (R414): a write of 1 to a TEL_SNAP. -/
def execSnapshot (ca : Ca) (s : State) : Out := s.writeOf ca 1

/-- LANE_COUNT_CLEAR (R415): a write of TEL_LANESEL with CLR. -/
def execLaneCountClear (f : FieldNo) (link : Fin 32) (dir : Bool) (bundle : Byte) (s : State) : Out :=
  .next (s.controlWrite (laneselCa f) (BitVec.ofNat 64 (1 <<< 63 + link.val <<< 16 + (if dir then 1 <<< 15 else 0) + bundle.toNat)))

/-- SCAN_WRITE (R401): a write into an item of a tile's state, by its place in Table 17-8. The items that have a register of
    their own keep its rule.
    DEDUCED: notes/assumptions/142. -/
def execScanWrite (ca : Ca) (v : Word) (s : State) : Out := s.writeOf ca v

/-! ### DBGACC (R421) -/

/-- The result of a DBGACC access: its data register with status 0 done, 1 address error, 2 refused. -/
def dbgResult (op : Fin 4) (status : Nat) (ca : Ca) (data : Word) : BitVec 112 :=
  BitVec.ofNat 112 (op.val <<< 110 + status <<< 104 + ca.toNat <<< 64 + data.toNat)

/-- DBGACC: the access is made at Update-DR, as the debug level permits; Capture-DR then returns its result (R421). -/
def execDbgacc (op : Fin 4) (ca : Ca) (data : Word) (s : State) : Out :=
  let p := caParts ca.toNat
  let own := decide (p.field = 0x3C ∧ p.site = 0 ∧ p.block = 3)
  let ok := own || (op.val == 1 && decide (1 ≤ s.level)) || s.level == 2
  let sel (s : State) (status : Nat) (w : Word) : State := s.jtagSelect 0x20 (dbgResult op status ca w)
  if !s.jtagOn then .next s
  else if op.val = 0 ∨ op.val = 3 then .next (s.modJtag fun j => { j with ir := 0x20, driven := false })
  else if !ok then .next (sel s 2 data)
  else if op.val = 1 then
    let (good, w, s) := s.controlRead ca.toNat true
    .next (sel s (if good then 0 else 1) w)
  else
    let good := (decodeCa ca.toNat).isSome && (p.field == 0x3F || s.answers ca.toNat)
    .next (sel (s.controlWrite ca.toNat data) (if good then 0 else 1) data)

end Sys2Proof.Machine
end

