-- ==== Sys2Proof/Machine/Host.lean ====
section
/-! DEFINITION. The host's memory and the descriptor queues (R220, R338, R348–R355): PCIe operations, descriptors, copies,
completion entries, messages and the event log. -/

namespace Sys2Proof.Machine

/-! ### Requests of the Rind on the wafer network -/

/-- The lowest number that a table does not hold.
    DEDUCED: notes/assumptions/84. -/
def leastFree {α : Type} (t : Table α) : Nat := ((List.range (t.length + 1)).find? fun k => !t.any fun p => p.1 == k).getD 0

/-- A request of the Rind opened under its lowest free tag. -/
def State.openRind (s : State) (u : RindUse) : Nat × State :=
  let tag := leastFree s.rind.txns
  (tag, s.modRind fun x => { x with txns := tset none x.txns tag (some u) })

/-- The head of a request that the Rind makes for a function. -/
def rindHead (job : JobNo) (dfield dsite : Nat) (dlog : Bool) (site tag : Nat) (port : Option (Fin 2)) (md : Nat) : Head :=
  { job := job, ntag := 0, dfield := dfield, dsite := dsite, dlog := dlog, sfield := 0x3C, ssite := site, xm := false,
    tag := tag, mcg := none, smod := md, dmod := md, port := port }

/-- A request of the Rind to a data address: through the host agent for a Cave address, over the network for another; none where the
    function may not name it or nothing is mapped there (R149, R207, R343, R350). -/
def State.rindRequest (s : State) (pf : Bool) (job : JobNo) (addr : Nat) (b : Body) (port : Option (Fin 2)) (u : RindUse) : Option State :=
  let net (df ds : Nat) (dl : Bool) : Option State :=
    let (tag, s) := s.openRind u
    some (s.send (rindHead job df ds dl 0 tag port s.moduleId) b)
  match decodeAddr addr with
  | .cave _ =>
    let (tag, s) := s.openRind u
    some (s.agentAccess (rindHead job 0x3C 1 false 1 tag port s.moduleId) b)
  | .padLogical f n _ => net f.val n true
  | .padPhysical t _ => if pf then net t.field.val t.site.val false else none
  | .cellar f _ => if pf then net f.val 0x32 false else none
  | _ => none

/-- An address error met by a request of the Rind before it leaves (R24): the host agent, whose edge links carry such
    requests (R15), records it. DEDUCED: notes/assumptions/10. -/
def State.rindUnmapped (s : State) (job : JobNo) (addr : Nat) : State :=
  s.post 0x05 (some job.val) none 0x3C 1 (BitVec.ofNat 64 (addr % 2 ^ 56))

/-! ### Queues and descriptors -/

def State.desc (s : State) (q id : Nat) : Option Desc := (s.queue q).descs.find? fun d => d.id == id

/-- Where a descriptor stands changed, by its number. -/
def State.putDesc (s : State) (q id : Nat) (st : DescSt) : State :=
  s.modQueue q fun x => { x with descs := x.descs.map fun d => if d.id = id then { d with st := st } else d }

def Desc.word (d : Desc) (n : Nat) : Word := d.words.getD n 0
def Desc.op (d : Desc) : Nat := bits (Desc.word d 0) 63 56
def Desc.len (d : Desc) : Nat := bits (Desc.word d 3) 31 0
def Desc.haddr (d : Desc) : Nat := (Desc.word d 1).toNat
def Desc.daddr (d : Desc) : Nat := (Desc.word d 2).toNat

def DescSt.isDone : DescSt → Bool
  | .done _ _ _ => true
  | _ => false

def DescSt.copying : DescSt → Bool
  | .copy _ => true
  | .flush _ _ => true
  | _ => false

/-- Whether a descriptor has a reserved OP or a reserved field that is not 0 (Tables 15-9, 15-10). -/
def Desc.malformed (d : Desc) : Bool :=
  let w := Desc.word d
  let addr := if Desc.op d = 1 ∨ Desc.op d = 2 then bits (w 2) 63 56 else if Desc.op d = 3 ∨ Desc.op d = 4 then bits (w 2) 63 40 else 0
  decide (8 ≤ Desc.op d ∨ bits (w 0) 53 48 ≠ 0 ∨ bits (w 0) 31 0 ≠ 0 ∨ bits (w 3) 63 32 ≠ 0 ∨ w 5 ≠ 0 ∨ w 6 ≠ 0 ∨ w 7 ≠ 0 ∨ addr ≠ 0)

/-- Whether an OP is open to a function (Table 15-10). -/
def opAllowed (op func : Nat) : Bool := func == 0 || [0, 1, 2, 5].contains op

/-- A descriptor whose words have been read: it waits, or is complete with BADDESC or DENIED (R349).
    DEDUCED: notes/assumptions/86. -/
def State.descArrived (s : State) (q id : Nat) (words : List Word) : State :=
  match s.desc q id with
  | none => s
  | some d =>
    let d := { d with words := words }
    let st : DescSt := if Desc.malformed d then .done 1 0 0 else if !opAllowed (Desc.op d) (s.queueFunc q) then .done 2 0 0 else .wait
    s.modQueue q fun x => { x with descs := x.descs.map fun y => if y.id = id then { d with st := st } else y }

/-- The next descriptor of a queue that may start: those before it have started, and it has the order of R348. -/
def State.startable (s : State) (q : Nat) : Option Desc :=
  let ds := (s.queue q).descs
  match ds.find? (fun d => d.st == .wait) with
  | none => none
  | some d =>
    let early := ds.takeWhile fun e => e.id != d.id
    let copy := Desc.op d == 1 || Desc.op d == 2
    let fence := (Desc.word d 0).getLsbD 55
    if early.all (fun e => DescSt.isDone e.st || (copy && !fence && DescSt.copying e.st)) then some d else none

/-- The next startable descriptor of a queue, where it has an OP. -/
def State.startOp (s : State) (q : Nat) (op : Nat) : Option Desc :=
  match s.startable q with
  | some d => if Desc.op d = op then some d else none
  | none => none

/-! ### Copies (R350, R351) -/

/-- A copy ended with a status: complete, or first the zero-length read on port 1. -/
def State.endCopy (s : State) (q id : Nat) (c : Copy) (status : Nat) : State :=
  if c.port1 then (s.putDesc q id (.flush status c.moved)).hostOp ⟨0, 0, none, .zero q id, s.funcJob (s.queueFunc q)⟩
  else s.putDesc q id (.done status (BitVec.ofNat 64 c.moved) 0)

/-- The bytes of the next line of a copy: up to the next 512-byte boundary at either end (R338, R350). -/
def copyLine (d : Desc) (moved : Nat) : Nat :=
  min (Desc.len d - moved) (min (512 - (Desc.daddr d + moved) % 512) (512 - (Desc.haddr d + moved) % 512))

/-- A request for a line of a copy at its data address, or ADDRERR. -/
def State.copyRequest (s : State) (q : Nat) (d : Desc) (c : Copy) (b : Body) : State :=
  let func := s.queueFunc q
  let a := Desc.daddr d + c.moved
  match s.rindRequest (func == 0) (s.funcJob func) a b none (.copy q d.id) with
  | some s => s
  | none => (s.rindUnmapped (s.funcJob func) a).endCopy q d.id c 3

/-- The next line of a copy, or its end. -/
def State.copyNext (s : State) (q : Nat) (d : Desc) (c : Copy) : State :=
  if Desc.len d ≤ c.moved then s.endCopy q d.id c (if c.fill then 0x0A else 0)
  else
    let k := copyLine d c.moved
    let c := { c with line := k }
    let s := s.putDesc q d.id (.copy c)
    if Desc.op d = 1 then s.hostOp ⟨Desc.haddr d + c.moved, k, none, .h2d q d.id, s.funcJob (s.queueFunc q)⟩
    else s.copyRequest q d c (.rd (Desc.daddr d + c.moved) k)

/-- The copy of a number, if it is in progress. -/
def State.copyOf (s : State) (q id : Nat) : Option (Desc × Copy) :=
  match s.desc q id with
  | some d => match d.st with
    | .copy c => some (d, c)
    | _ => none
  | none => none

/-- A line moved, and the next. -/
def State.copyMoved (s : State) (q : Nat) (d : Desc) (c : Copy) (port1 : Bool) : State :=
  s.copyNext q d { c with moved := c.moved + c.line, port1 := c.port1 || port1 }

/-- The answer to a copy's request at its data address: a WACK moves a line of H2D; RDATA of D2H is written to the host, error fill
    as read. DEDUCED: notes/assumptions/85. -/
def State.copyAnswer (s : State) (q id : Nat) (st : NStatus) (data : List Byte) (fill : Bool) : State :=
  match s.copyOf q id with
  | none => s
  | some (d, c) =>
    if st ≠ .done then s.endCopy q id c 3
    else if Desc.op d = 1 then s.copyMoved q d c false
    else
      let c := { c with fill := c.fill || fill }
      (s.putDesc q id (.copy c)).hostOp ⟨Desc.haddr d + c.moved, c.line, some data, .d2h q id, s.funcJob (s.queueFunc q)⟩

/-- The copies in progress that have no request on the wafer network now, but will have. -/
def State.copiesToAsk (s : State) : Nat :=
  (s.rind.queues.flatMap fun q => q.2.descs.filter fun d => match d.st with
    | .copy _ => !s.rind.txns.any fun t => t.2 == some (.copy q.1 d.id)
    | _ => false).length

/-- Whether the Rind has tags left for n more requests, beside those that the copies in progress need (Table 8-2).
    DEDUCED: notes/assumptions/84. -/
def State.rindRoom (s : State) (n : Nat) : Bool := decide (s.rind.txns.length + s.copiesToAsk + n ≤ 1024)

/-- A copy started: a malformed operand completes it with BADDESC (R350). -/
def State.startCopy (s : State) (q : Nat) (op : Nat) : State :=
  match if s.rindRoom 1 then s.startOp q op else none with
  | none => s
  | some d =>
    if Desc.haddr d % 8 ≠ 0 ∨ Desc.daddr d % 8 ≠ 0 ∨ Desc.len d % 8 ≠ 0 ∨ Desc.len d < 8 ∨ 2 ^ 30 < Desc.len d then
      s.putDesc q d.id (.done 1 0 0)
    else s.copyNext q d {}

/-- H2D (R350): the next descriptor of a queue starts its copy from the host. -/
def execH2d (q : QueueNo) (s : State) : Out := .next (s.startCopy q.val 1)

/-- D2H (R350): the next descriptor of a queue starts its copy to the host. -/
def execD2h (q : QueueNo) (s : State) : Out := .next (s.startCopy q.val 2)

/-! ### Host accesses through the data windows (R343, R344) -/

/-- Max_Payload_Size of a port. -/
def payloadOf (p : Nat) : Nat := if Config.maxPayload p = 128 then 128 else if Config.maxPayload p = 256 then 256 else 512

/-- The bytes of a read returned on a port, in completions of at most its payload (R338, R343). -/
def State.sendData (s : State) (p : Fin 2) (func tag : Nat) (d : List Byte) : State :=
  let m := payloadOf p.val
  (List.range ((d.length + m - 1) / m)).foldl (fun s i => s.sendTlp p.val (.cpl func tag ((d.drop (m * i)).take m))) s

/-- A part of a host read answered; the last part answers the read on port 0. -/
def State.barPart (s : State) (id ofs : Nat) (st : NStatus) (data : List Byte) : State :=
  match s.rind.bars.find? (fun j => j.id == id) with
  | none => s
  | some j =>
    let j := { j with left := j.left - 1, parts := j.parts ++ [(ofs, data)], bad := j.bad || st != .done }
    if 0 < j.left then s.modRind fun x => { x with bars := x.bars.map fun y => if y.id = id then j else y }
    else
      let s := s.modRind fun x => { x with bars := x.bars.filter fun y => y.id != id }
      if !s.linkOf 0 then s
      else if j.bad then s.sendTlp 0 (.cplCa j.func j.tag)
      else s.sendData 0 j.func j.tag (j.parts.foldl (fun b p => overwrite b p.1 p.2) (List.replicate j.len 0))

/-- The answer to a request of the Rind, by its tag. -/
def State.rindAnswer (s : State) (tag : Nat) (st : NStatus) (data : List Byte) (fill : Bool) : State :=
  match tget none s.rind.txns tag with
  | none => s
  | some u =>
    let s := (s.agentAnswered tag).modRind fun x => { x with txns := tset none x.txns tag none }
    match u with
    | .bar id ofs => s.barPart id ofs st data
    | .copy q id => s.copyAnswer q id st data fill

/-! ### Operations of the host agent (R220, R338, R355) -/

/-- A part of a host direct access done; the last part answers it. -/
def State.directPart (s : State) (id ofs : Nat) (data : List Byte) (fill : Bool) : State :=
  match s.agent.direct.find? (fun j => j.id == id) with
  | none => s
  | some j0 =>
    let j := Direct.got j0 ofs data fill
    if 0 < j.left then s.modAgent fun a => { a with direct := a.direct.map fun y => if y.id = id then j else y }
    else (s.modAgent fun a => { a with direct := a.direct.filter fun y => y.id != id }).directDone j 0x3C 1

/-- The line of the Cave that a memory operation of a home or of the migration engine moves, if it moves one. -/
def State.opLine (s : State) (op : HostOp) : Option Nat :=
  let moved (i : Nat) : Option Nat := s.agent.move.map fun m => 4096 * m.page + i
  match op.use with
  | .line l => some l
  | .store l => some l
  | .wb l => some l
  | .copy i => moved i
  | .copied i => moved i
  | _ => none

/-- The event of a host memory operation that failed (R220): a read's gives its line, a write's the page and, in [63:56],
    the sectors. The read or write of an entry has no line, and no other operation records one.
    DEDUCED: notes/assumptions/61. -/
def State.hostError (s : State) (op : HostOp) : State :=
  match s.opLine op, op.use with
  | some l, _ =>
    let mask := if op.write.isSome then (sectorsOf op.iova op.len).foldl (fun m k => m ||| 2 ^ (k % 8)) 0 else 0
    s.post 0x0C none none 0x3C 1 (BitVec.ofNat 64 (mask <<< 56 + 512 * l))
  | none, .pte _ => let (w, s) := s.freshWord; s.post 0x0C none none 0x3C 1 w
  | none, .ptw _ => let (w, s) := s.freshWord; s.post 0x0C none none 0x3C 1 w
  | none, .posted => let (w, s) := s.freshWord; s.post 0x0C none none 0x3C 1 w
  | none, _ => s

/-- A host read over: its data, or none where it failed, given to what it was for. -/
def State.hostDone (s : State) (op : HostOp) (data : Option (List Byte)) : State :=
  let s := if data.isNone then s.hostError op else s
  match op.use with
  | .line l =>
    let d := data.getD (rawFill 512)
    match (s.home 48).slots.find? fun t => t.line == l with
    | some t =>
      let r := HomeReq.range t.req
      (s.txnMemory 48 l ((d.drop r.1).take r.2) data.isNone).homeGo 48
    | none => s
  | .direct id ofs => s.directPart id ofs (data.getD (rawFill op.len)) data.isNone
  | .pte page => s.pteGot page (match data with | some d => BitVec.ofNat 64 (ofBytes d) | none => fillWord)
  | .copy i => s.moveLine i (data.getD (rawFill 512))
  | .desc q id => match data with
    | some d => s.descArrived q id ((List.range 8).map fun i => BitVec.ofNat 64 (ofBytes ((d.drop (8 * i)).take 8)))
    | none => s.putDesc q id (.done 4 0 0)
  | .h2d q id => match s.copyOf q id, data with
    | some (d, c), some b => s.copyRequest q d c (.wr (Desc.daddr d + c.moved) b)
    | some (_, c), none => s.endCopy q id c 4
    | none, _ => s
  | .d2h _ _ => s
  | .zero q id => match s.desc q id with
    | some d => match d.st with
      | .flush st n => s.putDesc q id (.done (if data.isSome then st else 4) (BitVec.ofNat 64 n) 0)
      | _ => s
    | none => s
  | _ => s

/-- A host write posted on a port, or failed. -/
def State.hostWritten (s : State) (op : HostOp) (port : Option Nat) : State :=
  let s := if port.isNone then s.hostError op else s
  match op.use with
  | .direct id ofs => s.directPart id ofs [] false
  | .store l => (s.txnMemory 48 l [] false).homeGo 48
  | .ptw _ => s.ptStored
  | .copied i => s.moveWritten i
  | .d2h q id => match s.copyOf q id with
    | some (d, c) => if port.isSome then s.copyMoved q d c (port == some 1) else s.endCopy q id c 4
    | none => s
  | _ => s

/-- The column of the field whose access an operation is part of.
    DEDUCED: notes/assumptions/88. -/
def State.opCol (s : State) (op : HostOp) : Option Nat :=
  match op.use with
  | .direct id _ => match s.agent.direct.find? (fun j => j.id == id) with
    | some j => if j.head.sfield < 48 then some (j.head.sfield % 8) else none
    | none => none
  | _ => none

/-- The port that an operation chooses (R355). -/
def State.opPort (s : State) (op : HostOp) : Nat :=
  match op.use with
  | .desc _ _ => 0
  | .zero _ _ => 1
  | .h2d q _ => if s.queueFunc q = 0 then s.portFor op.iova none true else 0
  | .d2h q _ => if s.queueFunc q = 0 then s.portFor op.iova none true else 0
  | _ => s.portFor op.iova (s.opCol op) false

/-- The function whose Requester ID a TLP carries on a port: its own on port 0, the companion function's on port 1 (R355). -/
def requesterOn (p func : Nat) : Nat := if p = 1 then 5 else func

/-- The function that an operation is made on behalf of: a queue's, or the PF for the host agent (R355). -/
def State.opFunc (s : State) (op : HostOp) : Nat :=
  match op.use with
  | .desc q _ => s.queueFunc q
  | .h2d q _ => s.queueFunc q
  | .d2h q _ => s.queueFunc q
  | .zero q _ => s.queueFunc q
  | _ => 0

/-- A write sent in TLPs of at most the port's payload (R338). -/
def State.sendWrite (s : State) (p func iova : Nat) (d : List Byte) : State :=
  let m := payloadOf p
  (List.range ((d.length + m - 1) / m)).foldl (fun s i =>
    s.sendTlp p (.write (requesterOn p func) (iova + m * i) ((d.drop (m * i)).take m))) s

/-- A read sent on a port under its lowest free tag. -/
def State.sendRead (s : State) (p : Nat) (op : HostOp) : State :=
  let tag := leastFree ((s.agent.reads.filter fun r => r.2.1 == p).map fun r => (r.1, ()))
  (s.modAgent fun a => { a with reads := a.reads ++ [(tag, p, op)] }).sendTlp p (.read (requesterOn p (s.opFunc op)) tag op.iova op.len)

/-- An operation issued: a write posted, a read sent, or with both links down a timeout (R355). -/
def State.issueOp (s : State) (op : HostOp) : State :=
  match s.livePort (s.opPort op), op.write with
  | some p, some d => (s.sendWrite p (s.opFunc op) op.iova d).hostWritten op (some p)
  | some p, none => s.sendRead p op
  | none, some _ => s.hostWritten op none
  | none, none => s.hostDone op none

/-- The bytes of the TLPs of an operation: a read's one, or those of its write, each of at most the payload of its port (R338). -/
def State.opTlps (s : State) (op : HostOp) : List Nat :=
  match op.write with
  | none => [op.len]
  | some d =>
    let m := payloadOf ((s.livePort (s.opPort op)).getD 0)
    (List.range ((d.length + m - 1) / m)).map fun i => min m (d.length - m * i)

/-- Whether two operations touch the same host memory and one of them writes it. -/
def HostOp.clash (a b : HostOp) : Bool :=
  (a.write.isSome || b.write.isSome) && decide (a.iova < b.iova + b.len ∧ b.iova < a.iova + a.len)

/-- n units of a requester of an instance used, if it has been granted them. -/
def State.arbTakeN (s : State) (base i : Nat) : Nat → Option State
  | 0 => some s
  | n + 1 => (s.arbTake base i).bind fun s => s.arbTakeN base i n

/-- HOST_MEMORY_OPERATION (R216, R220, R221): the n-th operation that waits, which the host-DMA arbiter has granted its TLPs as
    requester of its job domain. It waits behind an earlier one that touches the same bytes, since a read observes the writes
    before it. -/
def execHostMemoryOperation (n : Nat) (s : State) : Out :=
  match s.agent.ops[n]? with
  | none => .next s
  | some op =>
    if (s.agent.ops.take n).any (HostOp.clash op) then .next s
    else match s.arbTakeN (arbBase .host) op.job.val (s.opTlps op).length with
      | none => .next s
      | some s => .next ((s.modAgent fun a => { a with ops := a.ops.eraseIdx n }).issueOp op)

/-- A read outstanding under a tag of a port. -/
def State.readOf (s : State) (port : Fin 2) (tag : Nat) : Option HostOp :=
  (s.agent.reads.find? fun r => r.1 == tag && r.2.1 == port.val).map fun r => r.2.2

/-- A read no longer outstanding. -/
def State.dropRead (s : State) (port : Fin 2) (tag : Nat) : State :=
  s.modAgent fun a => { a with reads := a.reads.filter fun r => !(r.1 == tag && r.2.1 == port.val) }

/-- PCIE_COMPLETION (R220): the data of a read, or none for an error or a poisoned completion. -/
def execPcieCompletion (port : Fin 2) (tag : Nat) (data : Option (List Byte)) (s : State) : Out :=
  match s.readOf port tag with
  | none => .next s
  | some op =>
    if !s.linkOf port.val then .next s
    else .next (((s.dropRead port tag).telRind (4 + port.val) 1).hostDone op (data.filter fun d => d.length == op.len))

/-- COMPLETION_TIMEOUT (R338): a read has had no completion; it is handled as one with error status. -/
def execCompletionTimeout (port : Fin 2) (tag : Nat) (s : State) : Out :=
  match s.readOf port tag with
  | none => .next s
  | some op => .next ((s.dropRead port tag).hostDone op none)

/-! ### Descriptors (R348, R349) -/

/-- The descriptors of a queue that are fetched and incomplete; one that waits for room in the CQ is complete (R348). -/
def QueueSt.incomplete (x : QueueSt) : Nat := x.descs.countP fun d => !DescSt.isDone d.st

/-- DESCRIPTOR_FETCH (R348): the read of the next descriptor of a running queue, at most 32 incomplete. -/
def execDescriptorFetch (q : QueueNo) (s : State) : Out :=
  let head := s.fld (queueCa q.val 3) 63 48
  let x := s.queue q.val
  if s.queueState q.val ≠ 1 ∨ head = x.tail ∨ 32 ≤ QueueSt.incomplete x then .next s
  else
    let next := (head + 1) % s.sqSize q.val
    let id := s.rind.nextId
    let s := (s.modRind fun r => { r with nextId := id + 1 }).setFld (queueCa q.val 3) 63 48 next
    let s := s.modQueue q.val fun y => { y with descs := y.descs ++ [⟨id, [], next, .fetch⟩] }
    let iova := (s.reg (queueCa q.val 1)).toNat + 64 * head
    .next (s.issueOp ⟨iova, 64, none, .desc q.val id, s.funcJob (s.queueFunc q.val)⟩)

/-- DESC_NOP (R349). -/
def execDescNop (q : QueueNo) (s : State) : Out :=
  match s.startOp q.val 0 with
  | some d => .next (s.putDesc q.val d.id (.done 0 0 0))
  | none => .next s

/-- A write of a control address by the host: an aligned 8-byte one takes effect, any other is discarded with an event that gives the
    address (R341).
    DEDUCED: notes/assumptions/87. -/
def State.hostRegWrite (s : State) (ca : Nat) (data : List Byte) : State :=
  if data.length = 8 ∧ ca % 8 = 0 then s.controlWrite ca (BitVec.ofNat 64 (ofBytes data)) else s.postRind 0x04 none ca

/-- DESC_REGWR (R349): VALUE written as a BAR0 write would write it. -/
def execDescRegwr (q : QueueNo) (s : State) : Out :=
  match s.startOp q.val 3 with
  | some d => .next ((s.hostRegWrite (Desc.daddr d) (toBytes 8 (Desc.word d 4).toNat)).putDesc q.val d.id (.done 0 0 0))
  | none => .next s

/-- DESC_REGRD (R349): a control address read into RESULT; a misaligned address is read as all ones with the event of R341. -/
def execDescRegrd (q : QueueNo) (s : State) : Out :=
  match s.startOp q.val 4 with
  | some d =>
    if Desc.daddr d % 8 ≠ 0 then .next ((s.postRind 0x04 none (Desc.daddr d)).putDesc q.val d.id (.done 0 (BitVec.allOnes 64) 0))
    else
      let (_, w, s) := s.controlRead (Desc.daddr d) true
      .next (s.putDesc q.val d.id (.done 0 w 0))
  | none => .next s

/-- DESC_RESET (R365): the reset that VALUE names is requested; one with a reserved code is malformed. It waits while the core restarts
    or a reset is in progress. -/
def execDescReset (q : QueueNo) (s : State) : Out :=
  match s.startOp q.val 7 with
  | some d =>
    let v := Desc.word d 4
    if s.rind.fw.restart then .next s
    else if bits v 55 53 = 0 then .next (s.putDesc q.val d.id (.done 0 0 0))
    else if !resetOk v then .next (s.putDesc q.val d.id (.done 1 0 0))
    else if !s.rind.resets.isEmpty then .next s
    else .next ((s.putDesc q.val d.id .reset).modRind fun x => { x with resets := [{ word := v, q := some q.val }] })
  | none => .next s

/-! ### Completion entries and messages (R348, R351, R354) -/

/-- Whether the CQ of a queue is full. -/
def State.cqFull (s : State) (q : Nat) : Bool :=
  decide ((s.fld (queueCa q 3) 47 32 + 1) % s.cqSize q = s.fld (queueCa q 3) 31 16)

/-- An entry written at the tail of a CQ: its phase bit, and the tail and phase advanced. -/
def State.cqWrite (s : State) (q : Nat) (w0 : Nat) (w1 w2 w3 : Word) : State :=
  let ca := queueCa q 3
  let tail := s.fld ca 47 32
  let ph := s.fld ca 15 15
  let iova := (s.reg (queueCa q 2)).toNat + 32 * tail
  let data := toBytes 8 (w0 + ph <<< 63) ++ toBytes 8 w1.toNat ++ toBytes 8 w2.toNat ++ toBytes 8 w3.toNat
  let s := match s.livePort 0 with
    | some p => s.sendTlp p (.write (requesterOn p (s.queueFunc q)) iova data)
    | none => s
  let next := (tail + 1) % s.cqSize q
  let s := (s.setFld ca 47 32 next).setFld ca 15 15 (if next = 0 then 1 - ph else ph)
  let now := s.rind.ticks
  s.modQueue q fun x => { x with since := x.since + 1, oldest := if x.since = 0 then now else x.oldest }

/-- COMPLETION_WRITE (R348): the completion entry of a queue's oldest descriptor, once it is complete and the CQ has room.
    DEDUCED: notes/assumptions/89. -/
def execCompletionWrite (q : QueueNo) (s : State) : Out :=
  match (s.queue q.val).descs with
  | [] => .next s
  | d :: rest =>
    match d.st with
    | .done st result detail =>
      if s.cqFull q.val || (s.livePort 0).isNone then .next s
      else
        let s := (s.telRind 2 1).modQueue q.val fun x => { x with descs := rest, now := x.now || (Desc.word d 0).getLsbD 54 }
        .next (s.cqWrite q.val (st <<< 48 + d.head <<< 32 + bits (Desc.word d 0) 47 32 <<< 16 + Desc.op d <<< 8) result detail s.now)
    | _ => .next s

def msixKey (func vec dw : Nat) : Nat := 4 * (1024 * func + vec) + dw

/-- A word of an MSI-X table entry; a vector is masked at reset. -/
def State.msixWord (s : State) (k : Nat) : BitVec 32 := tget 0 s.rind.pcie.msix k ^^^ (if k % 4 = 3 then 1 else 0)

/-- An MSI-X message sent on port 0, or its vector's pending bit set (R354). -/
def State.msix (s : State) (func vec : Nat) : State :=
  let k := msixKey func vec 0
  let p := 1024 * func + vec
  if (s.msixWord (k + 3)).getLsbD 0 then
    s.modPcie fun x => { x with pba := if x.pba.contains p then x.pba else x.pba ++ [p] }
  else
    let addr := BitVec.ofNat 64 ((s.msixWord k).toNat + (s.msixWord (k + 1)).toNat <<< 32)
    let s := s.modPcie fun x => { x with pba := x.pba.erase p }
    (s.sendTlp0 (.msix func vec addr ((s.msixWord (k + 2)).setWidth 64))).telRind 3 1

/-- Whether a message of a queue is due (R354). -/
def State.msixDue (s : State) (q : Nat) : Bool :=
  let x := s.queue q
  let ca := queueCa q 0
  let itime := s.fld ca 31 20
  x.now || (s.bit ca 40 && decide (0 < x.since) &&
    (decide (max 1 (s.fld ca 39 32) ≤ x.since) || (itime != 0 && decide (1000 * itime ≤ s.rind.ticks - x.oldest))))

/-- MSIX_MESSAGE (R354): the message of a queue that is due. -/
def execMsixMessage (q : QueueNo) (s : State) : Out :=
  if !s.msixDue q.val then .next s
  else
    let s := s.modQueue q.val fun x => { x with since := 0, now := false }
    .next (s.msix (s.queueFunc q.val) (s.fld (queueCa q.val 0) 51 41))

/-! ### The event log (R352, R417) -/

def logNextCa : Nat := rindCa 2 0x10
def logLostCa : Nat := rindCa 2 0x18
def logCa (i w : Nat) : Nat := rindCa 2 (0x10000 + 32 * i + 8 * w)

/-- Word 0 of an event entry (Table 15-13) without its phase and kind. -/
def eventWord (e : Event) : Nat :=
  (e.code % 256) <<< 48 + (match e.job with | some j => 1 <<< 47 + (j % 4) <<< 45 | none => 0) +
  (match e.ctx with | some c => 1 <<< 44 + (c % 4) <<< 42 | none => 0) + (e.field % 64) <<< 36 + (e.site % 64) <<< 30

/-- The queue that an event is offered to (R352). -/
def State.eventQueue (s : State) (e : Event) : Option Nat :=
  let w := s.reg evqCa
  let at9 (n : Nat) : Option Nat := if w.getLsbD (9 * n + 8) then some (bits w (9 * n + 7) (9 * n)) else none
  match e.job with
  | some j => match at9 (j % 4) with
    | some q => some q
    | none => at9 4
  | none => at9 4

/-- An event offered to its queue: written to its CQ, or dropped and counted where that is full. -/
def State.offer (s : State) (e : Event) (seq : Word) : State :=
  match s.eventQueue e with
  | none => s
  | some q =>
    if s.queueState q = 0 then s
    else if s.cqFull q || (s.livePort 0).isNone then s.bumpSat (queueCa q 3) 11 0 1
    else s.cqWrite q (1 <<< 61 + eventWord e) e.detail seq e.time

/-- EVENT_RECORD (R417): the next event that has come to the Rind is given its LOGSEQ, logged and offered. -/
def execEventRecord (s : State) : Out :=
  match s.events with
  | [] => .next s
  | e :: rest =>
    if !s.rind.pins.standby then .next s
    else
      let seq := s.reg logNextCa
      let i := seq.toNat % 4096
      let s := { s with events := rest }
      let s := (((s.setReg (logCa i 0) (BitVec.ofNat 64 (eventWord e))).setReg (logCa i 1) e.detail).setReg (logCa i 2) seq).setReg
        (logCa i 3) e.time
      let s := if 4096 ≤ seq.toNat then s.count logLostCa 1 else s
      .next ((s.setReg logNextCa (seq + 1)).offer e seq)

end Sys2Proof.Machine
end

