-- ==== Sys2Proof/Machine/Bars.lean ====
section
/-! DEFINITION. What the host does to the functions (R336–R344, R366, R367): accesses through BAR0 and BAR2, function resets, power
states and links. -/

namespace Sys2Proof.Machine

/-! ### Functions -/

/-- What identifies a function (Table 15-1): its vendor, device and class codes and its Revision ID, and the bytes of its BARs 0, 2
    and 4, 0 for one it does not have. -/
structure PciId where
  vendor   : BitVec 16
  device   : BitVec 16
  cls      : BitVec 24
  revision : Byte
  bar0     : Nat
  bar2     : Nat
  bar4     : Nat
  deriving DecidableEq, Repr

/-- Table 15-1 (R336). -/
def pciId (func : Func) : PciId :=
  let id (device : BitVec 16) (b0 b2 b4 : Nat) : PciId := ⟨0x1F3D, device, 0x120000, Config.stepping, b0, b2, b4⟩
  if func = 0 then id 0x0048 (2 ^ 26) (2 ^ 36) (2 ^ 20)
  else if func = 5 then id 0x004A (2 ^ 16) 0 0
  else id 0x0049 (2 ^ 16) (2 ^ 34) (2 ^ 18)

/-- The capabilities of Table 15-2 that the rules name. -/
inductive PciCap where
  | powerManagement | msix | pciExpress | aer | sriov | secondary | dataLink | phy16 | phy32 | phy64 | serial
  deriving DecidableEq, Repr

/-- The capabilities of a function, with the offset of each in the PF's configuration space (R337). -/
def pciCaps (func : Func) : List (PciCap × Nat) :=
  let all : List (PciCap × Nat) := [(.powerManagement, 0x040), (.msix, 0x050), (.pciExpress, 0x070), (.aer, 0x100), (.sriov, 0x148),
    (.secondary, 0x188), (.dataLink, 0x1B0), (.phy16, 0x1C0), (.phy32, 0x200), (.phy64, 0x240), (.serial, 0x300)]
  let only (cs : List PciCap) : List (PciCap × Nat) := all.filter fun c => cs.contains c.1
  if func = 0 then all
  else if func = 5 then only [.powerManagement, .pciExpress, .aer, .phy16, .phy32, .phy64]
  else only [.pciExpress, .msix, .aer]

/-- The port of a function (Table 15-1). -/
def portOf (func : Func) : Fin 2 := if func = 5 then 1 else 0

/-- Whether a function is there and in D0: a VF exists while VF Enable is set.
    DEDUCED: notes/assumptions/92. -/
def State.funcOn (s : State) (func : Func) : Bool :=
  (func == 0 || func == 5 || s.rind.pcie.vfEnable) && !s.rind.pcie.d3hot.contains func.val

/-- A TLP of a function taken in, while its port's link is up. -/
def State.received (s : State) (func : Func) (f : State → State) : Out :=
  if s.linkOf (portOf func).val then .next (f (s.telRind (4 + (portOf func).val) 1)) else .next s

/-- A completion sent on the port of a function. -/
def State.complete (s : State) (func : Func) (t : Tlp) : State := s.sendTlp (portOf func).val t

/-! ### BAR0 (R339–R342) -/

/-- What an offset of BAR0 selects: a control address; a place of the MSI-X table or PBA; a reserved place, recorded as an access to a
    reserved control address; or nothing, which reads all ones. -/
inductive BarSpot where
  | ca (a : Nat)
  | table (ofs : Nat)
  | pba (ofs : Nat)
  | reserved
  | none
  deriving DecidableEq, Repr

/-- The block of a window of PF BAR0 (Table 15-4). -/
def barWindow (n : Nat) : Option Nat :=
  [rindCa 0 0, rindCa 1 0, rindCa 2 0, rindCa 3 0, hostAgentCa 0 0, hostAgentCa 1 0, edgeCa 0 0, edgeCa 1 0,
   mkCa 0x3D 1 0 0, mkCa 0x3D 2 0 0, fabricCa 0][n]?

/-- RIND_APERTURE_BASE.BASE. -/
def State.apertureBase (s : State) : Nat := s.fld (rindCa 0 0x08) 15 0

/-- The place that an offset of a function's BAR0 selects (Table 15-4, R336, R337, R343). -/
def State.barSpot (s : State) (func : Func) (off : Nat) : BarSpot :=
  if func = 0 then
    if off < 0x1000000 then (match barWindow (off / 2 ^ 20) with | some a => .ca (a + off % 2 ^ 20) | none => .reserved)
    else if off < 0x2000000 then .ca (s.apertureBase <<< 24 + off % 2 ^ 24)
    else if off < 0x2004000 then .table (off - 0x2000000)
    else if off < 0x2004080 then .pba (off - 0x2004000)
    else .reserved
  else if func = 5 then
    let a := mkCa 0x3D 2 0 0 + off
    if off < 0x10000 ∧ (decodeCa (a - a % 8)).isSome then .ca a else .none
  else if off < 0x20 then .ca (dwinCa func.val (off / 8) + off % 8)
  else if 0x8000 ≤ off ∧ off < 0x9000 then .table (off - 0x8000)
  else if 0x9000 ≤ off ∧ off < 0x9020 then .pba (off - 0x9000)
  else .none

/-- A write of one word of an MSI-X table: an unmasked vector that is pending sends its message (R354). -/
def State.msixPut (s : State) (func : Func) (i : Nat) (v : BitVec 32) : State :=
  let k := msixKey func.val 0 0 + i
  let v := if i % 4 = 3 then v &&& 1 else if i % 4 = 0 then v &&& ~~~(3#32) else v
  let s := s.modPcie fun x => { x with msix := tset 0 x.msix k (v ^^^ (if k % 4 = 3 then 1 else 0)) }
  if i % 4 = 3 ∧ v = 0 ∧ s.rind.pcie.pba.contains (1024 * func.val + i / 4) then s.msix func.val (i / 4) else s

/-- A write into the MSI-X table: aligned, of 4 or 8 bytes; what any other leaves there is not stated.
    DEDUCED: notes/assumptions/91. -/
def State.tableWrite (s : State) (func : Func) (ofs : Nat) (d : List Byte) : State :=
  if ofs % d.length = 0 ∧ (d.length = 4 ∨ d.length = 8) then
    (List.range (d.length / 4)).foldl (fun s i => s.msixPut func (ofs / 4 + i) (BitVec.ofNat 32 (ofBytes ((d.drop (4 * i)).take 4)))) s
  else
    let (w, s) := s.freshWord
    s.msixPut func (ofs / 4) (w.setWidth 32)

/-- Eight bytes of an MSI-X table or a PBA from an aligned offset. -/
def State.msixView (s : State) (func : Func) (pba : Bool) (ofs : Nat) : Word :=
  if pba then BitVec.ofNat 64 ((List.range 64).foldl (fun n i =>
    if s.rind.pcie.pba.contains (1024 * func.val + 8 * ofs + i) then n + 2 ^ i else n) 0)
  else
    let k := msixKey func.val 0 0 + ofs / 4
    BitVec.ofNat 64 ((s.msixWord k).toNat + (s.msixWord (k + 1)).toNat <<< 32)

/-- An access to a reserved place of BAR0 (R22, R339): the control address that its event would give is not stated.
    DEDUCED: notes/assumptions/90. -/
def State.barReserved (s : State) : State :=
  let (w, s) := s.freshWord
  s.postRind 0x05 none (w.toNat % 2 ^ 40)

/-- A BAR0 write performed. -/
def State.bar0Write (s : State) (func : Func) (off : Nat) (d : List Byte) : State :=
  match s.barSpot func off with
  | .ca a => s.hostRegWrite a d
  | .table o => s.tableWrite func o d
  | .pba _ => s
  | .reserved => s.barReserved
  | .none => s

/-- BAR0_WRITE (R339–R342). -/
def execBar0Write (func : Func) (off : BitVec 26) (data : List Byte) (s : State) : Out :=
  s.received func fun s => if s.funcOn func && !data.isEmpty then s.bar0Write func off.toNat data else s

/-- A BAR0 read performed: the bytes, or none where it is completed with Completer Abort (R341). -/
def State.bar0Read (s : State) (func : Func) (off len : Nat) : Option (List Byte) × State :=
  let cut (w : Word) : List Byte := ((toBytes 8 w.toNat).drop (off % 8)).take len
  let good := (len = 1 ∨ len = 2 ∨ len = 4 ∨ len = 8) ∧ off % len = 0
  match s.barSpot func off with
  | .ca a =>
    if good then
      let (_, w, s) := s.controlRead (a - a % 8) (decide (len = 8))
      (some (cut w), s)
    else (none, s.postRind 0x04 none a)
  | .table o =>
    if good ∧ 4 ≤ len then (some (cut (s.msixView func false (o - o % 8))), s)
    else
      let (w, s) := s.freshWord
      (some ((toBytes 8 w.toNat).take len), s)
  | .pba o =>
    if good ∧ 4 ≤ len then (some (cut (s.msixView func true (o - o % 8))), s)
    else
      let (w, s) := s.freshWord
      (some ((toBytes 8 w.toNat).take len), s)
  | .reserved => (some (List.replicate len 0xFF), s.barReserved)
  | .none => (some (List.replicate len 0xFF), s)

/-- BAR0_READ (R339–R342). -/
def execBar0Read (func : Func) (tag : Nat) (off : BitVec 26) (len : Fin 4097) (s : State) : Out :=
  s.received func fun s =>
    if !s.funcOn func then s.complete func (.cplUr func.val tag)
    else match s.bar0Read func off.toNat len.val with
      | (some d, s) => s.sendData (portOf func) func.val tag d
      | (none, s) => s.complete func (.cplCa func.val tag)

/-! ### BAR2 (R343, R344) -/

/-- A part of an access through a data window made, or found to be an address error. -/
def State.bar2Part (s : State) (func : Func) (id ofs addr : Nat) (b : Body) : State :=
  let job := s.funcJob func.val
  match s.rindRequest (func == 0) job addr b (some 0) (.bar id ofs) with
  | some s => s
  | none => (s.rindUnmapped job addr).barPart id ofs .addrErr []

/-- An access through a mapped window: its lines read, or written and forgotten. -/
def State.bar2Go (s : State) (func : Func) (tag addr : Nat) (write : Option (List Byte)) (len : Nat) : State :=
  let id := s.rind.nextId
  match write with
  | some d =>
    let s := s.modRind fun x => { x with nextId := id + 1 }
    (lineParts addr 0 d.length 9).foldl (fun s p => s.bar2Part func id p.1 p.2.1 (.wr p.2.1 ((d.drop p.1).take p.2.2))) s
  | none =>
    let parts := lineParts addr 0 len 9
    let s := s.modRind fun x => { x with nextId := id + 1, bars := x.bars ++ [⟨id, func.val, tag, len, parts.length, [], false⟩] }
    parts.foldl (fun s p => s.bar2Part func id p.1 p.2.1 (.rd p.2.1 p.2.2)) s

/-- BAR2_ACCESS (R343, R344): a read of `len` bytes, or a write. The access waits while the Rind may lack a tag for each of its
    lines. -/
def execBar2Access (func : Func) (tag : Nat) (off : BitVec 36) (write : Option (List Byte)) (len : Fin 4097) (s : State) : Out :=
  if !s.rindRoom 9 then .next s
  else s.received func fun s =>
    let i := off.toNat / 2 ^ 32
    let w := s.reg (dwinCa func.val i)
    let n := match write with | some d => d.length | none => len.val
    let ur (s : State) : State := if write.isSome then s else s.complete func (.cplUr func.val tag)
    if !s.funcOn func || func == 5 || (func != 0 && decide (4 ≤ i)) || !w.getLsbD 63 then ur s
    else if n = 0 ∨ 4096 < n then ur s
    else s.bar2Go func tag (bits w 55 32 <<< 32 + off.toNat % 2 ^ 32) write len.val

/-! ### Function resets, links and power states (R337, R355, R366, R367) -/

/-- A descriptor that a function reset discards: what becomes of its operation (R367). -/
def State.discard (s : State) (q : Nat) (d : Desc) : State :=
  match d.st with
  | .load => s.dropLoad
  | .fwload => s.loadStat 9 0 0
  | .reset =>
    let rs := s.rind.resets.map fun r => if r.q = some q then { r with q := none } else r
    s.modRind fun x => { x with resets := rs }
  | _ => s

/-- The queues of a function disabled, and their descriptors discarded (R366). -/
def State.dropQueues (s : State) (func : Nat) : State :=
  ((List.range 256).filter fun q => s.queueFunc q == func).foldl (fun s q =>
    let s := (s.queue q).descs.foldl (fun s d => s.discard q d) s
    ((s.setFld (queueCa q 0) 63 63 0).setQueueState q 0).modQueue q fun _ => {}) s

/-- The data windows of a function cleared. -/
def State.dropWindows (s : State) (func : Nat) : State :=
  (List.range 16).foldl (fun s i => s.setReg (dwinCa func i) 0) s

/-- A job-domain reset requested by the device (R366). -/
def State.askJobReset (s : State) (j : JobNo) : State :=
  s.modRind fun x => { x with resets := x.resets ++ [{ word := BitVec.ofNat 64 (5 <<< 53 + j.val <<< 28) }] }

/-- A function out of D3hot. -/
def State.toD0 (s : State) (func : Nat) : State := s.modPcie fun x => { x with d3hot := x.d3hot.filter fun f => f != func }

/-- A Function Level Reset of a VF, with or without the reset of its domain. -/
def State.vfReset (s : State) (v : Nat) (job : Bool) : State :=
  let s := ((s.dropQueues v).dropWindows v).toD0 v
  if job then s.askJobReset (s.funcJob v) else s

/-- A Function Level Reset of the PF: every function's queues and windows, and VF Enable. -/
def State.pfReset (s : State) : State :=
  let s := (List.range 5).foldl (fun s f => s.vfReset f false) s
  s.modPcie fun x => { x with vfEnable := false }

/-- FUNCTION_LEVEL_RESET (R366). -/
def execFunctionLevelReset (func : Func) (s : State) : Out :=
  if !s.linkOf (portOf func).val then .next s
  else if func = 0 then .next s.pfReset
  else if func = 5 then .next (s.toD0 5)
  else .next (if s.rind.pcie.vfEnable then s.vfReset func.val true else s)

/-- PERST# of a port asserted (R366): its link and its functions' configuration are reset. -/
def execPerst (port : Fin 2) (s : State) : Out :=
  if port = 0 then
    .next ((s.pfReset.modPins fun p => { p with link0 := false }).modPcie fun x => { x with msix := [], pba := [] })
  else .next ((s.toD0 5).modPins fun p => { p with link1 := false })

/-- VF_ENABLE_CLEAR (R366): the SR-IOV capability's VF Enable is written. Clearing it resets every VF as its Function Level Reset does;
    `set` writes it to 1. -/
def execVfEnableClear (set : Bool) (s : State) : Out :=
  if !s.linkOf 0 then .next s
  else if set then .next (s.modPcie fun x => { x with vfEnable := true })
  else if !s.rind.pcie.vfEnable then .next s
  else
    let s := [1, 2, 3, 4].foldl (fun s v => s.vfReset v true) s
    .next (s.modPcie fun x => { x with vfEnable := false })

/-- D3HOT_TRANSITION (R337): a function that has Power Management goes to D3hot, unless one of its queues is enabled, or back to D0. -/
def execD3hotTransition (func : Func) (hot : Bool) (s : State) : Out :=
  if !(pciCaps func).any (fun c => c.1 == .powerManagement) then .next s
  else if !hot then .next (s.toD0 func.val)
  else if s.queuesOn func.val then .next s
  else .next (s.modPcie fun x => { x with d3hot := if x.d3hot.contains func.val then x.d3hot else x.d3hot ++ [func.val] })

/-- PCIE_LINK_DOWN (R355). -/
def execPcieLinkDown (port : Fin 2) (s : State) : Out :=
  .next (s.modPins fun p => if port = 0 then { p with link0 := false } else { p with link1 := false })

/-- PCIE_LINK_UP (R355, R388). -/
def execPcieLinkUp (port : Fin 2) (s : State) : Out :=
  if s.domState 49 ≠ 7 then .next s
  else .next (s.modPins fun p => if port = 0 then { p with link0 := true } else { p with link1 := true })

end Sys2Proof.Machine
end

