-- ==== Sys2Proof/Machine/Load.lean ====
section
/-! DEFINITION. Cheorser images and firmware packages (R357–R364, R368): their form, what they may write, and their loading. -/

namespace Sys2Proof.Machine

/-! ### Images (R357–R360) -/

/-- n bytes of an image from an offset, least significant first. -/
def imgNum (img : List Byte) (ofs n : Nat) : Nat := ofBytes ((img.drop ofs).take n)

/-- Whether the bytes of an image from one offset up to another are 0. -/
def imgZero (img : List Byte) (a b : Nat) : Bool := ((img.drop a).take (b - a)).all fun x => x == 0

/-- Bytes of a string of ASCII characters. -/
def ascii (t : String) : List Byte := t.toList.map fun c => BitVec.ofNat 8 c.toNat

/-- The header of an image (Table 15-18). -/
structure ImgHead where
  nsect  : Nat
  total  : Nat
  scope  : Nat
  ctxs   : Nat
  fields : Nat
  id     : Word
  minfw  : Nat
  deriving DecidableEq, Repr

def imgHead (img : List Byte) : ImgHead :=
  ⟨imgNum img 12 4, imgNum img 16 8, imgNum img 24 1, imgNum img 25 1, imgNum img 26 6, BitVec.ofNat 64 (imgNum img 32 8), imgNum img 40 2⟩

/-- Whether the header of an image is well formed (R357). -/
def ImgHead.ok (h : ImgHead) (img : List Byte) : Bool :=
  img.take 8 == ascii "CHEORSER" && imgNum img 8 2 == 1 && imgNum img 10 2 == 256 && decide (1 ≤ h.nsect ∧ h.nsect ≤ 16) &&
  decide (h.total % 64 = 0 ∧ h.scope ≤ 3) && (if h.scope = 3 then decide (h.ctxs < 16) else h.ctxs == 0) && imgZero img 42 256

/-- An entry of the section table (R357). -/
structure ImgSect where
  type : Nat
  nrec : Nat
  ofs  : Nat
  len  : Nat
  deriving DecidableEq, Repr

def imgSect (img : List Byte) (i : Nat) : ImgSect :=
  let a := 256 + 32 * i
  ⟨imgNum img a 2, imgNum img (a + 4) 4, imgNum img (a + 8) 8, imgNum img (a + 16) 8⟩

def imgSects (img : List Byte) : List ImgSect := (List.range (imgHead img).nsect).map (imgSect img)

/-- Whether entry i of the section table is well formed: its type, its zeros, its place after the one before and below TOTAL. -/
def sectOk (img : List Byte) (i : Nat) : Bool :=
  let h := imgHead img
  let x := imgSect img i
  let a := 256 + 32 * i
  let from_ := if i = 0 then 256 + 32 * h.nsect else (imgSect img (i - 1)).ofs + (imgSect img (i - 1)).len
  imgZero img (a + 2) (a + 4) && imgZero img (a + 24) (a + 32) &&
  decide (1 ≤ x.type ∧ x.type ≤ 11 ∧ x.ofs % 64 = 0 ∧ from_ ≤ x.ofs ∧ x.ofs + x.len ≤ h.total) &&
  !((List.range i).any fun j => (imgSect img j).type == x.type)

/-- A record read at an offset (R358), with its length, where its head is well formed. -/
def imgRec (img : List Byte) (sect type pos : Nat) : Option (ImgRec × Nat) :=
  let w0 : Word := BitVec.ofNat 64 (imgNum img pos 8)
  let w1 : Word := BitVec.ofNat 64 (imgNum img (pos + 8) 8)
  let scratch := decide (type = 8)
  let len := bits w1 31 0
  let spine := w0.getLsbD 51
  let unit := bits w0 57 52
  let ofs := if scratch then bits w0 42 18 else bits w0 42 23
  let r : ImgRec := ⟨sect, pos, type, bits w0 63 58, unit, spine, bits w0 50 43, ofs, (img.drop (pos + 16)).take len⟩
  let ok := decide (r.field < 48) && (if spine then decide (0x30 ≤ unit ∧ unit ≤ 0x34) else decide (unit < 40)) &&
    decide (bits w1 63 32 = 0 ∧ len % 8 = 0 ∧ 8 ≤ len ∧ ofs % 8 = 0) && (imgHead img).fields.testBit r.field &&
    (if scratch then decide (bits w0 17 0 = 0 ∧ r.block = 0xFF ∧ ofs + len ≤ 0x1800000) && !spine
     else decide (bits w0 22 0 = 0 ∧ ofs + len ≤ 2 ^ 20))
  if ok then some (r, 16 + len) else none

/-- The records of a section, read one after another; or the offset of the first that is not well formed. -/
def sectRecs (img : List Byte) (sect type fin : Nat) : Nat → Nat → Except Nat (List ImgRec)
  | pos, 0 => if pos = fin then .ok [] else .error pos
  | pos, n + 1 =>
    match imgRec img sect type pos with
    | none => .error pos
    | some (r, k) => if fin < pos + k then .error pos else (sectRecs img sect type fin (pos + k) n).map (r :: ·)

/-- The records of an image, section by section; or the section and offset of the first fault. -/
def imgRecs (img : List Byte) : List (Nat × ImgSect) → Except (Nat × Nat) (List ImgRec)
  | [] => .ok []
  | (i, x) :: rest =>
    if !sectOk img i then .error (i, 256 + 32 * i)
    else match sectRecs img i x.type (x.ofs + x.len) x.ofs x.nrec with
      | .error p => .error (i, p)
      | .ok rs => (imgRecs img rest).map (rs ++ ·)

/-- The words of a record: the control address or scratchpad offset of each, with its value. -/
def recWords (base : Nat) : List Byte → Nat → List (Nat × Word)
  | _, 0 => []
  | d, n + 1 => (base, BitVec.ofNat 64 (ofBytes (d.take 8))) :: recWords (base + 8) (d.drop 8) n

/-- The control address that a record of registers starts at; a tile record names a site by its logical tile. -/
def State.recCa (s : State) (r : ImgRec) : Option Nat := (s.recSite r).bind fun k => ImgRec.ca r k

/-- Whether a section type may write a register (Table 15-20). -/
def sectAllows (type : Nat) (k : SiteKind) (block : Nat) (g : RegGroup) : Bool :=
  match type, k with
  | 1, .tile => g.tag == .tilCtxcfg || g.tag == .tilCtxcmd || g.tag == .sfuCtl || (block == 1 && g.base == 0)
  | 2, .tile => g.tag == .istore
  | 3, .tile => g.tag == .strProg
  | 4, .tile => g.tag == .mxeCtl || g.tag == .mxeColmask || (block == 2 && (g.base == 0x300 || g.base == 0x1000))
  | 5, .tile => g.tag == .vchCfg || g.tag == .vchVec
  | 6, .tile => g.tag == .netTrt
  | 6, .station => g.tag == .netRtree || g.tag == .netMcg
  | 7, .fieldCtl => g.tag == .fldCal || g.tag == .fetchctl
  | 9, .tile => g.tag == .spdBound
  | 10, .tile => g.tag == .updRule || g.tag == .updShard || g.tag == .updSrc || (block == 9 && g.base == 0)
  | 11, .tile => g.tag == .spxRing || (block == 10 && g.base == 0)
  | _, _ => false

/-- The TIL_CTXCFG_c values that an image writes to a logical tile of a field, with their contexts. -/
def imgCfgs (rs : List ImgRec) (field unit : Nat) : List (Nat × Word) :=
  (rs.filter fun r => r.type == 1 && !r.spine && r.field == field && r.unit == unit && r.block == 0).flatMap fun r =>
    (recWords r.ofs r.data (r.data.length / 8)).filterMap fun w =>
      if 0x100 ≤ w.1 ∧ w.1 < 0x120 then some ((w.1 - 0x100) / 8, w.2) else none

/-- The entry points that an image gives: the value that TIL_CTXCMD_c would take (R359). -/
def imgEntries (rs : List ImgRec) (field unit : Nat) : List (Nat × Word) :=
  (rs.filter fun r => r.type == 1 && !r.spine && r.field == field && r.unit == unit && r.block == 0).flatMap fun r =>
    (recWords r.ofs r.data (r.data.length / 8)).filterMap fun w =>
      if 0x140 ≤ w.1 ∧ w.1 < 0x160 then some ((w.1 - 0x140) / 8, w.2) else none

/-- Whether a word of a record lies within the scope of its image (R360). -/
def State.inScope (s : State) (h : ImgHead) (rs : List ImgRec) (r : ImgRec) (w : Nat × Word) : Bool :=
  match h.scope with
  | 0 => true
  | 1 => true
  | 2 => !r.spine && r.type != 7
  | _ =>
    let cfgs := (imgCfgs rs r.field r.unit).filter fun c => h.ctxs.testBit c.1
    if r.spine then false
    else if r.type = 8 then
      match s.recTile r with
      | some t => cfgs.any fun c => s.inBounds t (bits c.2 1 0) w.1 8
      | none => false
    else
      let off := w.1 % 2 ^ 20
      if r.block = 0x10 then cfgs.any fun c => decide (bits c.2 28 16 ≤ off / 32 ∧ off / 32 ≤ bits c.2 44 32)
      else if r.block = 4 then true
      else match ctxOfReg r.block off with
        | some c => h.ctxs.testBit c
        | none => false

/-- SFU_CTL as an image of context scope writes it: the modes of the contexts it loads alone (R360).
    DEDUCED: notes/assumptions/116. -/
def State.sfuMerge (s : State) (h : ImgHead) (ca : Nat) (v : Word) : Word :=
  let m : Word := BitVec.ofNat 64 (h.ctxs % 16)
  if h.scope = 3 then (s.reg ca &&& ~~~m) ||| (v &&& m) else v

/-- How a word of a record would be met now: accepted; never (a reserved code, a place its section or scope does not admit, or a value that
    no state accepts); or not now (R362, R363). -/
inductive WordCheck where
  | ok | never | busy
  deriving DecidableEq, Repr

/-- A word of an image written in a register. A command ring is judged by the INFONLY that the image gives its context, and SFU_CTL
    takes the modes of the contexts the image loads (R279, R360).
    DEDUCED: notes/assumptions/93. -/
def State.imgWrite (s : State) (h : ImgHead) (rs : List ImgRec) (r : ImgRec) (w : Nat × Word) : State :=
  match decodeCa w.1 with
  | some (_, g, is) =>
    if g.tag = .spxRing then
      let c : CtxNo := Fin.ofNat 4 (idx is 0)
      let cfgCa := ctxcfgCa (tileOfCa (caParts w.1)) c
      let old := s.reg cfgCa
      match (imgCfgs rs r.field r.unit).reverse.find? fun e => e.1 == c.val with
      | some e => ((s.setFld cfgCa 7 7 (bits e.2 7 7)).controlWrite w.1 w.2).setReg cfgCa old
      | none => s.controlWrite w.1 w.2
    else s.controlWrite w.1 (if g.tag = .sfuCtl then s.sfuMerge h w.1 w.2 else w.2)
  | none => s.controlWrite w.1 w.2

/-- Whether a word of an image would be accepted now (R362). -/
def State.accepts (s : State) (h : ImgHead) (rs : List ImgRec) (r : ImgRec) (w : Nat × Word) : Bool :=
  (s.imgWrite h rs r w).events.length == s.events.length

/-- The module with every tile and fetch engine at rest. -/
def State.quiet (s : State) : State :=
  { s with tiles := [], fields := s.fields.map fun p => (p.1, { p.2 with fetch := {} }) }

/-- The check of one word of a record (R359, R360, R362). -/
def State.checkWord (s : State) (h : ImgHead) (rs : List ImgRec) (r : ImgRec) (w : Nat × Word) : WordCheck :=
  if !s.inScope h rs r w then .never
  else if r.type = 8 then (match s.recTile r with | some t => if s.serves t.field.val then .ok else .busy | none => .busy)
  else match decodeCa w.1 with
    | none => .never
    | some (k, g, is) =>
      if !sectAllows r.type k r.block g || woReserved g.fields w.2 || rwReserved g.fields w.2 then .never
      else if g.tag = .tilCtxcmd then
        (if bits w.2 18 16 ≠ 0 then .never
         else if Ctx.idle (s.ctx (tileOfCa (caParts w.1)) (Fin.ofNat 4 (idx is 0))) then .ok else .busy)
      else if s.accepts h rs r w then .ok
      else if s.answers w.1 && !s.quiet.accepts h rs r w then .never else .busy

/-- The words of a record with their addresses, where its unit is there. -/
def State.wordsOfRec (s : State) (r : ImgRec) : Option (List (Nat × Word)) :=
  if r.type = 8 then some (recWords r.ofs r.data (r.data.length / 8))
  else (s.recCa r).map fun a => recWords a r.data (r.data.length / 8)

/-- The check of a record: its worst word. -/
def State.checkRec (s : State) (h : ImgHead) (rs : List ImgRec) (r : ImgRec) : WordCheck :=
  match s.wordsOfRec r with
  | none => .busy
  | some ws =>
    let cs := ws.map fun w => s.checkWord h rs r w
    if cs.contains .never then .never else if cs.contains .busy then .busy else .ok

/-! ### LOAD (R361–R364) -/

/-- The contexts that an image writes, by 4·(tile key) + context: those of its CONTEXT records. -/
def State.imgCtxs (s : State) (rs : List ImgRec) : List Nat :=
  ((rs.filter fun r => r.type == 1).flatMap fun r =>
    match s.recTile r with
    | some t => ((imgCfgs rs r.field r.unit).map fun c => 4 * t.key + c.1) ++ ((imgEntries rs r.field r.unit).map fun c => 4 * t.key + c.1)
    | none => []).eraseDups

/-- Whether a VF may load an image (R364). -/
def State.vfMayLoad (s : State) (func : Nat) (h : ImgHead) (rs : List ImgRec) : Bool :=
  let j := (s.funcJob func).val
  func == 0 || (h.scope == 3 && (rs.all fun r => (imgCfgs rs r.field r.unit).all fun c => bits c.2 1 0 == j) &&
    (s.imgCtxs rs).all fun k =>
      let t := tileOfKey (k / 4)
      let c : CtxNo := Fin.ofNat 4 k
      (s.ctx t c).state == .empty || (s.jobOf t c).val == j)

/-- The version of the running starter firmware. -/
def State.fwVersion (s : State) : Nat := if s.fwStat.getLsbD 62 then bits s.fwStat 31 16 else bits s.fwStat 15 0

/-- The order in which the sections are applied (R362). -/
def loadOrder : List Nat := [9, 8, 6, 7, 10, 11, 4, 5, 3, 2, 1]

/-- The records of an image in the order in which they are applied. -/
def inOrder (rs : List ImgRec) : List ImgRec := loadOrder.flatMap fun ty => rs.filter fun r => r.type == ty

/-- The module without its load, whose claim does not bind its own writes. -/
def State.unclaimed (s : State) : State := s.modRind fun x => { x with load := none }

/-- A word of a record written; an entry point is not (R359). -/
def State.applyWord (s : State) (h : ImgHead) (rs : List ImgRec) (r : ImgRec) (w : Nat × Word) : State :=
  if r.type = 8 then (match s.recTile r with | some t => s.padStore t w.1 (toBytes 8 w.2.toNat) | none => s)
  else match decodeCa w.1 with
    | some (_, g, _) =>
      if g.tag = .tilCtxcmd then s else s.imgWrite h rs r w
    | none => s

/-- A record applied. -/
def State.applyRec (s : State) (h : ImgHead) (rs : List ImgRec) (r : ImgRec) : State :=
  match s.wordsOfRec r with
  | some ws => ws.foldl (fun s w => s.applyWord h rs r w) s
  | none => s

/-- Whether a word of a record, as the image leaves its store or register, is part of a bundle, a stream-program descriptor or
    instruction, or a chain configuration that holds a reserved code or fails a check of R115 (R7, R80, R115). -/
def State.codeBad (s : State) (w : Nat × Word) : Bool :=
  match decodeCa w.1 with
  | some (_, g, is) =>
    let t := tileOfCa (caParts w.1)
    let c : CtxNo := Fin.ofNat 4 (idx is 1)
    if g.tag = .istore then (decodeBundle (s.bundleAt t (idx is 0 / 4))).isNone
    else if g.tag = .strProg then
      let e : Fin 3 := Fin.ofNat 3 (idx is 0)
      if idx is 3 < 8 then (s.streamDesc t e c (idx is 2) (idx is 3 / 2)).isNone
      else streamReserved e.val (s.streamWord t e c (idx is 2) (idx is 3))
    else if g.tag = .vchCfg then
      !cfgOk ((List.range 16).map fun i => s.reg (vchCfgCa t (Fin.ofNat 4 (idx is 0)) (Fin.ofNat 16 (idx is 1)) i))
    else false
  | none => false

/-- Whether a context that an image loads, with INFONLY = 0, has a matrix descriptor of format BS4 or a valid command ring (R279). -/
def State.ctxBad (s : State) (t : Tile) (c : CtxNo) : Bool :=
  !s.bit (ctxcfgCa t c) 7 &&
  (s.bit (tileCa t 0x0A (0x100 + 8 * c.val)) 63 ||
   (List.range 8).any fun d => fmtOf (bits (s.reg (tileCa t 0x02 (0x1000 + 64 * c.val + 8 * d))) 63 62) == some .bs4)

/-- Whether a record is at fault in what the whole image leaves, `fin` (R7, R80, R115, R279). -/
def State.finBad (fin : State) (rs : List ImgRec) (r : ImgRec) : Bool :=
  (match fin.wordsOfRec r with
   | some ws => r.type != 8 && ws.any fin.codeBad
   | none => false) ||
  (r.type == 1 && match fin.recTile r with
   | some t => ((imgCfgs rs r.field r.unit).map (·.1) ++ (imgEntries rs r.field r.unit).map (·.1)).any fun c => fin.ctxBad t (Fin.ofNat 4 c)
   | none => false)

/-- The first record of some that is never accepted, and the first that is not accepted now, each judged with the records before it
    applied (R362), and in what the whole image leaves, `fin`. -/
def State.checkRecs (s fin : State) (h : ImgHead) (rs : List ImgRec) : List ImgRec → Option ImgRec × Option ImgRec
  | [] => (none, none)
  | r :: rest =>
    let (a, b) := State.checkRecs (s.applyRec h rs r) fin h rs rest
    match s.checkRec h rs r with
    | .never => (some r, b)
    | .busy => (a, some r)
    | .ok => if fin.finBad rs r then (some r, b) else (a, b)

/-- What an image leaves in the stores and registers it writes, were every context idle. -/
def State.imgLeaves (s : State) (h : ImgHead) (rs : List ImgRec) : State :=
  (inOrder rs).foldl (fun s r => s.applyRec h rs r) s.quiet.unclaimed

/-- What pass 1 finds: the records, or the status, section and offset of the failure (R362–R364). -/
def State.passOne (s : State) (func : Nat) (img : List Byte) : Except (Nat × Nat × Nat) (List ImgRec) :=
  let h := imgHead img
  if h.total + 256 ≠ img.length then .error (6, 0, 16)
  else if !s.sigOk 60 (img.drop h.total) (img.take h.total) then .error (5, 0, h.total)
  else if !ImgHead.ok h img || decide (s.fwVersion < h.minfw) then .error (6, 0, 0)
  else match imgRecs img ((List.range h.nsect).map fun i => (i, imgSect img i)) with
    | .error (i, p) => .error (6, i, p)
    | .ok rs =>
      match s.checkRecs (s.imgLeaves h rs) h rs (inOrder rs) with
      | (some r, _) => .error (6, r.sect, r.pos)
      | (none, busy) =>
        if !s.vfMayLoad func h rs then .error (2, 0, 0)
        else match busy with
          | some r => .error (7, r.sect, r.pos)
          | none => .ok rs

/-- The place of a record, without its data. -/
def ImgRec.place (r : ImgRec) : ImgRec × Nat := ({ r with data := [] }, r.data.length)

/-- The records that pass 2 reads in an image, as far as pass 1 claimed their places. -/
def passTwoRecs (l : LoadSt) (img : List Byte) : List ImgRec :=
  match imgRecs img ((List.range (imgHead img).nsect).map fun i => (i, imgSect img i)) with
  | .ok rs => rs.filter fun r => l.recs.any fun y => ImgRec.place y == ImgRec.place r
  | .error _ => []

/-- Pass 2: the sections applied in order, up to a byte at which its read failed. -/
def State.passTwo (s : State) (l : LoadSt) (img : List Byte) (upto : Option Nat) : State :=
  let rs := (passTwoRecs l img).filter fun r => match upto with | some n => decide (r.pos + 16 + r.data.length ≤ n) | none => true
  let s := (inOrder rs).foldl (fun s r => s.applyRec (imgHead img) rs r) s.unclaimed
  s.modRind fun x => { x with load := some { l with again := some (Config.sha384 (img.take (imgHead img).total)) } }

/-- A context left STOPPED at its entry point, its loop counters, token queue and stream queues cleared (R362); the
    generation tags of its engines stay. -/
def State.loadCtx (s : State) (rs : List ImgRec) (k : Nat) : State :=
  let t := tileOfKey (k / 4)
  let c : CtxNo := Fin.ofNat 4 k
  let pc := match (rs.flatMap fun r => if s.recTile r = some t then imgEntries rs r.field r.unit else []).find? (fun e => e.1 == c.val) with
    | some e => bits e.2 12 0
    | none => s.fld (ctxcfgCa t c) 28 16
  let keep (e : Fin 3) (u : State) : State := u.modEng t e c fun x => { x with gen := (s.eng t e c).gen }
  (keep 1 (keep 0 ((s.emptyCtx t c).clearLcs t c))).modCtx t c fun _ => freshCtx .stopped (BitVec.ofNat 13 pc)

/-- A LOAD that failed once pass 2 had begun: its contexts are left EMPTY (R363). -/
def State.loadFailed (s : State) (l : LoadSt) (status sect ofs : Nat) : State :=
  let empty (s : State) (k : Nat) : State := let c : CtxNo := Fin.ofNat 4 k; (s.dropWork (tileOfKey (k / 4)) c).emptyCtx (tileOfKey (k / 4)) c
  (l.ctxs.foldl empty s).loadDone l.q status sect ofs l.id

/-- The section of an image that holds a byte. -/
def sectAt (img : List Byte) (n : Nat) : Nat :=
  (((List.range (min 16 (imgHead img).nsect)).find? fun i => let x := imgSect img i; decide (x.ofs ≤ n ∧ n < x.ofs + x.len))).getD 0

/-- Pass 1 of a LOAD, and its claim. -/
def State.loadBegin (s : State) (q : Nat) (d : Desc) (img : List Byte) (fail : Option (Nat × Bool)) : State :=
  let s := s.putDesc q d.id .load
  let id := (imgHead img).id
  match fail with
  | some (n, _) => s.loadDone q 4 (sectAt img n) n id
  | none =>
    match s.passOne (s.queueFunc q) img with
    | .error (st, i, p) => s.loadDone q st i p id
    | .ok rs =>
      (s.setFld loadstatCa 63 63 1).modRind fun x =>
        { x with load := some ⟨q, Config.sha384 (img.take (imgHead img).total), rs, s.imgCtxs rs, id, none⟩ }

/-- LOAD (R362–R364), in three commands: pass 1 of the next descriptor of a queue, with the claim; pass 2; and its finish. `img` is what the
    host's memory holds at the time, LEN bytes; `fail` a byte whose read failed, and whether error fill was met there.
    DESIGN CHOICE: notes/assumptions/8.
    DEDUCED: notes/assumptions/93. -/
def execLoad (q : QueueNo) (img : List Byte) (fail : Option (Nat × Bool)) (s : State) : Out :=
  match s.rind.load with
  | some l =>
    if l.q ≠ q.val then .next s
    else match l.again with
      | none =>
        let s1 := s.passTwo l img (fail.map fun f => f.1)
        .next (match fail with
          | some (n, e) => s1.loadFailed l (if e then 0x0A else 4) (sectAt img n) n
          | none => s1)
      | some d =>
        if d = l.digest then
          .next ((l.ctxs.foldl (fun s k => s.loadCtx l.recs k) s).loadDone q.val 0 0 0 l.id)
        else
          let (w, s) := s.freshWord
          .next (s.loadFailed l 8 (bits w 43 40) (bits w 39 0))
  | none =>
    match s.startOp q.val 5 with
    | none => .next s
    | some d =>
      if s.rind.fw.restart then .next s
      else .next (s.loadBegin q.val d ((img ++ List.replicate (Desc.len d) 0).take (Desc.len d)) fail)

/-! ### FWLOAD (R368) -/

/-- Whether the header of a firmware package is well formed. -/
def packageOk (p : List Byte) : Bool :=
  p.take 8 == ascii "QWSTART1" && imgZero p 11 12 && imgZero p 16 64 && decide (imgNum p 12 4 ≤ 16776896 ∧ 64 + imgNum p 12 4 + 256 = p.length)

/-- An FWLOAD ended: RIND_LOADSTAT, and its descriptor done. -/
def State.fwDone (s : State) (q status ofs : Nat) : State :=
  let s := s.loadStat status 0 ofs
  s.finishFirst q (fun d => d == .fwload) status 0 (s.reg loadstatCa)

/-- The slot that does not run: 0 A, 1 B. -/
def State.otherSlot (s : State) : Nat := if s.fwStat.getLsbD 62 then 0 else 1

/-- The package written, read back and verified (steps 2 to 4 of R368). -/
def State.fwVerify (s : State) (q : Nat) (p : List Byte) : State :=
  let n := 64 + imgNum p 12 4
  if !packageOk p then s.fwDone q 6 0
  else if !s.sigOk 61 (p.drop n) (p.take n) then s.fwDone q 5 n
  else if imgNum p 10 1 < bits s.fwStat 47 40 then s.fwDone q 6 10
  else
    let k := s.otherSlot
    let w := setBits (setBits s.fwStat (60 + k) (60 + k) 1) (16 * k + 15) (16 * k) (imgNum p 8 2)
    ((s.setFwStat w).modFw fun x => { x with svn := tset 0 x.svn k (imgNum p 10 1 + 1) }).fwDone q 0 0

/-- FWLOAD (R368), in two commands: the inactive slot marked invalid, as the next descriptor of a queue starts; then the package, as the
    host's memory holds it, written and verified. `fail` is a byte whose read failed.
    DEDUCED: notes/assumptions/95. -/
def execFwload (q : QueueNo) (pkg : List Byte) (fail : Option Nat) (s : State) : Out :=
  match (s.queue q.val).descs.find? (fun d => d.st == .fwload) with
  | some d => .next (match fail with
    | some n => s.fwDone q.val 4 n
    | none => s.fwVerify q.val ((pkg ++ List.replicate (Desc.len d) 0).take (Desc.len d)))
  | none =>
    match s.startOp q.val 6 with
    | none => .next s
    | some d =>
      if s.rind.fw.restart then .next s
      else
        let s := s.putDesc q.val d.id .fwload
        if s.fwStat.getLsbD 63 then .next (s.fwDone q.val 7 0)
        else
          let k := s.otherSlot
          .next ((s.setFwStat (setBits s.fwStat (60 + k) (60 + k) 0)).setFld loadstatCa 63 63 1)

end Sys2Proof.Machine
end

