-- ==== Sys2Proof/Machine/Endpoints.lean ====
section
/-! DEFINITION. Packets that reach their endpoints (R97, R149–R151, R162, R164, R176, R183, R188, R201, R207): requests served and
answered, responses taken in, tokens placed. -/

namespace Sys2Proof.Machine

/-! ### Where a packet arrives -/

/-- The tile that a head names. -/
def State.headTile (s : State) (h : Head) : Option Tile :=
  if hf : h.dfield < 48 then
    if h.dlog then s.siteOf ⟨h.dfield, hf⟩ h.dsite
    else if hs : h.dsite < 42 then some ⟨⟨h.dfield, hf⟩, ⟨h.dsite, hs⟩⟩ else none
  else none

/-- An endpoint of the network: a tile, a field's shared block, or the Rind and the edge. -/
inductive EndPt where
  | tile (t : Tile)
  | spine (f : FieldNo) (site : Nat)
  | rind
  deriving DecidableEq, Repr

/-- The endpoint that a head names under the tile map as it is now, if there is one. -/
def State.named (s : State) (h : Head) : Option EndPt :=
  if hf : h.dfield < 48 then
    (if h.dlog ∨ h.dsite < 42 then (s.headTile h).map .tile else some (.spine ⟨h.dfield, hf⟩ h.dsite))
  else if h.dfield = 0x3C ∨ h.dfield = 0x3D then some .rind
  else none

/-- The endpoint of a packet: where it has come to, its site chosen as it passed its station (R18); the one that its head names for
    a packet that the network does not hold. -/
def State.endpoint (s : State) (h : Head) (b : Body) : Option EndPt :=
  match (s.inFlight h b).map Packet.loc with
  | some (.site k) => some (.tile (tileOfKey k))
  | some (.spine f k) => some (.spine (fieldNo f) k)
  | _ => s.named h

/-- A packet handled by its endpoint once it has come there: the network tag is checked in a field, and the Rind makes no check (R183). An access opens a
    tile site's gate (R381). A field that takes no such packet, or whose clock is stopped, handles nothing. -/
def State.atEnd (s : State) (h : Head) (b : Body) (f : EndPt → State → State) : State :=
  match s.endpoint h b with
  | none => s
  | some .rind => if s.mayTake h b then f .rind (s.takePacket h b) else s
  | some (.tile t) =>
    if s.takes t.field b && !s.rind.power.stopped.contains t.field.val then
      s.arrive h b t.field.val t.site.val fun s => f (.tile t) (s.modTile t fun x => { x with gated := false })
    else s
  | some (.spine g site) =>
    if s.takes g b && !s.rind.power.stopped.contains g.val then s.arrive h b g.val site fun s => f (.spine g site) s else s

/-- The place of an endpoint, for its answers. -/
def EndPt.place : EndPt → Nat × Nat
  | .tile t => (t.field.val, t.site.val)
  | .spine f k => (f.val, k)
  | .rind => (0x3C, 1)

/-- The scratchpad offset that a request to a tile names (R25, R177). -/
def padOff (a : Nat) : Nat := a % 2 ^ 25

/-- Whether a tile's scratchpad admits an access of a packet: within the bounds of its domain; in physical mode, from the host's
    physical function alone, whatever the bounds (R149).
    DEDUCED: notes/assumptions/37. -/
def State.padAdmits (s : State) (t : Tile) (h : Head) (off len : Nat) : Bool :=
  if h.dlog || h.xm then s.inBounds t h.job.val off len else decide (h.sfield = 0x3C ∧ off + len ≤ 0x1800000)

/-- The answer to a read: to its requester, or for a multicast read to its group (R162).
    DEDUCED: notes/assumptions/45. -/
def State.readAnswer (s : State) (h : Head) (e : EndPt) (st : NStatus) (d : List Byte) (fill : Bool) : State :=
  s.readDone h (EndPt.place e).1 (EndPt.place e).2 st d fill

/-- The answer to a write: to its sender, or for a member of a multicast write to the tracker of its source station (R188). -/
def State.writeAnswer (s : State) (h : Head) (e : EndPt) (st : NStatus) : State :=
  s.writeDone h (EndPt.place e).1 (EndPt.place e).2 st

/-- A request that an endpoint has no place for (R24): ADDRERR, with an event that names the requesting unit. -/
def State.noPlace (s : State) (h : Head) (b : Body) (e : EndPt) : State :=
  (s.packetError { head := h, body := b }).refuseWith h b (EndPt.place e).1 (EndPt.place e).2 .addrErr

/-! ### Requests -/

/-- A host direct access at the host agent: one operation for each line (R27, R338). -/
def State.hostDirect (s : State) (h : Head) (iova : Nat) (write : Option (List Byte)) (len : Nat) : State :=
  let id := s.agent.nextId
  let n := match write with | some d => d.length | none => len
  let parts := lineParts iova 0 n 9
  let s := s.modAgent fun a =>
    { a with nextId := id + 1, direct := a.direct ++ [⟨id, h, if write.isSome then none else some len, parts.length, [], false⟩] }
  parts.foldl (fun s p => s.hostOp ⟨p.2.1, p.2.2, write.map fun d => (d.drop p.1).take p.2.2, .direct id p.1, h.job⟩) s

/-- A read at its endpoint. -/
def State.readAt (s : State) (h : Head) (addr len : Nat) (e : EndPt) : State :=
  let b : Body := .rd addr len
  match e with
  | .tile t =>
    let off := padOff addr
    if s.padAdmits t h off len then
      let (d, s) := (s.slotNet t off len).padRead t off len
      s.readAnswer h e .done (d.getD (rawFill len)) d.isNone
    else (s.padRefuseAt t h.job.val (carriedAddr h addr)).readAnswer h e .addrErr [] false
  | .spine f site =>
    match decodeAddr addr with
    | .cave a =>
      if site = 0x31 then s.vatAccess f h a (.rd a len)
      else if site = 0x32 then s.homeRequest f.val h b (a / 512) (.read a len)
      else s.noPlace h b e
    | .cellar g off =>
      if site ≠ 0x32 ∨ g ≠ f ∨ 0x600000000 < off + len then s.noPlace h b e
      else if !s.cellarReady f then (s.packetError { head := h, body := b }).readAnswer h e .addrErr [] false
      else s.cellarDirect f h off none len
    | _ => s.noPlace h b e
  | .rind =>
    match decodeAddr addr with
    | .host a => s.hostDirect h a none len
    | .cave a => s.homeRequest 48 h b (a / 512) (.read a len)
    | _ => s.noPlace h b e

/-- RD (R149, R176, R201, R207): a read request at its endpoint. -/
def execRd (h : Head) (addr : DataAddr) (len : Fin 2049) (s : State) : Out :=
  if !readLenOk len.val then .refused .illFormed
  else
    match s.endpoint h (.rd addr.toNat len.val) with
    | some (.spine f 0x31) => if s.vatTakes f addr.toNat (.rd addr.toNat len.val) then .next (s.atEnd h (.rd addr.toNat len.val) fun e s => s.readAt h addr.toNat len.val e) else .next (s.vatFull f)
    | _ => .next (s.atEnd h (.rd addr.toNat len.val) fun e s => s.readAt h addr.toNat len.val e)

/-- A write at its endpoint. -/
def State.writeAt (s : State) (h : Head) (addr : Nat) (d : List Byte) (e : EndPt) : State :=
  let b : Body := .wr addr d
  match e with
  | .tile t =>
    let off := padOff addr
    if s.padAdmits t h off d.length then ((s.slotNet t off d.length).padStore t off d).writeAnswer h e .done
    else (s.padRefuseAt t h.job.val (carriedAddr h addr)).writeAnswer h e .addrErr
  | .spine f site =>
    match decodeAddr addr with
    | .cave a =>
      if site = 0x31 then s.vatAccess f h a (.wr a d)
      else if site = 0x32 then s.homeRequest f.val h b (a / 512) (.write a d)
      else s.noPlace h b e
    | .cellar g off =>
      if site ≠ 0x32 ∨ g ≠ f ∨ 0x600000000 < off + d.length then s.noPlace h b e
      else if !s.cellarReady f then (s.packetError { head := h, body := b }).writeAnswer h e .addrErr
      else s.cellarDirect f h off (some d) 0
    | _ => s.noPlace h b e
  | .rind =>
    match decodeAddr addr with
    | .host a => s.hostDirect h a (some d) 0
    | .cave a => s.homeRequest 48 h b (a / 512) (.write a d)
    | _ => s.noPlace h b e

/-- WR (R149, R176, R188, R201, R207): a write request at its endpoint. -/
def execWr (h : Head) (addr : DataAddr) (data : List Byte) (s : State) : Out :=
  if !writeLenOk data then .refused .illFormed
  else
    match s.endpoint h (.wr addr.toNat data) with
    | some (.spine f 0x31) => if s.vatTakes f addr.toNat (.wr addr.toNat data) then .next (s.atEnd h (.wr addr.toNat data) fun e s => s.writeAt h addr.toNat data e) else .next (s.vatFull f)
    | _ => .next (s.atEnd h (.wr addr.toNat data) fun e s => s.writeAt h addr.toNat data e)

/-- REGRD (R22, R176): a register read of 8 bytes. -/
def execRegrd (h : Head) (ca : Ca) (s : State) : Out :=
  .next (s.atEnd h (.regrd ca) fun e s =>
    let (good, w, s) := s.controlRead ca.toNat true
    s.reply h (EndPt.place e).1 (EndPt.place e).2 (.rdata (if good then .done else .addrErr) (toBytes 8 w.toNat) false))

/-- REGWR (R22, R176): a register write of 8 bytes. -/
def execRegwr (h : Head) (ca : Ca) (v : Word) (s : State) : Out :=
  .next (s.atEnd h (.regwr ca v) fun e s =>
    let good := (decodeCa ca.toNat).isSome && ((caParts ca.toNat).field == 0x3F || s.answers ca.toNat)
    (s.controlWrite ca.toNat v).reply h (EndPt.place e).1 (EndPt.place e).2 (.wack (if good then .done else .addrErr)))

/-- BZW (R164): a breeze write at a scratchpad, acknowledged on VC-B. -/
def execBzw (h : Head) (addr : DataAddr) (data : List Byte) (s : State) : Out :=
  if !breezeLenOk data then .refused .illFormed
  else .next (s.atEnd h (.bzw addr.toNat data) fun e s =>
    match e with
    | .tile t =>
      let off := padOff addr.toNat
      if s.padAdmits t h off data.length then ((s.slotNet t off data.length).padStore t off data).reply h t.field.val t.site.val (.bzack .done)
      else (s.padRefuseAt t h.job.val (carriedAddr h addr.toNat)).reply h t.field.val t.site.val (.bzack .addrErr)
    | _ => s.noPlace h (.bzw addr.toNat data) e)

/-! ### Compare-and-count (R150–R154, R209, R217) -/

/-- A CAC of a packet at its endpoint. -/
def State.cacAt (s : State) (h : Head) (addr op imm : Nat) (who : Requester) (e : EndPt) : State :=
  let b : Body := .cac addr op imm who
  match e with
  | .tile t =>
    let off := padOff addr
    let answer (r : CacResult) (s : State) : State := s.reply h t.field.val t.site.val (.cacr r.st r.cst r.cmpv)
    if (h.dlog || h.xm) && (s.inBounds t h.job.val off 8 || (cacOpOf op).isNone || decide (off % 8 ≠ 0)) then
      let (r, s) := s.netCac t h off op imm who
      answer r s
    else answer ⟨.addrErr, cstFault, fillWord⟩ (s.padRefuseAt t h.job.val (carriedAddr h addr))
  | .spine f site =>
    match decodeAddr addr with
    | .cave a =>
      if site = 0x31 then s.vatAccess f h a (.cac a op imm who)
      else if site = 0x32 then s.homeRequest f.val h b (a / 512) (.cac a op imm who)
      else s.noPlace h b e
    | _ => s.noPlace h b e
  | .rind =>
    match decodeAddr addr with
    | .cave a => s.homeRequest 48 h b (a / 512) (.cac a op imm who)
    | _ => s.noPlace h b e

/-- A CAC command at a bank, its response left in the tile's bank output: CMPV, then CST. -/
def State.cacCommand (s : State) (t : Tile) (job : JobNo) (off : BitVec 25) (op : CacOp) (imm : BitVec 32)
    (r : Requester) : State :=
  if off.toNat % 8 ≠ 0 then (s.raise (spdFlagsCa t) 3).postTile 0x04 t (BitVec.ofNat 64 off.toNat)
  else
    let (res, s) := s.padCac t job.val off.toNat op imm.toNat r
    s.modTile t fun x => { x with bankOut := toBytes 8 res.cmpv.toNat ++ [BitVec.ofNat 8 res.cst] }

/-- A CAC as the command of one operation: of a unit of a bank's own tile, or of a packet, whose operation is that one unless it
    carries a reserved one (R151). -/
def State.cacFrom (s : State) (src : CacSrc) (o : CacOp) (imm : BitVec 32) (who : Requester) : Out :=
  match src with
  | .bank t job off => .next (s.cacCommand t job off o imm who)
  | .packet h addr op =>
    let op := if (cacOpOf op.val).isSome then cacCode o else op.val
    .next (s.atEnd h (.cac addr.toNat op imm.toNat who) fun e s => s.cacAt h addr.toNat op imm.toNat who e)

/-- CNT: count := count + IMM (Table 7-2). -/
def execCnt (src : CacSrc) (imm : BitVec 32) (who : Requester) (s : State) : Out := s.cacFrom src .cnt imm who

/-- CNTLT: count below IMM is incremented (Table 7-2). -/
def execCntlt (src : CacSrc) (imm : BitVec 32) (who : Requester) (s : State) : Out := s.cacFrom src .cntlt imm who

/-- CEQ: count equal to IMM is incremented (Table 7-2). -/
def execCeq (src : CacSrc) (imm : BitVec 32) (who : Requester) (s : State) : Out := s.cacFrom src .ceq imm who

/-- SEMDN: count at least IMM is lowered by IMM (Table 7-2). -/
def execSemdn (src : CacSrc) (imm : BitVec 32) (who : Requester) (s : State) : Out := s.cacFrom src .semdn imm who

/-- LACQ: lock acquire by Table 7-4 (R154). -/
def execLacq (src : CacSrc) (imm : BitVec 32) (who : Requester) (s : State) : Out := s.cacFrom src .lacq imm who

/-- LREL: lock release by Table 7-4 (R154). -/
def execLrel (src : CacSrc) (imm : BitVec 32) (who : Requester) (s : State) : Out := s.cacFrom src .lrel imm who

/-- LRST: the word is set to 0 (Table 7-2). -/
def execLrst (src : CacSrc) (imm : BitVec 32) (who : Requester) (s : State) : Out := s.cacFrom src .lrst imm who

/-! ### Responses -/

/-- A response taken in by the unit that awaits it: a tile's, a Vat's uncached access, or the Rind's. -/
def State.answered (s : State) (h : Head) (st : NStatus) (d : List Byte) (fill : Bool) (cst : Nat) (cmpv : Word) (e : EndPt) : State :=
  match e with
  | .tile t => s.respond t h.tag st d fill cst
  | .spine f site => if site = 0x31 then s.vatUncDone f h.tag st d fill cst cmpv else s
  | .rind => s.rindAnswer h.tag st d fill

/-- RDATA (R162, R176, R188): read data at its requester, or at a member of a multicast read. -/
def execRdata (h : Head) (st : NStatus) (data : List Byte) (fill : Bool) (s : State) : Out :=
  .next (s.atEnd h (.rdata st data fill) fun e s =>
    match e, h.mcg with
    | .tile t, some g => match g.member with
      | some m =>
        let k := s.member t.field g.group m.val
        s.memberPart t k.eng k.ctx g st data fill
      | none => s.answered h st data fill 0 0 e
    | _, _ => s.answered h st data fill 0 0 e)

/-- WACK (R176). -/
def execWack (h : Head) (st : NStatus) (s : State) : Out := .next (s.atEnd h (.wack st) fun e s => s.answered h st [] false 0 0 e)

/-- CACR (R176). -/
def execCacr (h : Head) (st : NStatus) (cst : Fin 4) (cmpv : Word) (s : State) : Out :=
  .next (s.atEnd h (.cacr st cst.val cmpv) fun e s => s.answered h st (toBytes 8 cmpv.toNat) false cst.val cmpv e)

/-- BZACK (R164, R176). -/
def execBzack (h : Head) (st : NStatus) (s : State) : Out := .next (s.atEnd h (.bzack st) fun e s => s.answered h st [] false 0 0 e)

/-- MULTICAST_CREDIT: a member's credit that reaches the tile of the issuing engine: its count for that member rises (R162, R183). -/
def execMulticastCredit (h : Head) (e : Fin 2) (c : CtxNo) (units : BitVec 8) (s : State) : Out :=
  .next (s.atEnd h (.mcCredit e.val c units.toNat) fun at_ s =>
    match at_, h.mcg with
    | .tile t, some g => s.creditArrive t (Fin.castLE (by decide) e) c g
    | _, _ => s)

/-- TOKEN_ARRIVE (R97, R188). -/
def execTokenArrive (h : Head) (ctx : CtxNo) (ty : Byte) (s : State) : Out :=
  .next (s.atEnd h (.tok ctx ty) fun e s =>
    match e with
    | .tile t => s.tokenArrive t ctx ty h.job.val
    | _ => s)

/-- XLATR (R205): a translation at a Vat, or at the host agent. -/
def execXlatr (h : Head) (b : CohBody) (s : State) : Out :=
  let w : Word := if b.st = .done then b.pte else 0
  .next (s.atEnd h (.cohp .xlatR b) fun e s =>
    match e with
    | .spine f _ => s.vatXlatr f b.line w
    | .rind => s.agentWake b.line w
    | .tile _ => s)

end Sys2Proof.Machine
end

