-- ==== Sys2Proof/Machine/Grants.lean ====
section
/-! DEFINITION. What the requesters of the arbiter instances ask (R303, Table 13-1), and an arbiter's period. -/

namespace Sys2Proof.Machine

/-- What a requester asks that has n units of work, some of them already handed to it: of the room that the resource has
    (`room.demand`), as much as it can use. -/
def askFor (n granted : Nat) (room : ArbAsk) (bytes : Nat) (more : Bool) : ArbAsk :=
  let d := min room.demand (n - granted)
  { raised := decide (granted < n), demand := d, bytes := bytes, lowers := decide (d = n - granted) && !more, again := room.again }

/-- Whether the copy of a page from or to a cellar is in progress: one operation of its migration requester (R222, Table 13-3). -/
def State.copying (s : State) (f : FieldNo) : Bool :=
  let of (e : Word) : Bool := bits e 62 61 == 0 && bits e 53 48 == f.val
  match s.agent.move with
  | some ⟨_, _, _, old, new, .copy _ _ _, _⟩ => of old || of new
  | _ => false

/-- What requester k of an instance asks: the Vat's classes, the cellar's accesses, the job domains' host operations and the lanes
    due for recalibration ask as their work stands; the lane groups of a chain's row, telemetry and the lanes' traffic as the
    command says (R303, Table 13-1).
    DESIGN CHOICE: notes/assumptions/78. -/
def State.asks (s : State) (i : ArbInst) (k : Nat) (room : ArbAsk) : ArbAsk :=
  let granted := (s.arb (arbBase i)).grants.getD k 0
  match i with
  | .sfu _ => room
  | .vat f =>
    let n := (s.vat f).pend.countP fun a => fillClass a.op == k
    { askFor (min 1 n) granted { room with demand := 1 } 0 (decide (1 < n)) with raised := decide (0 < n) }
  | .cellar f =>
    if k = 3 then { room with raised := room.raised && s.scrubRuns (.cellar f) }
    else if k = 4 then room
    else
      let a := askFor ((s.fieldSt f.val).cellar.ops.countP fun o => o.who == k) granted room 0 (k == 2 && s.copying f)
      { a with raised := a.raised || (k == 2 && s.copying f) }
  | .host =>
    let tlps := (s.agent.ops.filter fun o => o.job.val == k).flatMap s.opTlps
    askFor tlps.length granted { room with demand := min 1 room.demand } (tlps.getD granted 0) false
  | .optical f =>
    if k = 1 then askFor ((List.range 2).countP fun h => HpSt.recalDue (s.hport (hpNo (2 * f.val + h)))) granted room 0 true else room

/-- ARBITER_PERIOD: one period of an instance. The operands give, for each requester, the units that its resource has room for, and
    for those whose work no other state shows, what it asks. -/
def execArbiterPeriod (i : ArbInst) (asks : List ArbAsk) (s : State) : Out :=
  if s.runs (arbBase i) then .next (s.arbPeriod (arbBase i) ((List.range 8).map fun k => s.asks i k (asks.getD k noAsk))) else .next s

end Sys2Proof.Machine
end

