-- ==== Sys2Proof/Machine/Dispatch.lean ====
section
/-! DEFINITION. One arm per command: its meaning. -/

namespace Sys2Proof.Machine

def exec (i : Instr) (s : State) : Host.Outcome State Fault Refusal :=
  match i with
  | .registerWrite ca v => Sys2Proof.Machine.execRegisterWrite ca v s
  | .registerReadClear ca => Sys2Proof.Machine.execRegisterReadClear ca s
  | .tilemapWrite ca v => Sys2Proof.Machine.execTilemapWrite ca v s
  | .sitebadWrite ca v => Sys2Proof.Machine.execSitebadWrite ca v s
  | .broadcastWrite ca v => Sys2Proof.Machine.execBroadcastWrite ca v s
  | .nop t => Sys2Proof.Machine.execNop t s
  | .setlc t n imm => Sys2Proof.Machine.execSetlc t n imm s
  | .djnz t n target => Sys2Proof.Machine.execDjnz t n target s
  | .jmp t target => Sys2Proof.Machine.execJmp t target s
  | .brz t n target => Sys2Proof.Machine.execBrz t n target s
  | .addlc t n imm => Sys2Proof.Machine.execAddlc t n imm s
  | .ldlc t n word => Sys2Proof.Machine.execLdlc t n word s
  | .brtok t src ty target => Sys2Proof.Machine.execBrtok t src ty target s
  | .brtokRetest t => Sys2Proof.Machine.execBrtokRetest t s
  | .wait t cond n => Sys2Proof.Machine.execWait t cond n s
  | .waitConditionMet t => Sys2Proof.Machine.execWaitConditionMet t s
  | .yield t => Sys2Proof.Machine.execYield t s
  | .notify t code => Sys2Proof.Machine.execNotify t code s
  | .endCtx t code => Sys2Proof.Machine.execEndCtx t code s
  | .bundleIssue t due since => Sys2Proof.Machine.execBundleIssue t due since s
  | .contextChoice t adv => Sys2Proof.Machine.execContextChoice t adv s
  | .istoreWrite ca v => Sys2Proof.Machine.execIstoreWrite ca v s
  | .ctxcfgWrite ca v => Sys2Proof.Machine.execCtxcfgWrite ca v s
  | .loopCounterWrite ca v => Sys2Proof.Machine.execLoopCounterWrite ca v s
  | .start t c pc => Sys2Proof.Machine.execStart t c pc s
  | .stop t c => Sys2Proof.Machine.execStop t c s
  | .resume t c => Sys2Proof.Machine.execResume t c s
  | .unload t c => Sys2Proof.Machine.execUnload t c s
  | .contextStopComplete t c => Sys2Proof.Machine.execContextStopComplete t c s
  | .counterWrite ca v => Sys2Proof.Machine.execCounterWrite ca v s
  | .counterWrap ca n => Sys2Proof.Machine.execCounterWrap ca n s
  | .run t k => Sys2Proof.Machine.execRun t k s
  | .runStart t => Sys2Proof.Machine.execRunStart t s
  | .weightLoad t => Sys2Proof.Machine.execWeightLoad t s
  | .weightSwap t => Sys2Proof.Machine.execWeightSwap t s
  | .rowPass t fault => Sys2Proof.Machine.execRowPass t fault s
  | .clrhalt t => Sys2Proof.Machine.execClrhalt t s
  | .checkInject t block count => Sys2Proof.Machine.execCheckInject t block count s
  | .checkInjectCancel t => Sys2Proof.Machine.execCheckInjectCancel t s
  | .accWindowWrite t row lane v collide portS => Sys2Proof.Machine.execAccWindowWrite t row lane v collide portS s
  | .accWindowRead t row lane upset portS => Sys2Proof.Machine.execAccWindowRead t row lane upset portS s
  | .chain t k => Sys2Proof.Machine.execChain t k s
  | .invocationStart t => Sys2Proof.Machine.execInvocationStart t s
  | .preloadRead t => Sys2Proof.Machine.execPreloadRead t s
  | .chainRow t upsets errs => Sys2Proof.Machine.execChainRow t upsets errs s
  | .chainEntryPlace t => Sys2Proof.Machine.execChainEntryPlace t s
  | .chainConfigWrite ca v => Sys2Proof.Machine.execChainConfigWrite ca v s
  | .rowstateWrite ca v collide => Sys2Proof.Machine.execRowstateWrite ca v collide s
  | .vmodeWrite ca v => Sys2Proof.Machine.execVmodeWrite ca v s
  | .bankAccess t upsets reqs => Sys2Proof.Machine.execBankAccess t upsets reqs s
  | .spdBoundWrite ca v => Sys2Proof.Machine.execSpdBoundWrite ca v s
  | .cnt src imm who => Sys2Proof.Machine.execCnt src imm who s
  | .cntlt src imm who => Sys2Proof.Machine.execCntlt src imm who s
  | .ceq src imm who => Sys2Proof.Machine.execCeq src imm who s
  | .semdn src imm who => Sys2Proof.Machine.execSemdn src imm who s
  | .lacq src imm who => Sys2Proof.Machine.execLacq src imm who s
  | .lrel src imm who => Sys2Proof.Machine.execLrel src imm who s
  | .lrst src imm who => Sys2Proof.Machine.execLrst src imm who s
  | .epochNotice dest tile epoch => Sys2Proof.Machine.execEpochNotice dest tile epoch s
  | .streamProgramWrite ca v => Sys2Proof.Machine.execStreamProgramWrite ca v s
  | .streamStart t e prog psrc plc param => Sys2Proof.Machine.execStreamStart t e prog psrc plc param s
  | .streamStop t e => Sys2Proof.Machine.execStreamStop t e s
  | .newgen t e => Sys2Proof.Machine.execNewgen t e s
  | .tok t k since => Sys2Proof.Machine.execTok t k since s
  | .queuedProgramStart t e c => Sys2Proof.Machine.execQueuedProgramStart t e c s
  | .streamEnd t e c => Sys2Proof.Machine.execStreamEnd t e c s
  | .ixset t e c => Sys2Proof.Machine.execIxset t e c s
  | .ixadd t e c => Sys2Proof.Machine.execIxadd t e c s
  | .ixld t e c => Sys2Proof.Machine.execIxld t e c s
  | .setc t e c => Sys2Proof.Machine.execSetc t e c s
  | .streamDjnz t e c => Sys2Proof.Machine.execStreamDjnz t e c s
  | .streamJmp t e c => Sys2Proof.Machine.execStreamJmp t e c s
  | .brs t e c => Sys2Proof.Machine.execBrs t e c s
  | .row t e c => Sys2Proof.Machine.execRow t e c s
  | .line t e c => Sys2Proof.Machine.execLine t e c s
  | .streamCac t e c => Sys2Proof.Machine.execStreamCac t e c s
  | .accxSpill t c upsets portS => Sys2Proof.Machine.execAccxSpill t c upsets portS s
  | .accxFill t e c lost portS => Sys2Proof.Machine.execAccxFill t e c lost portS s
  | .plim t e c => Sys2Proof.Machine.execPlim t e c s
  | .maskn t e c => Sys2Proof.Machine.execMaskn t e c s
  | .streamTok t e c => Sys2Proof.Machine.execStreamTok t e c s
  | .waitn t e c => Sys2Proof.Machine.execWaitn t e c s
  | .waitnExpire t e c => Sys2Proof.Machine.execWaitnExpire t e c s
  | .mrx t e c src srcEng srcCtx group => Sys2Proof.Machine.execMrx t e c src srcEng srcCtx group s
  | .setm t e c => Sys2Proof.Machine.execSetm t e c s
  | .multicastRead t e c => Sys2Proof.Machine.execMulticastRead t e c s
  | .multicastWrite t c => Sys2Proof.Machine.execMulticastWrite t c s
  | .breezeTransfer t c since => Sys2Proof.Machine.execBreezeTransfer t c since s
  | .streamResponse t tag st data fill => Sys2Proof.Machine.execStreamResponse t tag st data fill s
  | .engineTokenPlace t e c => Sys2Proof.Machine.execEngineTokenPlace t e c s
  | .multicastCredit h e c units => Sys2Proof.Machine.execMulticastCredit h e c units s
  | .packetForward n k => Sys2Proof.Machine.execPacketForward n k s
  | .rd h addr len => Sys2Proof.Machine.execRd h addr len s
  | .wr h addr data => Sys2Proof.Machine.execWr h addr data s
  | .regrd h ca => Sys2Proof.Machine.execRegrd h ca s
  | .regwr h ca v => Sys2Proof.Machine.execRegwr h ca v s
  | .rdata h st data fill => Sys2Proof.Machine.execRdata h st data fill s
  | .wack h st => Sys2Proof.Machine.execWack h st s
  | .cacr h st cst cmpv => Sys2Proof.Machine.execCacr h st cst cmpv s
  | .bzw h addr data => Sys2Proof.Machine.execBzw h addr data s
  | .bzack h st => Sys2Proof.Machine.execBzack h st s
  | .tokenArrive h ctx ty => Sys2Proof.Machine.execTokenArrive h ctx ty s
  | .flitReplay f site link fails n k => Sys2Proof.Machine.execFlitReplay f site link fails n k s
  | .pathNotice t mask => Sys2Proof.Machine.execPathNotice t mask s
  | .laneParityThreshold f link dir bundle lane errs => Sys2Proof.Machine.execLaneParityThreshold f link dir bundle lane errs s
  | .sparecmd ca v => Sys2Proof.Machine.execSparecmd ca v s
  | .spareSwitchComplete f gust n => Sys2Proof.Machine.execSpareSwitchComplete f gust n s
  | .red h r resid => Sys2Proof.Machine.execRed h r resid s
  | .reductionResultSend f site tree slot => Sys2Proof.Machine.execReductionResultSend f site tree slot s
  | .reductionCredit f site tree => Sys2Proof.Machine.execReductionCredit f site tree s
  | .rootSink f n => Sys2Proof.Machine.execRootSink f n s
  | .treeEntryWrite ca v => Sys2Proof.Machine.execTreeEntryWrite ca v s
  | .multicastReplicate n => Sys2Proof.Machine.execMulticastReplicate n s
  | .multicastWack f n => Sys2Proof.Machine.execMulticastWack f n s
  | .cellarAccess f who crc bad upsets => Sys2Proof.Machine.execCellarAccess f who crc bad upsets s
  | .vatRead f h addr len => Sys2Proof.Machine.execVatRead f h addr len s
  | .vatWrite f h addr data cac => Sys2Proof.Machine.execVatWrite f h addr data cac s
  | .missAllocate f who => Sys2Proof.Machine.execMissAllocate f who s
  | .reads h b => Sys2Proof.Machine.execReads h b s
  | .readx h b => Sys2Proof.Machine.execReadx h b s
  | .upgrade h b => Sys2Proof.Machine.execUpgrade h b s
  | .putm h b => Sys2Proof.Machine.execPutm h b s
  | .pute h b => Sys2Proof.Machine.execPute h b s
  | .puts h b => Sys2Proof.Machine.execPuts h b s
  | .xlat h b => Sys2Proof.Machine.execXlat h b s
  | .prec h b => Sys2Proof.Machine.execPrec h b s
  | .data f h b => Sys2Proof.Machine.execData f h b s
  | .upgack f h b => Sys2Proof.Machine.execUpgack f h b s
  | .fwds f h b => Sys2Proof.Machine.execFwds f h b s
  | .fwdx f h b => Sys2Proof.Machine.execFwdx f h b s
  | .inv f h b => Sys2Proof.Machine.execInv f h b s
  | .invack h b => Sys2Proof.Machine.execInvack h b s
  | .fwdack h b => Sys2Proof.Machine.execFwdack h b s
  | .putack f h b => Sys2Proof.Machine.execPutack f h b s
  | .xlatr h b => Sys2Proof.Machine.execXlatr h b s
  | .tinv f h b => Sys2Proof.Machine.execTinv f h b s
  | .tinvack h b => Sys2Proof.Machine.execTinvack h b s
  | .precack h b => Sys2Proof.Machine.execPrecack h b s
  | .directoryRecall n => Sys2Proof.Machine.execDirectoryRecall n s
  | .flushAll f => Sys2Proof.Machine.execFlushAll f s
  | .flushPage f => Sys2Proof.Machine.execFlushPage f s
  | .flushDone f => Sys2Proof.Machine.execFlushDone f s
  | .caveEnableWrite ca v => Sys2Proof.Machine.execCaveEnableWrite ca v s
  | .ptWrite ca v => Sys2Proof.Machine.execPtWrite ca v s
  | .ptRead ca v => Sys2Proof.Machine.execPtRead ca v s
  | .ptCommandDone => Sys2Proof.Machine.execPtCommandDone s
  | .move ca v => Sys2Proof.Machine.execMove ca v s
  | .migrationMove => Sys2Proof.Machine.execMigrationMove s
  | .freeRingPush ca v => Sys2Proof.Machine.execFreeRingPush ca v s
  | .autoPromotion page => Sys2Proof.Machine.execAutoPromotion page s
  | .counterDecay n => Sys2Proof.Machine.execCounterDecay n s
  | .hostMemoryOperation n => Sys2Proof.Machine.execHostMemoryOperation n s
  | .pcieCompletion port tag data => Sys2Proof.Machine.execPcieCompletion port tag data s
  | .completionTimeout port tag => Sys2Proof.Machine.execCompletionTimeout port tag s
  | .fetchStart ca v => Sys2Proof.Machine.execFetchStart ca v s
  | .fetchStop ca v => Sys2Proof.Machine.execFetchStop ca v s
  | .cancel ca v => Sys2Proof.Machine.execCancel ca v s
  | .touch f => Sys2Proof.Machine.execTouch f s
  | .touchComplete f => Sys2Proof.Machine.execTouchComplete f s
  | .sourcePoll t k => Sys2Proof.Machine.execSourcePoll t k s
  | .chunkInject t k resid => Sys2Proof.Machine.execChunkInject t k resid s
  | .sinkChunk t k resid => Sys2Proof.Machine.execSinkChunk t k resid s
  | .blockUpdate t k => Sys2Proof.Machine.execBlockUpdate t k s
  | .orthogonalise t k => Sys2Proof.Machine.execOrthogonalise t k s
  | .precondition t k => Sys2Proof.Machine.execPrecondition t k s
  | .shardSettle t k => Sys2Proof.Machine.execShardSettle t k s
  | .shardEntryWrite ca v => Sys2Proof.Machine.execShardEntryWrite ca v s
  | .ringPoll t => Sys2Proof.Machine.execRingPoll t s
  | .select t => Sys2Proof.Machine.execSelect t s
  | .gatherRows t => Sys2Proof.Machine.execGatherRows t s
  | .gatherBlocks t => Sys2Proof.Machine.execGatherBlocks t s
  | .intersect t => Sys2Proof.Machine.execIntersect t s
  | .union t => Sys2Proof.Machine.execUnion t s
  | .andnot t => Sys2Proof.Machine.execAndnot t s
  | .bucket t => Sys2Proof.Machine.execBucket t s
  | .bucketFreeRetry t => Sys2Proof.Machine.execBucketFreeRetry t s
  | .commandComplete t => Sys2Proof.Machine.execCommandComplete t s
  | .sparseRingWrite ca v => Sys2Proof.Machine.execSparseRingWrite ca v s
  | .arbiterPeriod inst asks => Sys2Proof.Machine.execArbiterPeriod inst asks s
  | .windowStart inst => Sys2Proof.Machine.execWindowStart inst s
  | .commit inst refill => Sys2Proof.Machine.execCommit inst refill s
  | .refill inst => Sys2Proof.Machine.execRefill inst s
  | .frame h cws => Sys2Proof.Machine.execFrame h cws s
  | .flitResend h => Sys2Proof.Machine.execFlitResend h s
  | .fabricRoute e src => Sys2Proof.Machine.execFabricRoute e src s
  | .fabricDelivery e n => Sys2Proof.Machine.execFabricDelivery e n s
  | .xtreeCombine e src resid => Sys2Proof.Machine.execXtreeCombine e src resid s
  | .xtreeResult e k down => Sys2Proof.Machine.execXtreeResult e k down s
  | .signalDetect h => Sys2Proof.Machine.execSignalDetect h s
  | .laneLock h locked => Sys2Proof.Machine.execLaneLock h locked s
  | .alignComplete h => Sys2Proof.Machine.execAlignComplete h s
  | .identToUp h => Sys2Proof.Machine.execIdentToUp h s
  | .trainingTimeout h => Sys2Proof.Machine.execTrainingTimeout h s
  | .roleWrite ca v => Sys2Proof.Machine.execRoleWrite ca v s
  | .modidWrite ca v => Sys2Proof.Machine.execModidWrite ca v s
  | .recalibrationStart h lane => Sys2Proof.Machine.execRecalibrationStart h lane s
  | .recalibration h errs => Sys2Proof.Machine.execRecalibration h errs s
  | .statusNotice f => Sys2Proof.Machine.execStatusNotice f s
  | .timeAdjust => Sys2Proof.Machine.execTimeAdjust s
  | .timeset ca v => Sys2Proof.Machine.execTimeset ca v s
  | .timectlWrite ca v => Sys2Proof.Machine.execTimectlWrite ca v s
  | .bar0Write func off data => Sys2Proof.Machine.execBar0Write func off data s
  | .bar0Read func tag off len => Sys2Proof.Machine.execBar0Read func tag off len s
  | .bar2Access func tag off write len => Sys2Proof.Machine.execBar2Access func tag off write len s
  | .dataWindowWrite ca v => Sys2Proof.Machine.execDataWindowWrite ca v s
  | .funcjobWrite ca v => Sys2Proof.Machine.execFuncjobWrite ca v s
  | .queueConfigWrite ca v => Sys2Proof.Machine.execQueueConfigWrite ca v s
  | .queueDrained q => Sys2Proof.Machine.execQueueDrained q s
  | .sqDoorbell q func size v => Sys2Proof.Machine.execSqDoorbell q func size v s
  | .cqDoorbell q func size v => Sys2Proof.Machine.execCqDoorbell q func size v s
  | .descriptorFetch q => Sys2Proof.Machine.execDescriptorFetch q s
  | .descNop q => Sys2Proof.Machine.execDescNop q s
  | .h2d q => Sys2Proof.Machine.execH2d q s
  | .d2h q => Sys2Proof.Machine.execD2h q s
  | .descRegwr q => Sys2Proof.Machine.execDescRegwr q s
  | .descRegrd q => Sys2Proof.Machine.execDescRegrd q s
  | .load q img fail => Sys2Proof.Machine.execLoad q img fail s
  | .fwload q pkg fail => Sys2Proof.Machine.execFwload q pkg fail s
  | .descReset q => Sys2Proof.Machine.execDescReset q s
  | .completionWrite q => Sys2Proof.Machine.execCompletionWrite q s
  | .msixMessage q => Sys2Proof.Machine.execMsixMessage q s
  | .eventRecord => Sys2Proof.Machine.execEventRecord s
  | .evqWrite ca v => Sys2Proof.Machine.execEvqWrite ca v s
  | .revoke k => Sys2Proof.Machine.execRevoke k s
  | .moduleReset => Sys2Proof.Machine.execModuleReset s
  | .fieldReset => Sys2Proof.Machine.execFieldReset s
  | .tileReset => Sys2Proof.Machine.execTileReset s
  | .contextReset => Sys2Proof.Machine.execContextReset s
  | .jobDomainReset => Sys2Proof.Machine.execJobDomainReset s
  | .resetDone => Sys2Proof.Machine.execResetDone s
  | .functionLevelReset func => Sys2Proof.Machine.execFunctionLevelReset func s
  | .perst port => Sys2Proof.Machine.execPerst port s
  | .vfEnableClear set => Sys2Proof.Machine.execVfEnableClear set s
  | .d3hotTransition func hot => Sys2Proof.Machine.execD3hotTransition func hot s
  | .switch => Sys2Proof.Machine.execSwitch s
  | .confirm => Sys2Proof.Machine.execConfirm s
  | .firmwareReady => Sys2Proof.Machine.execFirmwareReady s
  | .firmwareRevert => Sys2Proof.Machine.execFirmwareRevert s
  | .standbyApply straps => Sys2Proof.Machine.execStandbyApply straps s
  | .mainPowerInRange => Sys2Proof.Machine.execMainPowerInRange s
  | .thaw dom hold => Sys2Proof.Machine.execThaw dom hold s
  | .queuedThawStart => Sys2Proof.Machine.execQueuedThawStart s
  | .rampEnd f => Sys2Proof.Machine.execRampEnd f s
  | .testEnd f bad => Sys2Proof.Machine.execTestEnd f bad s
  | .stageFailed f => Sys2Proof.Machine.execStageFailed f s
  | .continue dom => Sys2Proof.Machine.execContinue dom s
  | .linkCalibrationEnd f link good => Sys2Proof.Machine.execLinkCalibrationEnd f link good s
  | .cellarTrainingEnd f good => Sys2Proof.Machine.execCellarTrainingEnd f good s
  | .fieldFull f => Sys2Proof.Machine.execFieldFull f s
  | .setfreq dom freq => Sys2Proof.Machine.execSetfreq dom freq s
  | .clockRestart f => Sys2Proof.Machine.execClockRestart f s
  | .freeze dom => Sys2Proof.Machine.execFreeze dom s
  | .freezeDone f => Sys2Proof.Machine.execFreezeDone f s
  | .freezeOverrun f => Sys2Proof.Machine.execFreezeOverrun f s
  | .powerSample mv ia e12 => Sys2Proof.Machine.execPowerSample mv ia e12 s
  | .capAdjust => Sys2Proof.Machine.execCapAdjust s
  | .thermalRead f => Sys2Proof.Machine.execThermalRead f s
  | .inputLoss mv => Sys2Proof.Machine.execInputLoss mv s
  | .standbyLoss => Sys2Proof.Machine.execStandbyLoss s
  | .pwrCtlWrite ca v => Sys2Proof.Machine.execPwrCtlWrite ca v s
  | .optgateWrite ca v => Sys2Proof.Machine.execOptgateWrite ca v s
  | .siteGate t => Sys2Proof.Machine.execSiteGate t s
  | .gsparecmd f link dir bundle lane => Sys2Proof.Machine.execGsparecmd f link dir bundle lane s
  | .scrubLine u ups => Sys2Proof.Machine.execScrubLine u ups s
  | .scrubWriteback u => Sys2Proof.Machine.execScrubWriteback u s
  | .scrubStarved u => Sys2Proof.Machine.execScrubStarved u s
  | .press t mask => Sys2Proof.Machine.execPress t mask s
  | .pressComplete t c => Sys2Proof.Machine.execPressComplete t c s
  | .pressTimeout t c => Sys2Proof.Machine.execPressTimeout t c s
  | .jobPress job => Sys2Proof.Machine.execJobPress job s
  | .jobPressDone => Sys2Proof.Machine.execJobPressDone s
  | .remap f k site => Sys2Proof.Machine.execRemap f k site s
  | .remapCopyDone f lines => Sys2Proof.Machine.execRemapCopyDone f lines s
  | .remapCatchupPass f lines => Sys2Proof.Machine.execRemapCatchupPass f lines s
  | .remapCutover f => Sys2Proof.Machine.execRemapCutover f s
  | .snapshot ca => Sys2Proof.Machine.execSnapshot ca s
  | .snapshotArm t => Sys2Proof.Machine.execSnapshotArm t s
  | .armedSnapshot ca => Sys2Proof.Machine.execArmedSnapshot ca s
  | .timeCopySet => Sys2Proof.Machine.execTimeCopySet s
  | .laneCountClear f link dir bundle => Sys2Proof.Machine.execLaneCountClear f link dir bundle s
  | .sensorUpdate place n v => Sys2Proof.Machine.execSensorUpdate place n v s
  | .setEndpointId e => Sys2Proof.Machine.execSetEndpointId e s
  | .getEndpointId => Sys2Proof.Machine.execGetEndpointId s
  | .getEndpointUuid => Sys2Proof.Machine.execGetEndpointUuid s
  | .getMctpVersionSupport => Sys2Proof.Machine.execGetMctpVersionSupport s
  | .getMessageTypeSupport => Sys2Proof.Machine.execGetMessageTypeSupport s
  | .gettid => Sys2Proof.Machine.execGettid s
  | .getpldmversion ty => Sys2Proof.Machine.execGetpldmversion ty s
  | .getpldmtypes => Sys2Proof.Machine.execGetpldmtypes s
  | .getpldmcommands ty => Sys2Proof.Machine.execGetpldmcommands ty s
  | .getpdr n => Sys2Proof.Machine.execGetpdr n s
  | .getsensorreading id => Sys2Proof.Machine.execGetsensorreading id s
  | .getstatesensorreadings id => Sys2Proof.Machine.execGetstatesensorreadings id s
  | .seteventreceiver e => Sys2Proof.Machine.execSeteventreceiver e s
  | .platformeventmessage acked => Sys2Proof.Machine.execPlatformeventmessage acked s
  | .eventMessageRetry acked => Sys2Proof.Machine.execEventMessageRetry acked s
  | .extest cells => Sys2Proof.Machine.execExtest cells s
  | .idcode => Sys2Proof.Machine.execIdcode s
  | .samplePreload cells => Sys2Proof.Machine.execSamplePreload cells s
  | .dbgacc op ca data => Sys2Proof.Machine.execDbgacc op ca data s
  | .bypass => Sys2Proof.Machine.execBypass s
  | .debugUnlock req => Sys2Proof.Machine.execDebugUnlock req s
  | .unlockVerifyDone => Sys2Proof.Machine.execUnlockVerifyDone s
  | .unlockLockoutEnd => Sys2Proof.Machine.execUnlockLockoutEnd s
  | .relock => Sys2Proof.Machine.execRelock s
  | .halt t => Sys2Proof.Machine.execHalt t s
  | .debugResume t ctx step => Sys2Proof.Machine.execDebugResume t ctx step s
  | .stepComplete t => Sys2Proof.Machine.execStepComplete t s
  | .breakpoint t => Sys2Proof.Machine.execBreakpoint t s
  | .fieldHalt f sites => Sys2Proof.Machine.execFieldHalt f sites s
  | .fieldResume f => Sys2Proof.Machine.execFieldResume f s
  | .scanWrite ca v => Sys2Proof.Machine.execScanWrite ca v s
  | .resetPin => Sys2Proof.Machine.execResetPin s
  | .resetPinRelease straps => Sys2Proof.Machine.execResetPinRelease straps s
  | .gustCalibrationEnd f failed => Sys2Proof.Machine.execGustCalibrationEnd f failed s
  | .pcieLinkDown port => Sys2Proof.Machine.execPcieLinkDown port s
  | .pcieLinkUp port => Sys2Proof.Machine.execPcieLinkUp port s
  | .lockedLaneLoss h lane => Sys2Proof.Machine.execLockedLaneLoss h lane s

end Sys2Proof.Machine
end

