-- ==== Sys2Proof/Machine/Tick.lean ====
section
/-! DEFINITION. What an empty queue lets happen: a nanosecond of fabric time passes. -/

namespace Sys2Proof.Machine

/-- The counts between two nanoseconds that a slew adds or removes: 100 ppm (R332). -/
def slewPeriod : Nat := 10000

/-- How far fabric time advances in one nanosecond and what is then left of the slew (R332): by 1, and while a mean is
    still to be removed by 2 or by 0 once in 10,000 counts, so that it never runs backwards. -/
def slewStep (t : TimeSt) : Nat × TimeSt :=
  if t.slew = 0 then (1, { t with phase := 0 })
  else if t.phase + 1 < slewPeriod then (1, { t with phase := t.phase + 1 })
  else if 0 < t.slew then (2, { t with slew := t.slew - 1, phase := 0 })
  else (0, { t with slew := t.slew + 1, phase := 0 })

/-- The edges of a field's PLL in 10 ns at a setting of FREQ: 0.50, 1.00 or 1.10 GHz (R379). -/
def edgesPer10 (freq : Nat) : Nat := if freq = 0 then 5 else if freq = 1 then 10 else 11

/-- The edges of a field's PLL in the nanosecond after the t-th at a setting of FREQ, and how many of them throttling at
    level n suppresses: the last n of each group of 16 (R380).
    DESIGN CHOICE: notes/assumptions/99. -/
def pllEdges (freq n t : Nat) : Nat × Nat :=
  let lo := edgesPer10 freq * t / 10
  let k := edgesPer10 freq * (t + 1) / 10 - lo
  (k, ((List.range k).filter fun i => decide (16 - n ≤ (lo + i) % 16)).length)

/-- The clock counters of a field's controller over one nanosecond (Table 18-1): its cycles at the setting in force and the
    edges that throttling suppresses, or the nanosecond of a clock stop. -/
def State.countClock (s : State) (f : FieldNo) : State :=
  let tel (k : Nat) : Nat := fcCa f 3 (0x100 + 8 * k)
  if !s.up f.val then s
  else if s.rind.power.stopped.contains f.val then s.count (tel 4) 1
  else
    let q := min 2 (tget 0 s.rind.power.clock f.val)
    let (k, lost) := pllEdges q (s.fld (rindCa 1 (0x100 + 8 * (f.val + 1))) 39 36) s.rind.ticks
    (s.count (tel q) (k - lost)).count (tel 3) lost

/-- One nanosecond (R330, R332, R379, R380, R413): the clock counters of each field advance, ISO_TIME advances, slewed if a
    mean is still to be removed, the copy of each field that has one advances by 1, and the Rind's own count of
    nanoseconds by 1. -/
def tick (s : State) : State :=
  let s := (List.finRange 48).foldl (fun s f => s.countClock f) s
  let (n, sync) := slewStep s.sync
  let s := s.setReg (fabricCa 0x10) (s.now + BitVec.ofNat 64 n)
  let times := (List.range 48).foldl (fun m f => if s.fieldState f = 0 then m else tset 0 m f (tget 0 m f + 1)) s.times
  { s with sync := sync, times := times, rind := { s.rind with ticks := s.rind.ticks + 1 } }

end Sys2Proof.Machine
end

