-- ==== Sys2Proof/Machine/Step.lean ====
section
/-! DEFINITION. One step: the command at the front of the queue, or a nanosecond of fabric time. -/

namespace Sys2Proof.Machine

/-- One step of the module. The command at the front of the queue is taken and its effect is the answer; on an empty
    queue a nanosecond passes (DESIGN CHOICE, notes/assumptions/4).
    DESIGN CHOICE: notes/assumptions/118.
    DESIGN CHOICE: notes/assumptions/119. -/
def step (s : State) : Host.Outcome State Fault Refusal :=
  match s.pending with
  | [] => .next (tick s)
  | c :: rest => exec c { s with pending := rest }

/-- The state with the command that a word spells put at the front of the queue. -/
def State.withFetchWord (s : State) (nbits w : Nat) : State :=
  match decodeTableWord nbits w with
  | some c => { s with pending := c :: s.pending }
  | none => s

end Sys2Proof.Machine
end

