-- ==== Sys2Proof/Safety.lean ====
section
/-! DEFINITION. What counts as a safe run: no step ends in a fault or a refusal. -/

namespace Sys2Proof.Machine

/-- A step that answers a next state. -/
def Completes (s : State) : Prop := ∃ t, step s = .next t

end Sys2Proof.Machine
end

