-- ==== Sys2Proof/Certificates/Slice0/Obligations.lean ====
section
/-! DEFINITION. The statements for the provers. -/

namespace Sys2Proof.Claims

open Sys2Proof Sys2Proof.Machine

/-- A command answers a next state, and that state is as `P` says. -/
def Gives (c : Instr) (s : State) (P : State → Prop) : Prop := ∃ t, exec c s = .next t ∧ P t

/-- A control address as an operand. -/
def caOf (a : Nat) : Ca := BitVec.ofNat 40 a

/-- A register write that reaches its register: the address is mapped and of one field, the block answers, no LOAD claims the
    register and the debug level allows the write. -/
def Lands (s : State) (ca : Nat) (k : SiteKind) (g : RegGroup) (is : List Nat) : Prop :=
  decodeCa ca = some (k, g, is) ∧ (caParts ca).field ≠ 0x3F ∧ s.answers ca = true ∧ s.claims ca = false ∧
  writeLevel k (caParts ca) g ≤ s.level

/-- Every other register and all of memory as before. -/
def OthersKept (s t : State) (ca : Nat) : Prop := (∀ cb ≠ ca, t.reg cb = s.reg cb) ∧ t.mem = s.mem

/-- The value stored field by field by the access codes (Table 0-2, R7). -/
def Stored (s t : State) (ca : Nat) (g : RegGroup) (v : Word) : Prop :=
  t.reg ca = storeFields g.fields (s.reg ca) v ∧ OthersKept s t ca

/-- A rejected write: registers and memory as before, and one configuration-error event about the register (R7, R17). -/
def Rejected (s t : State) (ca : Nat) : Prop :=
  t.regs = s.regs ∧ t.mem = s.mem ∧
  t.events = s.events ++ [⟨0x04, none, none, (caParts ca).field, (caParts ca).site, BitVec.ofNat 64 (ca % 2 ^ 40),
    s.timeCopy (caParts ca).field⟩]

/-- The control address with field code f in place of 0x3F. -/
def inField (ca f : Nat) : Nat := ca - (0x3F <<< 34) + f <<< 34

/-- The event of an access that nothing answers (R22). -/
def nobody (s : State) (ca : Nat) : Event := ⟨0x05, none, none, 0x3C, 0, BitVec.ofNat 64 ca, s.now⟩

/-- The k-th counter of a field controller: 0 to 2 the cycles at each setting of FREQ, 3 the edges that throttling suppresses,
    4 the nanoseconds of a stopped clock (Table 18-1). -/
def clockCa (f : FieldNo) (k : Nat) : Nat := fcCa f 3 (0x100 + 8 * k)

/-- By how much such a counter advances in a nanosecond. -/
def clockCount (s : State) (f : FieldNo) (k : Nat) : Nat :=
  let q := min 2 (tget 0 s.rind.power.clock f.val)
  let e := pllEdges q (s.fld (rindCa 1 (0x100 + 8 * (f.val + 1))) 39 36) s.rind.ticks
  if s.up f.val = false then 0
  else if s.rind.power.stopped.contains f.val = true then (if k = 4 then 1 else 0)
  else if k = q then e.1 - e.2 else if k = 3 then e.2 else 0

/-- No run or invocation of a context waits to start in the cycle (R92, R93). -/
def NoStarts (s : State) (t : Tile) (c : CtxNo) : Prop :=
  (∀ d, (s.tile t).mxe.queued = some d → d.ctx ≠ c) ∧ ∀ v, (s.tile t).chain.queued = some v → v.ctx ≠ c

/-- Nothing else happens in the cycle: no token of the tile to itself is on its way (R95), and no run or invocation of the context
    waits to start. -/
def Alone (s : State) (t : Tile) (c : CtxNo) : Prop := (s.tile t).ownToks = [] ∧ NoStarts s t c

/-- A context of a tile that may issue its next bundle in this cycle: the tile's field serves and its clock runs, the context is
    current and RUNNING and waits for nothing, and neither a switch cycle, a stopped engine nor a debug halt stands in the way. -/
def Issuing (s : State) (t : Tile) (c : CtxNo) : Prop :=
  s.clocked t.field.val = true ∧ (s.tile t).current = some c ∧ (s.tile t).switching = false ∧ (s.tile t).mxe.halted = false ∧
  (s.tile t).mxe.hold = 0 ∧ (s.tile t).dbg.halted = false ∧ (s.ctx t c).state = .running ∧ (s.ctx t c).wait = .no ∧ s.haltDue t c = false

/-- Such a context in a cycle in which nothing else happens. -/
def MayIssue (s : State) (t : Tile) (c : CtxNo) : Prop := Issuing s t c ∧ Alone s t c

/-- The cycle counters of a tile's contexts and units (R105, R106, R412). -/
def SeqCounter (t : Tile) (ca : Nat) : Prop :=
  (∃ d : CtxNo, ca = cycCa t d ∨ ca = advCa t d ∨ ca = waitCa t d ∨ ∃ k < 8, ca = stallCa t d k) ∨
  ∃ k ∈ [1, 5, 6, 7, 8, 25], ca = tileCa t 0x0B (0x100 + 8 * k)

/-- What a sequencer slot leaves alone: every register but those named and the cycle counters, memory, the other tiles,
    the shared blocks and the network. -/
def SeqKept (s u : State) (t : Tile) (cs : List Nat) : Prop :=
  (∀ ca, ca ∉ cs → ¬ SeqCounter t ca → u.reg ca = s.reg ca) ∧ u.mem = s.mem ∧ (∀ t', t' ≠ t → u.tile t' = s.tile t') ∧
  u.fields = s.fields ∧ u.rind = s.rind

/-- The PC of the next bundle. -/
def nextPc (s : State) (t : Tile) (c : CtxNo) : BitVec 13 := BitVec.ofNat 13 ((s.ctx t c).pc.toNat + 1)

/-- The step number that a context latched at its START, UPD_CSTEP_c (R273). -/
def cstepCa (t : Tile) (c : CtxNo) : Nat := tileCa t 0x09 (0x140 + 8 * c.val)

/-- The registers that START clears or latches. -/
def startRegs (t : Tile) (c : CtxNo) : List Nat :=
  [pressCa t, cstepCa t c, cycCa t c, advCa t c, waitCa t c] ++ (List.range 8).map (lcCa t c) ++ (List.range 8).map (stallCa t c)

/-- The other contexts of a tile, the other tiles, memory and every register but those named as before. -/
def CtxAlone (s u : State) (t : Tile) (c : CtxNo) (cs : List Nat) : Prop :=
  (∀ d, d ≠ c → u.ctx t d = s.ctx t d) ∧ (∀ t', t' ≠ t → u.tile t' = s.tile t') ∧ (∀ ca, ca ∉ cs → u.reg ca = s.reg ca) ∧ u.mem = s.mem

/-- A context command rejected (R99). -/
def CmdRejected (s u : State) (t : Tile) (c : CtxNo) : Prop := Rejected s u (ctxcmdCa t c) ∧ (∀ d, u.ctx t d = s.ctx t d) ∧ ∀ t', t' ≠ t → u.tile t' = s.tile t'

/-- The global row that the next row of a run writes (R52). -/
def runRow (r : Run) : Nat := (if r.desc.bank = 1 then 512 else 0) + (r.desc.rowbase + r.prob * r.desc.pstep + r.row) % 512

/-- A row of a run that is due with its entry at the head of stream-in A, in bounds, with no injection in progress, and with
    every residue of the row sound. -/
def RowReady (s : State) (t : Tile) (r : Run) (bytes : List Byte) : Prop :=
  (s.tile t).mxe.run = some r ∧ s.canAct t r.desc.ctx = true ∧ r.swapped = true ∧ (s.tile t).mxe.redo = 0 ∧
  StreamCtx.head (s.eng t 0 r.desc.ctx) = some (.data bytes true) ∧ bytes.length = engineRowBytes r.desc.fmt ∧
  s.accBound t r.desc.ctx (runRow r) = true ∧ (s.tile t).mxe.inject = (0, 0) ∧ s.fld (tileCa t 0x02 0) 11 8 ≤ 7 ∧
  (∀ j < 256, tget false s.resBad (accCa t (runRow r) j) = false) ∧
  checkRow r.desc.fmt (readRow r.desc.fmt r.desc.klen bytes)
    ((Matrix.loaded (s.tile t).mxe).rows.map (readRow r.desc.fmt r.desc.klen)) (Matrix.loaded (s.tile t).mxe).check = true

/-- The element that a pass leaves in an unmasked lane (R62, R65). -/
def passElement (s : State) (t : Tile) (r : Run) (bytes : List Byte) (j : Nat) : Word :=
  let p := passLane r.desc.fmt (readRow r.desc.fmt r.desc.klen bytes)
    (((Matrix.loaded (s.tile t).mxe).rows.map (readRow r.desc.fmt r.desc.klen)).getD j [])
  setBits (accumulate r.desc.acc (if r.desc.acc then s.reg (accCa t (runRow r) j) else 0) p.1 p.2).1 1 0 0

/-- A compare-and-count of one operation leaves a word and a status: the word before comes back, no other byte changes. -/
def CacLeaves (s : State) (t : Tile) (off : Nat) (r : Word × Nat) (u : State) : Prop :=
  u.padWordAt t off = r.1 ∧ (u.tile t).bankOut = toBytes 8 (s.padWordAt t off).toNat ++ [BitVec.ofNat 8 r.2] ∧
  ∀ a, (a < padAddr t off ∨ padAddr t off + 8 ≤ a) → u.byte a = s.byte a

/-- The next instruction of an awake program: the program and the word, which is not a reserved code and not instruction 23. -/
def NextIs (s : State) (t : Tile) (e : Fin 3) (c : CtxNo) (r : StreamRun) (w : Word) : Prop :=
  s.strFetch t e c = some (r, w) ∧ streamReserved e.val w = false ∧ r.ip < 23

/-- The other engines and contexts, every register and all of memory as before. -/
def EnginesKept (s u : State) (t : Tile) (e : Fin 3) (c : CtxNo) : Prop :=
  (∀ e' c', (e', c') ≠ (e, c) → u.eng t e' c' = s.eng t e' c') ∧ u.regs = s.regs ∧ u.mem = s.mem

/-- The program in progress becomes `r`; everything else of the engine stays. -/
def Goes (s : State) (t : Tile) (e : Fin 3) (c : CtxNo) (r : StreamRun) (u : State) : Prop :=
  u.eng t e c = { s.eng t e c with run := some r } ∧ EnginesKept s u t e c

/-- The program one instruction further. -/
def ahead (r : StreamRun) : StreamRun := { r with ip := r.ip + 1 }

/-- The engine number of a stream-in engine. -/
def sin (b : Fin 2) : Fin 3 := Fin.castLE (by decide) b

/-- An access at the tile's own scratchpad that is in the bounds of its domain, over sound words that no LOAD claims. -/
def InPad (s : State) (t : Tile) (c : CtxNo) (off len : Nat) : Prop :=
  s.inBounds t (s.jobOf t c).val off len = true ∧ (∀ w ∈ wordsOf (padAddr t off) len, tget 0 s.ecc w = 0) ∧ s.rind.load = none

/-- A message that a node of a field takes: one on its way there has come, none precedes it, and its tag is right (R180, R182,
    R183). -/
def Comes (s : State) (field site : Nat) (b : Body) : Prop :=
  ∀ p ∈ s.net, p.head.dfield = field → p.head.dsite = site → p.body = b →
    s.mayTake p.head b = true ∧ s.tagOk p.head field site = true

/-- A bank request of one line that does `op`, in the bounds of its domain, over sound words, while no LOAD is in progress. -/
def BankFits (s : State) (t : Tile) (r : BankReq) (op : BankOp) : Prop :=
  r.op = op ∧ bankReqOk r = true ∧ (∀ j, r.job = some j → s.inBounds t j.val (r.off.toNat - r.before) (r.before + BankOp.len op + r.after) = true) ∧
  (∀ w ∈ wordsOf (padAddr t r.off.toNat) (BankOp.len op), tget 0 s.ecc w = 0) ∧ s.rind.load = none

/-- The bytes written at an address, and every other byte of memory as before. -/
def Written (s u : State) (a : Nat) (d : List Byte) : Prop :=
  (∀ i < d.length, u.byte (a + i) = d.getD i 0) ∧ ∀ b, (b < a ∨ a + d.length ≤ b) → u.byte b = s.byte b

/-- The address of a LINE: MBASE plus the two index terms and 8·WOFS, wrapped (R156). -/
def lineAt (d : TensorDesc) (r : StreamRun) (w : Word) : Nat :=
  TensorDesc.wrap d (d.mbase + r.ix.getD (bits w 58 57) 0 * d.rstride + r.ix.getD (bits w 56 55) 0 * d.sstride + 8 * bits w 31 16)

/-- A packet of a head and a body whose endpoint is a tile of a field that serves, with its clock running, and which the tile can take
    now (R180, R182). -/
def AtTile (s : State) (h : Head) (b : Body) (t : Tile) : Prop :=
  s.endpoint h b = some (.tile t) ∧ s.serves t.field.val = true ∧ s.rind.power.stopped.contains t.field.val = false ∧ s.mayTake h b = true

/-- The network with a packet taken off it and one answer sent to the sender. -/
def Answers (s u : State) (h : Head) (taken : Body) (field site : Nat) (b : Body) : Prop :=
  ∃ p : Packet, u.net = (s.takePacket h taken).net ++ [p] ∧ p.head = s.replyHead h field site ∧ p.body = b

/-- A packet with a wrong network tag: NET_FLAGS.TAGMIS and an event, and nothing else in registers or memory (R183). -/
def TagWrong (s u : State) (field site : Nat) : Prop :=
  u.bit (netCa field site 8) 2 = true ∧ OthersKept s u (netCa field site 8) ∧ ∃ ev : Event, u.events = s.events ++ [ev] ∧ ev.code = 0x16

/-- The exponent bytes that a ROW reads at the tile's own scratchpad: from the line held, where they lie in it, otherwise from memory
    (R159). -/
def scalesAt (s : State) (t : Tile) (e : Fin 3) (c : CtxNo) (off n : Nat) : List Byte :=
  match (s.eng t e c).scaleLine with
  | some (line, bs) => if line = off / 512 ∧ linesOf off n = 1 then (bs.drop (off % 512)).take n else s.bytes (padAddr t off) n
  | none => s.bytes (padAddr t off) n

/-- The state in which a tile handles a packet: the packet off the network and the site's gate open. -/
def opened (s : State) (h : Head) (b : Body) (t : Tile) : State := (s.takePacket h b).modTile t fun x => { x with gated := false }

/-- The flit of place `m.k` of the n-th packet in flight, of no reserved kind, is one that its output grants, and both ends of its link
    take cycles (R180). -/
def Granted (s : State) (n : Nat) (p : Packet) (m : FlitMove) : Prop :=
  s.net[n]? = some p ∧ isReserved p.body = false ∧ s.moveOf n p m.k = some m ∧ s.nodeRuns m.from_ = true ∧ s.nodeRuns m.to_ = true ∧
  s.granted m = true

/-- A packet in flight whose head flit is at a station with a running clock, with no packet before it. -/
def AtStation (s : State) (n : Nat) (p : Packet) (f : FieldNo) : Prop :=
  s.net[n]? = some p ∧ p.loc = .station f.val ∧ s.nodeRuns (.station f.val) = true ∧ s.behind p = false

/-- A multicast packet of a group at a station, none of whose flits it has sent on. -/
def Fans (s : State) (n : Nat) (p : Packet) (f : FieldNo) (g : Group) : Prop :=
  AtStation s n p f ∧ p.head.mcg = some g ∧ p.head.dfield = 0x3E ∧ 0 < Packet.held p 0 ∧ p.copied = 0

/-- A packet sent: the network's last, with its head and body. -/
def Sent (u : State) (net : List Packet) (h : Head) (b : Body) : Prop := ∃ q : Packet, u.net = net ++ [q] ∧ q.head = h ∧ q.body = b

/-- A reduction packet at a router or station of a serving field: nothing there precedes it, and its network tag is right. -/
def AtTreeNode (s : State) (h : Head) (r : RedBody) : Prop :=
  h.dfield < 48 ∧ (h.dsite < 42 ∨ h.dsite = 0x34) ∧ s.serves h.dfield = true ∧ s.mayTake h (.red r) = true ∧ s.tagOk h h.dfield h.dsite = true

/-- The site code of a tree's node: a tile site, or the field's station. -/
def nodeSite (site : Option SiteNo) : Nat := match site with | some t => t.val | none => 0x34

/-- A lane of two packets of one anchor and one chunk combined (R191). -/
def LaneSum (a b r : RedLane) : Prop :=
  if a.n = -(2 ^ 95) ∨ b.n = -(2 ^ 95) then r.n = -(2 ^ 95) ∧ r.flags = a.flags ||| b.flags ||| 8
  else if 2 ^ 95 - 1 < a.n + b.n then r.n = 2 ^ 95 - 1 ∧ r.flags = a.flags ||| b.flags ||| 4
  else if a.n + b.n < -(2 ^ 95 - 1) then r.n = -(2 ^ 95 - 1) ∧ r.flags = a.flags ||| b.flags ||| 4
  else r.n = a.n + b.n ∧ r.flags = a.flags ||| b.flags

/-- A lane of a reduction packet, and whether it is poison with PZ. -/
def laneOf (r : RedBody) (i : Nat) : RedLane := r.lanes.getD i ⟨0, 0⟩
def LaneBad (r : RedBody) (i : Nat) : Prop := (laneOf r i).n = -(2 ^ 95) ∧ (laneOf r i).flags.getLsbD 3 = true

/-- The Vat of a serving field with its clock running, which is not asking for a page's entry, and the entry as its translation cache
    has it. -/
def VatReady (s : State) (f : FieldNo) (page : Nat) (pte : Word) : Prop :=
  s.clocked f.val = true ∧ (s.vat f).asked.contains page = false ∧ tcGet (s.vat f).tcache page = some pte

/-- A message of a kind and body that a Vat takes: nothing at the Vat precedes it, and its network tag is right. -/
def VatTakes (s : State) (f : FieldNo) (h : Head) (k : CohRsp) (b : CohBody) : Prop :=
  s.mayTake h (.cohp k b) = true ∧ s.tagOk h f.val 0x31 = true

/-- The head under which a Vat answers a read: that of its requester, or the group's for a multicast read (R162). -/
def readHead (s : State) (f : FieldNo) (h : Head) : Head :=
  let r := s.replyHead h f.val 0x31
  match h.mcg with
  | some g => { r with dfield := 0x3E, dsite := 0, mcg := some g }
  | none => r

/-- One event more than before, of a code and a detail. -/
def Logs (s u : State) (code detail : Nat) : Prop :=
  ∃ ev : Event, u.events = s.events ++ [ev] ∧ ev.code = code ∧ ev.detail = BitVec.ofNat 64 detail

/-- A page whose entry maps it for a job domain, not bypassed (R203, R206, R207). -/
def PageFor (pte : Word) (job : JobNo) : Prop := pteMapped pte = true ∧ pteJob pte job = true ∧ pte.getLsbD 59 = false

/-- No miss entry and no waiting access of a line. -/
def LineFree (s : State) (f : FieldNo) (line : Nat) : Prop :=
  Vat.missOf (s.vat f) line = none ∧ ((s.vat f).pend.any fun p => p.addr / 512 == line) = false

/-- A message to the home of a field's READY cellar, which nothing there precedes, with its tag right. -/
def AtHome (s : State) (f : FieldNo) (h : Head) (b : Body) : Prop :=
  h.dfield = f.val ∧ s.mayTake h b = true ∧ s.tagOk h f.val h.dsite = true ∧ s.cellarReady f = true

/-- A home at which no request waits and no page is under recall. -/
def HomeCalm (s : State) (f : FieldNo) : Prop := (s.home f.val).queue = [] ∧ (s.home f.val).recalls = []

/-- A transaction open on a line, waiting for the memory read of the line, which waits for the cellar's port. -/
def ReadAsked (s u : State) (f : FieldNo) (line : Nat) (pte : Word) : Prop :=
  (∃ t : HomeTxn, (u.home f.val).slots = (s.home f.val).slots ++ [t] ∧ t.line = line ∧ t.pte = pte ∧ t.wait = .mem) ∧
  (u.fieldSt f.val).cellar.ops = (s.fieldSt f.val).cellar.ops ++ [⟨0, frameAddr pte (512 * line), 512, none, 255, .txn line⟩] ∧ u.mem = s.mem

/-- A message that a home sends to a field's Vat. -/
def ToVat (u : State) (v : Nat) (k : CohRsp) (b : CohBody) : Prop := ∃ p ∈ u.net, p.body = .cohp k b ∧ p.head.dfield = v ∧ p.head.dsite = 0x31

/-- An access that waits first for a requester of a READY cellar's port, with a grant for it. -/
def PortGrant (s : State) (f : FieldNo) (who : Nat) (o : CelOp) : Prop :=
  s.cellarReady f = true ∧ Cellar.next (s.fieldSt f.val).cellar who = some o ∧ 0 < (s.arb (arbBase (.cellar f))).grants.getD who 0

/-- A read of that kind, of a purpose, over sound sectors. -/
def ReadGrant (s : State) (f : FieldNo) (who : Nat) (o : CelOp) (use : CelUse) : Prop :=
  PortGrant s f who o ∧ o.write = none ∧ o.use = use ∧ ∀ k ∈ sectorsOf o.off o.len, s.sectorErr f k = 0

/-- A line of a home with no transaction, with a free slot and room in the directory. -/
def LineIdle (s : State) (f : FieldNo) (line : Nat) : Prop :=
  Home.busy (s.home f.val) line = false ∧ ((s.home f.val).slots.filter fun t => t.req != .recall).length < 60 ∧ Home.roomFor (s.home f.val) line = true

/-- The entry of a page is not being read, and lies in a READY cellar. -/
def EntryIn (s : State) (page : Nat) (f : FieldNo) (off : Nat) : Prop :=
  s.agent.ptes.contains page = false ∧ decodeAddr (s.pteAddr page) = .cellar f off ∧ s.cellarReady f = true

/-- The read of a page's entry, which waits for its cellar's port. -/
def EntryAsked (s u : State) (page : Nat) (f : FieldNo) (off : Nat) : Prop :=
  u.agent.ptes = s.agent.ptes ++ [page] ∧ (u.fieldSt f.val).cellar.ops = (s.fieldSt f.val).cellar.ops ++ [⟨0, off, 8, none, 255, .pte page⟩] ∧ u.mem = s.mem

/-- The word that an access reads of a cellar. -/
def wordRead (s : State) (f : FieldNo) (o : CelOp) : Word := BitVec.ofNat 64 (ofBytes (s.bytes (cellarAddr f.val o.off) o.len))

/-- A Vat's bit. -/
def one (v : Nat) : BitVec 48 := BitVec.ofNat 48 (1 <<< v)

/-- The Data message that a requester gets. -/
def DataSent (u : State) (h : Head) (line tag : Nat) (g : LineSt) (d : List Byte) : Prop :=
  ∃ p ∈ u.net, ∃ x : CohBody, p.body = .cohp .data x ∧ p.head.dfield = h.sfield ∧ p.head.dsite = 0x31 ∧ x.line = line ∧ x.grant = g ∧
    x.bytes = some d ∧ x.rqtag = tag

/-- Every field but one keeps its power state. -/
def FieldsKept (s u : State) (f : FieldNo) : Prop := ∀ g : FieldNo, g ≠ f → u.fieldState g.val = s.fieldState g.val

/-- The power domain of a field, as a command names it. -/
def domOf (f : FieldNo) : Fin 64 := ⟨f.val + 1, by omega⟩

/-- A scrubber whose store is served and takes cycles, a cellar's with a grant of its port. -/
def ScrubTurn (s : State) (x : ScrubUnit) : Prop :=
  s.scrubClocked x = true ∧ ∀ f, x = .cellar f → 0 < (s.arb (arbBase (.cellar f))).grants.getD 3 0

/-- A reset that is requested first and not yet performed, of a scope. -/
def ResetDue (s : State) (scope : Nat) (r : ResetReq) : Prop := s.nextReset scope = some r ∧ s.rind.load = none

/-- Every context but those of some tiles as before. -/
def CtxKept (s u : State) (p : Tile → Prop) : Prop := ∀ t c, ¬ p t → u.ctx t c = s.ctx t c

/-- Everything but the Rind's own state as before. -/
def OnlyRind (s u : State) : Prop := u = { s with rind := u.rind }

/-- No register, no memory and no tile but one changed. -/
def TileAlone (s u : State) (t : Tile) : Prop := u.regs = s.regs ∧ u.mem = s.mem ∧ u.fields = s.fields ∧ u.rind = s.rind ∧ ∀ t', t' ≠ t → u.tile t' = s.tile t'

/-- Everything but the test port as before. -/
def OnlyJtag (s u : State) : Prop := u = { s with rind := { s.rind with jtag := u.rind.jtag } }

/-- A snapshot of the TEL_ block at a base. -/
def Snapped (s u : State) (base : Nat) : Prop :=
  (∀ k < telCounters base, u.reg (base + 0x900 + 8 * k) = s.reg (base + 0x100 + 8 * k)) ∧ u.reg (base + 8) = s.timeCopy (caParts base).field ∧
  (∀ ca, ca ≠ base + 8 → (∀ k < telCounters base, ca ≠ base + 0x900 + 8 * k) → u.reg ca = s.reg ca) ∧ u.mem = s.mem

/-- One answer sent on the sideband, and nothing else changed but its endpoint ID and event receiver. -/
def Says (s u : State) (a : SideAns) : Prop :=
  u = { s with rind := { s.rind with side := { s.rind.side with eid := u.rind.side.eid, receiver := u.rind.side.receiver, sent := s.rind.side.sent ++ [a] } } }

/-- The endpoint ID and event receiver as before. -/
def SideKept (s u : State) : Prop := u.rind.side.eid = s.rind.side.eid ∧ u.rind.side.receiver = s.rind.side.receiver

/-- Registers as before but for one; memory, the half-ports' hidden state and the packets held as before. -/
def TrainKept (s u : State) (ca : Nat) : Prop := OthersKept s u ca ∧ u.hports = s.hports ∧ u.engines = s.engines

/-- Hidden state of every half-port but one as before. -/
def PortsKept (s u : State) (h : Fin 96) : Prop := ∀ g, g ≠ h → u.hport g = s.hport g

/-- A half-port whose recalibration is due has a grant of the lane-time arbiter of its engine (R303). -/
def LaneGrant (s : State) (h : Fin 96) : Prop := 0 < (s.arb (arbBase (.optical (hpField h)))).grants.getD 1 0

/-- The symbols of a codeword that are lost: with more than 15 wrong, all (R305). -/
def lostBits (c : Codeword) : Nat := if 15 < c.bad.eraseDups.length then 2 ^ 514 - 1 else 0

/-- The frame, and its lost symbols, that a half-port's stream holds with a codeword more (R306). -/
def frameWith (s : State) (h : Fin 96) (c : Codeword) : Nat × Nat :=
  (((s.hport h).rxBits + c.msg.toNat <<< (10 * (s.hport h).rxLen)) % 2 ^ 47360, ((s.hport h).rxLost + lostBits c <<< (s.hport h).rxLen) % 2 ^ 4736)

/-- A packet of a flit's class of which flits are still to come on a half-port. -/
def Arriving (h : Fin 96) (w : FabFlit) (x : FabIn) : Bool :=
  x.from_ == .port h.val && 3 - x.ch / 5 == vcOf (flitKind w) && decide (x.got < x.n)

/-- A packet whose flits in the buffer are collected at its delivering engine. -/
def collected (x : FabIn) : FabIn :=
  { x with kept := x.kept ++ (if FabIn.hasHead x = true then x.head :: x.flits.drop 1 else x.flits), flits := [] }

/-- Bytes returned to a function's read, in completions of at most its port's payload (R338, R343). -/
def Returned (s u : State) (func : Func) (tag : Nat) (d : List Byte) : Prop :=
  let m := payloadOf (portOf func).val
  u.rind.tlps = s.rind.tlps ++ (List.range ((d.length + m - 1) / m)).map fun i => ((portOf func).val, .cpl func.val tag ((d.drop (m * i)).take m))

/-- A descriptor of a queue stands as given. -/
def DescAt (u : State) (q id : Nat) (st : DescSt) : Prop := ∃ d ∈ (u.queue q).descs, d.id = id ∧ d.st = st

/-- Only the Rind's own state and one queue changed. -/
def QueueOnly (s u : State) (q : Nat) : Prop := OnlyRind s u ∧ ∀ p, p ≠ q → u.queue p = s.queue p

/-- A function's queue disabled, with no descriptor left. -/
def QueueOff (u : State) (q : Nat) : Prop := u.bit (queueCa q 0) 63 = false ∧ u.queueState q = 0 ∧ (u.queue q).descs = []

/-- The counter of the TLPs that a function's port takes in. -/
def tlpCountCa (func : Func) : Nat := rindCa 2 (0x100 + 8 * (4 + (portOf func).val))

/-- The bytes of an image or package as the descriptor's LEN gives them. -/
def given (d : Desc) (b : List Byte) : List Byte := (b ++ List.replicate (Desc.len d) 0).take (Desc.len d)

/-- The inactive slot: 60 for slot A, 61 for slot B, as its bit of RIND_FWSTAT. -/
def spareBit (s : State) : Nat := if s.fwStat.getLsbD 62 then 60 else 61

/-- Some descriptor of a queue is done with a status. -/
def SomeDone (u : State) (q status : Nat) : Prop := ∃ d ∈ (u.queue q).descs, ∃ r x, d.st = .done status r x

/-- A range of a tile's scratchpad in the bounds of a job domain, over sound words, with no LOAD in progress. -/
def PadFor (s : State) (t : Tile) (job off len : Nat) : Prop :=
  s.inBounds t job off len = true ∧ (∀ w ∈ wordsOf (padAddr t off) len, tget 0 s.ecc w = 0) ∧ s.rind.load = none

/-- The two parts of block tensors i have come to a sink. -/
def Come (y : SinkSt) (want : List Nat) : Prop := ∀ i ∈ want, (∃ g ∈ y.got, g.1 = 2 * i) ∧ ∃ g ∈ y.got, g.1 = 2 * i + 1

/-- A valid shard entry of a running tile whose step is at a block, with tags free and the tensors it wants there. -/
def BlockDue (s : State) (t : Tile) (k : Fin 16) (want : List Nat) : Prop :=
  s.unitRuns t = true ∧ s.bit (shardCa t k 0) 63 = true ∧ s.tagsFree t 16 = true ∧ Come (s.sink t k) want ∧
  ((s.sink t k).asked = true ∨ want = []) ∧ (s.sink t k).block < (s.shard t k).blocks

/-- The engine of a running tile with a command of an OP in progress, not ready to complete. -/
def SpxAt (s : State) (t : Tile) (c : SpxCmd) (op : Nat) : Prop :=
  s.unitRuns t = true ∧ (s.spx t).cmd = some c ∧ c.ready = false ∧ SpxCmd.op c = op

/-- The offset of the head record of a context's ring. -/
def headAt (s : State) (t : Tile) (c : CtxNo) : Nat := s.fld (spxRingCa t c) 56 32 + 128 * s.fld (spxRingCa t c) 7 0

/-- The head records of the rings polled lie in bounds over sound words. -/
def HeadsSound (s : State) (t : Tile) : Prop :=
  ∀ c, s.ringLive t c = true → PadFor s t (s.jobOf t c).val (headAt s t c) 128 ∧ headAt s t c % 8 = 0

/-- Whether the head record of a context's ring is empty, or its ring is not polled. -/
def HeadEmpty (s : State) (t : Tile) (c : CtxNo) : Prop := s.ringLive t c = true → bits (s.padWordAt t (headAt s t c)) 63 60 = 0

/-- n words of a list in the scratchpad. -/
def wordsAt (s : State) (t : Tile) (off n : Nat) : List Word := (List.range n).map fun i => s.padWordAt t (off + 8 * i)

/-- The done word of a command after CAC CNT with IMM 1 of its context. -/
def doneWord (s : State) (t : Tile) (c : SpxCmd) : Word :=
  (cacStep .cnt 1 (s.padWordAt t (bits (SpxCmd.word c 1) 56 32)) (s.requester t c.ctx) fun n => s.fld (eptabCa t n) 15 0).1

/-- A list of at most OMAX indices put out, ready to complete, with FULL where it held more. -/
def PutOut (u : State) (t : Tile) (c : SpxCmd) (xs : List Nat) : Prop :=
  ∃ k, (u.spx t).cmd = some k ∧ k.ready = true ∧ k.nout = min xs.length (bits (SpxCmd.word c 4) 23 0) ∧
    k.out = [(bits (SpxCmd.word c 4) 56 32, listBytes (xs.take (bits (SpxCmd.word c 4) 23 0)))] ∧ (bits (SpxCmd.word c 4) 23 0 < xs.length → k.full = true)

/-- A command of a tile that stores to no memory. -/
def OfTile (i : Instr) (t : Tile) : Prop :=
  match i with
  | .nop x | .setlc x _ _ | .djnz x _ _ | .jmp x _ | .brz x _ _ | .addlc x _ _ | .ldlc x _ _ | .brtok x _ _ _ | .brtokRetest x | .wait x _ _
  | .waitConditionMet x | .yield x | .notify x _ | .endCtx x _ | .bundleIssue x _ _ | .contextChoice x _ | .start x _ _ | .stop x _ | .resume x _
  | .unload x _ | .contextStopComplete x _ | .run x _ | .runStart x | .weightLoad x | .weightSwap x | .rowPass x _ | .clrhalt x
  | .accWindowWrite x _ _ _ _ _ | .accWindowRead x _ _ _ _ | .chain x _ | .invocationStart x | .preloadRead x | .chainRow x _ _ | .chainEntryPlace x
  | .streamStart x _ _ _ _ _ | .streamStop x _ | .newgen x _ | .tok x _ _ | .queuedProgramStart x _ _ | .streamEnd x _ _ | .ixset x _ _ | .ixadd x _ _
  | .ixld x _ _ | .setc x _ _ | .streamDjnz x _ _ | .streamJmp x _ _ | .brs x _ _ | .accxFill x _ _ _ _ | .plim x _ _ | .maskn x _ _ | .streamTok x _ _
  | .waitn x _ _ | .waitnExpire x _ _ | .mrx x _ _ _ _ _ _ | .setm x _ _ | .multicastRead x _ _ | .multicastWrite x _ | .streamResponse x _ _ _ _
  | .engineTokenPlace x _ _ | .pathNotice x _ | .sourcePoll x _ | .ringPoll x | .select x | .gatherRows x
  | .gatherBlocks x | .intersect x | .union x | .andnot x | .siteGate x | .press x _ | .halt x | .debugResume x _ _ | .stepComplete x | .breakpoint x => x = t
  | _ => False

/-- A command of the network, a Vat or a shared block that stores to no memory. -/
def OfNetwork : Instr → Prop
  | .counterWrap _ _ | .multicastCredit _ _ _ _ | .epochNotice _ _ _ | .packetForward _ _ | .tokenArrive _ _ _ | .flitReplay _ _ _ _ _ _ | .laneParityThreshold _ _ _ _ _ _
  | .red _ _ _ | .reductionResultSend _ _ _ _ | .reductionCredit _ _ _ | .multicastReplicate _ | .multicastWack _ _ | .vatRead _ _ _ _
  | .vatWrite _ _ _ _ _ | .missAllocate _ _ | .data _ _ _ | .upgack _ _ _ | .fwds _ _ _ | .fwdx _ _ _ | .inv _ _ _ | .putack _ _ _ | .tinv _ _ _
  | .tinvack _ _ | .flushAll _ | .flushPage _ | .flushDone _ | .ptCommandDone | .autoPromotion _ | .counterDecay _ | .touch _ | .touchComplete _
  | .queueDrained _ | .cqDoorbell _ _ _ _ | .linkCalibrationEnd _ _ _ | .cellarTrainingEnd _ _ | .scrubStarved _ | .remap _ _ _ | .remapCopyDone _ _
  | .remapCatchupPass _ _ | .fieldHalt _ _ | .fieldResume _ => True
  | _ => False

/-- A command of the Rind that changes nothing beyond it but registers and events. -/
def OfRind : Instr → Prop
  | .sqDoorbell _ _ _ _ | .descNop _ | .fwload _ _ _ | .descReset _ | .completionWrite _ | .msixMessage _ | .eventRecord | .revoke _ | .resetDone
  | .d3hotTransition _ _ | .switch | .confirm | .firmwareReady | .firmwareRevert | .mainPowerInRange | .queuedThawStart | .fieldFull _
  | .clockRestart _ | .powerSample _ _ _ | .capAdjust | .pressTimeout _ _ | .jobPressDone | .snapshotArm _ | .armedSnapshot _ | .sensorUpdate _ _ _
  | .setEndpointId _ | .getEndpointId | .getEndpointUuid | .getMctpVersionSupport | .getMessageTypeSupport | .gettid | .getpldmversion _
  | .getpldmtypes | .getpldmcommands _ | .getpdr _ | .getsensorreading _ | .getstatesensorreadings _ | .seteventreceiver _ | .platformeventmessage _
  | .eventMessageRetry _ | .extest _ | .idcode | .samplePreload _ | .bypass | .unlockVerifyDone | .unlockLockoutEnd | .resetPinRelease _
  | .gustCalibrationEnd _ _ | .pcieLinkDown _ | .pcieLinkUp _ => True
  | _ => False

/-- A command of the fabric or an arbiter. -/
def OfFabric : Instr → Prop
  | .arbiterPeriod _ _ | .windowStart _ | .commit _ _ | .refill _ | .frame _ _ | .flitResend _ | .fabricRoute _ _ | .fabricDelivery _ _
  | .xtreeCombine _ _ _ | .laneLock _ _ | .identToUp _ | .recalibrationStart _ _ | .recalibration _ _ | .statusNotice _ | .timeAdjust
  | .gsparecmd _ _ _ _ _ | .lockedLaneLoss _ _ | .signalDetect _ | .alignComplete _ | .trainingTimeout _ => True
  | _ => False

/-- A further command that stores to no memory. -/
def StoresNothing : Instr → Prop
  | .registerReadClear _ | .regrd _ _ | .spareSwitchComplete _ _ _ | .bar0Read _ _ _ _ | .descRegrd _ | .moduleReset | .fieldReset | .tileReset
  | .contextReset | .jobDomainReset | .functionLevelReset _ | .perst _ | .vfEnableClear _ | .thaw _ _ | .testEnd _ _ | .stageFailed _ | .continue _
  | .setfreq _ _ | .freeze _ | .scrubLine _ _ | .scrubWriteback _ | .pressComplete _ _ | .jobPress _ | .timeCopySet | .debugUnlock _ | .relock => True
  | _ => False

end Sys2Proof.Claims

open Sys2Proof Sys2Proof.Machine Sys2Proof.Claims

/-- For every command c, every state s and every list of commands, the step of s with c at the front of its queue is exec of c on s with the rest as its queue. -/
def Obligations.StepRunsTheFrontCommand : Prop :=
  ∀ (c : Instr) (rest : List Instr) (s : State),
    step { s with pending := c :: rest } = exec c { s with pending := rest }

/-- The model's own choice (notes/assumptions/4): a step on an empty queue lets a nanosecond pass. ISO_TIME advances by 1 while no slew is in progress, and by 0, 1 or 2 during one, so that it never runs backwards (R332); the time copy of each field that is not OFF advances by 1 (R413) and the copy of a field that is OFF stays; the clock counters of each field's controller advance by the cycles, the suppressed edges or the nanosecond of a stop that its clock had (R379, R380, the places of the edges being the model's, notes/assumptions/99); every other register, memory, every tile, field and packet stays. -/
def Obligations.IdleStepIsANanosecond : Prop :=
  ∀ s : State, s.pending = [] →
    ∃ (t : State) (n : Nat), step s = .next t ∧ n ≤ 2 ∧ (s.sync.slew = 0 → n = 1) ∧
      t.now = s.now + BitVec.ofNat 64 n ∧
      (∀ ca, ca ≠ fabricCa 0x10 → (∀ (f : FieldNo) (k : Fin 5), ca ≠ clockCa f k.val) → t.reg ca = s.reg ca) ∧
      (∀ (f : FieldNo) (k : Fin 5), t.reg (clockCa f k.val) = (s.count (clockCa f k.val) (clockCount s f k.val)).reg (clockCa f k.val)) ∧
      (∀ f < 48, tget 0 t.times f = if s.fieldState f = 0 then tget 0 s.times f else tget 0 s.times f + 1) ∧
      t.mem = s.mem ∧ t.tiles = s.tiles ∧ t.fields = s.fields ∧ t.net = s.net ∧ t.events = s.events ∧ t.pending = []

/-- Every command whose operands its row can have answers a next state, in every state. The only commands refused are read and write requests and breeze transfers of a length that no packet can carry and bank requests that do not reach one line (R146), and no command ends in a fault. -/
def Obligations.OnlyIllFormedPacketsAreRefused : Prop :=
  (∀ (c : Instr) (s : State), wellFormed c = true → ∃ t, exec c s = .next t) ∧
  (∀ (c : Instr) (s : State) (r : Refusal), exec c s = .refused r → r = .illFormed ∧ wellFormed c = false) ∧
  (∀ (c : Instr) (s : State) (r : Fault), exec c s ≠ .fault r) ∧
  (∀ (h : Head) (a : DataAddr) (n : Fin 2049) (s : State), readLenOk n.val = false → exec (.rd h a n) s = .refused .illFormed) ∧
  (∀ (h : Head) (a : DataAddr) (d : List Byte) (s : State), writeLenOk d = false → exec (.wr h a d) s = .refused .illFormed) ∧
  (∀ (h : Head) (a : DataAddr) (d : List Byte) (s : State), breezeLenOk d = false → exec (.bzw h a d) s = .refused .illFormed) ∧
  (∀ (t : Tile) (us : List (BitVec 25 × Nat)) (rs : List BankReq) (s : State), rs.all bankReqOk = false →
    exec (.bankAccess t us rs) s = .refused .illFormed)

/-- Whatever command runs, in whatever state, the queue of waiting commands is as it was: a command's effect is on everything but the queue. So a step takes exactly the front command off it. -/
def Obligations.CommandsLeaveTheQueue : Prop :=
  (∀ (c : Instr) (s t : State), exec c s = .next t → t.pending = s.pending) ∧
  (∀ s t : State, step s = .next t → t.pending = s.pending.tail)

/-- If memory lists its bytes with strictly rising addresses and no byte that reads 0, and a step answers a next state, then the memory of that state has the same form. So equal memories are equal data, after any command. -/
def Obligations.MemoryKeepsItsForm : Prop :=
  ∀ s t : State, Memory.wf s.mem = true → step s = .next t → Memory.wf t.mem = true

/-- At reset memory has its canonical form and lists nothing; every register of the map holds the reset value of its table; every context of every tile is EMPTY with no token; no packet, event or command waits; each FLD_TILEMAP_t maps logical tile t to site t, and every field and PD49 is OFF. (That an unwritten byte reads 0 is the model's choice, notes/assumptions/2.) -/
def Obligations.ResetLeavesTheModuleEmpty : Prop :=
  Memory.wf State.reset.mem = true ∧ State.reset.mem = [] ∧ (∀ ca, State.reset.reg ca = regReset ca) ∧
  (∀ (t : Tile) (c : CtxNo), (State.reset.ctx t c).state = .empty ∧ (State.reset.ctx t c).tokens = []) ∧
  State.reset.net = [] ∧ State.reset.events = [] ∧ State.reset.pending = [] ∧
  (∀ (f : FieldNo) (k : Fin 40), State.reset.reg (fcCa f 0 (0x1000 + 8 * k.val)) = BitVec.ofNat 64 (0x80 + k.val)) ∧
  (∀ f : FieldNo, State.reset.fieldState f.val = 0) ∧ State.reset.domState 49 = 0

/-- A write that reaches a register that answers, that carries no reserved code in a WO field and that the register's own rule does not reject, stores its RW fields whose codes are not reserved, clears the W1C bits written as 1 and leaves RO, RC and WO fields (storeFields is Table 0-2 field by field). Every other register and all of memory keep their values. The rules that reject are those of R99 (TIL_CTXCFG_c, SEQ_LC_c_n), R142 (SFU_CTL), R110 (chain lane vectors), R149 (SPD_BOUND_j), R155 (stream programs), R17 (FLD_SITEBAD), R196 (NET_TRT_i), R204 (CAVE_PT registers), R277 (source entries), R282 (SPX_RING_c), R311 (ISO_MODID), R344, R345, R346, R352 and R28 (PWR_CTL); the statement takes for each a condition under which it does not reject. -/
def Obligations.RegisterWritesStore : Prop :=
  ∀ (s : State) (ca : Ca) (v : Word) (k : SiteKind) (g : RegGroup) (is : List Nat),
    Lands s ca.toNat k g is → woReserved g.fields v = false →
    (g.tag = .plain → Gives (.registerWrite ca v) s fun t => Stored s t ca.toNat g v) ∧
    (g.tag = .counter → Gives (.counterWrite ca v) s fun t => Stored s t ca.toNat g v) ∧
    (g.tag = .fldSitebad → v &&& s.siteUse (fieldNo (caParts ca.toNat).field) = 0 → Gives (.sitebadWrite ca v) s fun t => Stored s t ca.toNat g v) ∧
    (g.tag = .seqLc → (s.ctx (tileOfCa (caParts ca.toNat)) (Fin.ofNat 4 (idx is 0))).state = .stopped → Gives (.loopCounterWrite ca v) s fun t => Stored s t ca.toNat g v) ∧
    (g.tag = .tilCtxcfg → Ctx.idle (s.ctx (tileOfCa (caParts ca.toNat)) (Fin.ofNat 4 (idx is 0))) = true ∧ bits v 28 16 ≤ bits v 44 32 ∧ (s.bit ca.toNat 7 = true → v.getLsbD 7 = true) → Gives (.ctxcfgWrite ca v) s fun t => Stored s t ca.toNat g v) ∧
    (g.tag = .sfuCtl → (∀ c : CtxNo, Ctx.idle (s.ctx (tileOfCa (caParts ca.toNat)) c) = true) → Gives (.vmodeWrite ca v) s fun t => Stored s t ca.toNat g v) ∧
    (g.tag = .vchVec → Ctx.idle (s.ctx (tileOfCa (caParts ca.toNat)) (Fin.ofNat 4 (idx is 0))) = true → Gives (.chainConfigWrite ca v) s fun t => Stored s t ca.toNat g v) ∧
    (g.tag = .rowState → Gives (.rowstateWrite ca v false) s fun t => Stored s t ca.toNat g v) ∧
    (g.tag = .spdBound → (∀ c : CtxNo, Ctx.live (s.ctx (tileOfCa (caParts ca.toNat)) c) = false) → Gives (.spdBoundWrite ca v) s fun t => Stored s t ca.toNat g v) ∧
    (g.tag = .strProg → Ctx.idle (s.ctx (tileOfCa (caParts ca.toNat)) (Fin.ofNat 4 (idx is 1))) = true → Gives (.streamProgramWrite ca v) s fun t => t.reg ca.toNat = v ∧ OthersKept s t ca.toNat) ∧
    (g.tag = .netTrt → v.getLsbD 63 = false ∧ s.bit ca.toNat 63 = false ∧ bits v 42 40 = 0 → Gives (.treeEntryWrite ca v) s fun t => Stored s t ca.toNat g v) ∧
    (g.tag = .cavePt → s.bit caveCtlCa 0 = false → Gives (.caveEnableWrite ca v) s fun t => Stored s t ca.toNat g v) ∧
    (g.tag = .updSrc → s.bit (srcCa (tileOfCa (caParts ca.toNat)) (Fin.ofNat 16 (idx is 0)) 0) 63 = false ∧ v.getLsbD 63 = false → Gives (.shardEntryWrite ca v) s fun t => Stored s t ca.toNat g v) ∧
    (g.tag = .spxRing → s.spxBusyFor (tileOfCa (caParts ca.toNat)) (Fin.ofNat 4 (idx is 0)) = false ∧ v.getLsbD 63 = false → Gives (.sparseRingWrite ca v) s fun t => Stored s t ca.toNat g v) ∧
    (g.tag = .isoModid → (∀ h : Fin 96, s.hpState h ≠ 5) → Gives (.modidWrite ca v) s fun t => Stored s t ca.toNat g v) ∧
    (g.tag = .rindDwin → idx is 0 = 0 → Gives (.dataWindowWrite ca v) s fun t => Stored s t ca.toNat g v) ∧
    (g.tag = .funcjob → s.rind.pcie.vfEnable = false ∧ (∀ f < 5, s.queuesOn f = false) ∧ (∀ a < 4, ∀ b < 4, a ≠ b → funcJobIn v (a + 1) ≠ funcJobIn v (b + 1)) → Gives (.funcjobWrite ca v) s fun t => Stored s t ca.toNat g v) ∧
    (g.tag = .queueWord → s.queueState (idx is 0) = 0 ∧ 1 ≤ (caParts ca.toNat).off % 32 / 8 ∧ (caParts ca.toNat).off % 32 / 8 ≤ 2 → Gives (.queueConfigWrite ca v) s fun t => Stored s t ca.toNat g v) ∧
    (g.tag = .evq → (∀ j < 4, v.getLsbD (9 * j + 8) = false) → Gives (.evqWrite ca v) s fun t => Stored s t ca.toNat g v) ∧
    (g.tag = .pwrCtl → v.getLsbD 63 = true → Gives (.pwrCtlWrite ca v) s fun t => Stored s t ca.toNat g v)

/-- A write to FLD_TILEMAP_t is rejected if EN = 1 and SITE names a site that another enabled entry names, if EN = 1 and SITE names a site whose FLD_SITEBAD bit is 1, or if logical tile t has a loaded context; otherwise the entry takes the value. A write to FLD_SITEBAD is rejected if it sets the bit of a site that FLD_SITEUSE shows in use, and is stored otherwise. A rejected write leaves every register and memory unchanged and records a configuration-error event that gives the register's address. -/
def Obligations.TileMapWriteRules : Prop :=
  ∀ (s : State) (f : FieldNo) (v : Word), s.serves f.val = true → s.rind.load = none →
    (∀ k : Fin 40, bits v 5 0 < 42 →
      ((v.getLsbD 7 = true ∧ ∃ j : Fin 40, j ≠ k ∧ s.bit (tilemapCa f j.val) 7 = true ∧ s.fld (tilemapCa f j.val) 5 0 = bits v 5 0) ∨
       (v.getLsbD 7 = true ∧ s.bit (sitebadCa f) (bits v 5 0) = true) ∨
       (∃ t c, s.siteOf f k.val = some t ∧ (s.ctx t c).state ≠ .empty) →
        Gives (.tilemapWrite (caOf (tilemapCa f k.val)) v) s fun t => Rejected s t (tilemapCa f k.val)) ∧
      (¬ (v.getLsbD 7 = true ∧ ∃ j : Fin 40, j ≠ k ∧ s.bit (tilemapCa f j.val) 7 = true ∧ s.fld (tilemapCa f j.val) 5 0 = bits v 5 0) →
       ¬ (v.getLsbD 7 = true ∧ s.bit (sitebadCa f) (bits v 5 0) = true) →
       ¬ (∃ t c, s.siteOf f k.val = some t ∧ (s.ctx t c).state ≠ .empty) →
        Gives (.tilemapWrite (caOf (tilemapCa f k.val)) v) s fun t =>
          t.bit (tilemapCa f k.val) 7 = v.getLsbD 7 ∧ t.fld (tilemapCa f k.val) 5 0 = bits v 5 0 ∧ t.mem = s.mem)) ∧
    ((v &&& s.siteUse f ≠ 0 → Gives (.sitebadWrite (caOf (sitebadCa f)) v) s fun t => Rejected s t (sitebadCa f)) ∧
     (v &&& s.siteUse f = 0 → Gives (.sitebadWrite (caOf (sitebadCa f)) v) s fun t =>
        bits (t.reg (sitebadCa f)) 41 0 = bits v 41 0 ∧ t.mem = s.mem))

/-- A write is rejected (no register or memory changes, one configuration-error event): to TIL_CTXCFG_c unless the context is EMPTY or STOPPED and BASE is not above LIMIT; to SEQ_LC_c_n unless the context is STOPPED (R99); to a bundle in the region of a RUNNING or STOPPING context (R80); to a bit of SFU_CTL whose context is neither EMPTY nor STOPPED (R142); to a chain lane vector or a stream program unless the context is EMPTY or STOPPED (R110, R155); to SPD_BOUND_j while a context of j is RUNNING or STOPPING (R149); to CAVE_PTBASE and CAVE_PTSIZE while EN = 1; to ISO_MODID while a half-port is UP (R311); to PWR_CTL clearing CAPEN while a field has FREQ 1.10 GHz (R28); to the tree entries of a site where NET_TRT_i with VALID = 1 would commit more than 32 slots (R196). -/
def Obligations.WritesRejectedByTheirRules : Prop :=
  ∀ (s : State) (ca : Ca) (v : Word) (k : SiteKind) (g : RegGroup) (is : List Nat),
    let t := tileOfCa (caParts ca.toNat)
    let c : CtxNo := Fin.ofNat 4 (idx is 0)
    Lands s ca.toNat k g is →
    (k = .tile → g.tag = .tilCtxcfg → Ctx.idle (s.ctx t c) = false ∨ bits v 44 32 < bits v 28 16 →
      Gives (.ctxcfgWrite ca v) s fun u => Rejected s u ca.toNat) ∧
    (k = .tile → g.tag = .seqLc → (s.ctx t c).state ≠ .stopped → Gives (.loopCounterWrite ca v) s fun u => Rejected s u ca.toNat) ∧
    (k = .tile → g.tag = .istore → (∃ d, Ctx.live (s.ctx t d) = true ∧ s.inRegion t d (idx is 0 / 4) = true) →
      Gives (.istoreWrite ca v) s fun u => Rejected s u ca.toNat) ∧
    (k = .tile → g.tag = .sfuCtl → (∃ d : CtxNo, s.bit ca.toNat d.val ≠ v.getLsbD d.val ∧ Ctx.idle (s.ctx t d) = false) →
      Gives (.vmodeWrite ca v) s fun u => Rejected s u ca.toNat) ∧
    (k = .tile → g.tag = .vchVec → Ctx.idle (s.ctx t c) = false → Gives (.chainConfigWrite ca v) s fun u => Rejected s u ca.toNat) ∧
    (k = .tile → g.tag = .strProg → Ctx.idle (s.ctx t (Fin.ofNat 4 (idx is 1))) = false →
      Gives (.streamProgramWrite ca v) s fun u => Rejected s u ca.toNat) ∧
    (k = .tile → g.tag = .spdBound → (∃ d, Ctx.live (s.ctx t d) = true ∧ (s.jobOf t d).val = idx is 0) →
      Gives (.spdBoundWrite ca v) s fun u => Rejected s u ca.toNat) ∧
    (k = .rindHost → g.tag = .cavePt → s.bit caveCtlCa 0 = true → Gives (.caveEnableWrite ca v) s fun u => Rejected s u ca.toNat) ∧
    (k = .fabric → g.tag = .isoModid → (∃ h : Fin 96, s.hpState h = 5) → Gives (.modidWrite ca v) s fun u => Rejected s u ca.toNat) ∧
    (k = .rindMgmt → g.tag = .pwrCtl → s.bit ca.toNat 63 = true → v.getLsbD 63 = false →
      (∃ f : FieldNo, s.fld (domCa (f.val + 1)) 33 32 = 2) → Gives (.pwrCtlWrite ca v) s fun u => Rejected s u ca.toNat) ∧
    (k = .tile → g.tag = .netTrt → v.getLsbD 63 = true → 32 < s.trtUse t (some (idx is 0)) + 2 ^ bits v 38 36 →
      Gives (.treeEntryWrite ca v) s fun u => Rejected s u ca.toNat)

/-- A write to a reserved control address (but with field code 0x3F), or to a block that does not answer because its power domain or sub-gate is off, changes no register and no memory and records an address-error event that gives the address; a read of one, or with field code 0x3F, returns 0xFFFF_FFFF_FFFF_FFFF and does the same; a write with field code 0x3F does it for each field that takes the write and whose block has its sub-gate off (R22, R23). An access to a tile site that answers starts its clocks and is completed: a write stores its value, a read returns the value held. -/
def Obligations.AccessesThatNothingAnswers : Prop :=
  ∀ (s : State) (ca : Ca) (v : Word),
    (decodeCa ca.toNat = none ∨ ((caParts ca.toNat).field ≠ 0x3F ∧ s.powered ca.toNat = false) →
      Gives (.registerWrite ca v) s (fun t => t.regs = s.regs ∧ t.mem = s.mem ∧ t.tiles = s.tiles ∧ t.events = s.events ++ [nobody s ca.toNat])) ∧
    (decodeCa ca.toNat = none ∨ (caParts ca.toNat).field = 0x3F ∨ s.powered ca.toNat = false →
      Gives (.registerReadClear ca) s (fun t => t.rind.answer = 0xFFFFFFFFFFFFFFFF ∧ t.regs = s.regs ∧ t.mem = s.mem ∧ t.tiles = s.tiles ∧
        t.events = s.events ++ [nobody s ca.toNat])) ∧
    (∀ k g is, decodeCa ca.toNat = some (k, g, is) → (caParts ca.toNat).field = 0x3F →
      (∀ f < 48, s.serves f = true → s.powered (inField ca.toNat f) = false) →
      Gives (.registerWrite ca v) s (fun t => t.regs = s.regs ∧ t.mem = s.mem ∧ t.tiles = s.tiles ∧
        t.events = s.events ++ (((List.range 48).filter fun f => s.serves f).map fun f => nobody s (inField ca.toNat f)))) ∧
    (∀ g is, Lands s ca.toNat .tile g is → g.tag = .plain →
      Gives (.registerWrite ca v) s (fun t => (t.tile (tileOfCa (caParts ca.toNat))).gated = false ∧
        (woReserved g.fields v = false → Stored s t ca.toNat g v)) ∧
      (readHidden .tile (caParts ca.toNat) = false →
        Gives (.registerReadClear ca) s fun t => (t.tile (tileOfCa (caParts ca.toNat))).gated = false ∧
          t.rind.answer = maskWo g.fields (s.reg ca.toNat)))

/-- A full-width read of a register without a rule of its own that answers and is not hidden by the debug level returns the value held, with WO and RSV fields read as 0; its RC fields are 0 afterwards and its other fields stay; no other register and no byte of memory changes. -/
def Obligations.ReadsClearTheirRcFields : Prop :=
  ∀ (s : State) (ca : Ca) (k : SiteKind) (g : RegGroup) (is : List Nat),
    decodeCa ca.toNat = some (k, g, is) → (caParts ca.toNat).field ≠ 0x3F → s.answers ca.toNat = true →
    (readHidden k (caParts ca.toNat) = true → s.level ≠ 0) → g.tag = .plain →
      Gives (.registerReadClear ca) s fun t =>
        t.rind.answer = maskWo g.fields (s.reg ca.toNat) ∧ t.reg ca.toNat = clearRc g.fields (s.reg ca.toNat) ∧ OthersKept s t ca.toNat

/-- A write with field code 0x3F to a register without a rule of its own is stored, field by field by the access codes, in every field that is REDUCED or FULL and whose block answers, and the register of every other field stays; no event is recorded for a skip where the value carries no reserved code, and a field that takes the write while the sub-gate of its block is off records an address-error event (R22). -/
def Obligations.BroadcastWritesReachTheFieldsThatServe : Prop :=
  ∀ (s : State) (ca : Ca) (v : Word) (k : SiteKind) (g : RegGroup) (is : List Nat),
    decodeCa ca.toNat = some (k, g, is) → (caParts ca.toNat).field = 0x3F → g.tag = .plain → s.rind.load = none →
    (∀ f < 48, writeLevel k (caParts (inField ca.toNat f)) g = 0) → woReserved g.fields v = false → rwReserved g.fields v = false →
      Gives (.broadcastWrite ca v) s fun t =>
        (∀ f < 48, t.reg (inField ca.toNat f) =
          if s.serves f = true ∧ s.answers (inField ca.toNat f) = true then storeFields g.fields (s.reg (inField ca.toNat f)) v
          else s.reg (inField ca.toNat f)) ∧
        (∀ cb, (∀ f < 48, cb ≠ inField ca.toNat f) → t.reg cb = s.reg cb) ∧ t.mem = s.mem ∧
        t.events = s.events ++ (((List.range 48).filter fun f => s.serves f && !s.answers (inField ca.toNat f)).map
          fun f => nobody s (inField ca.toNat f))

/-- On a context that may issue and whose next bundle lies in its region: NOP changes no loop counter; SETLC gives LCn its immediate; ADDLC adds its immediate modulo 2^24; LDLC of a scratchpad word within the bounds of the context's domain and free of bit errors gives LCn the low 24 bits of the word. The PC advances by 1. Every register but LCn and the cycle counters of the tile's contexts, all of memory, every other tile and the network stay. -/
def Obligations.SequencerArithmetic : Prop :=
  ∀ (s : State) (t : Tile) (c : CtxNo), MayIssue s t c → (s.ctx t c).pc.toNat + 1 ≤ s.limit t c →
    (Gives (.nop t) s fun u => (u.ctx t c).pc = nextPc s t c ∧ SeqKept s u t [] ∧ u.net = s.net ∧ u.events = s.events) ∧
    (∀ n imm, Gives (.setlc t n imm) s fun u => u.lc t c n = imm.toNat ∧ (u.ctx t c).pc = nextPc s t c ∧
      SeqKept s u t [lcCa t c n.val] ∧ u.net = s.net ∧ u.events = s.events) ∧
    (∀ n imm, Gives (.addlc t n imm) s fun u => u.lc t c n = (s.lc t c n + imm.toNat) % 2 ^ 24 ∧ (u.ctx t c).pc = nextPc s t c ∧
      SeqKept s u t [lcCa t c n.val] ∧ u.net = s.net ∧ u.events = s.events) ∧
    (∀ n (w : BitVec 22), s.inBounds t (s.jobOf t c).val (8 * w.toNat) 8 = true → s.wordErr (padAddr t (8 * w.toNat)) = 0 →
      Gives (.ldlc t n w) s fun u => u.lc t c n = ofBytes (s.bytes (padAddr t (8 * w.toNat)) 8) % 2 ^ 24 ∧
        (u.ctx t c).pc = nextPc s t c ∧ SeqKept s u t [lcCa t c n.val] ∧ u.net = s.net ∧ u.events = s.events)

/-- On a context that may issue: DJNZ lowers LCn by 1 modulo 2^24 and branches if the new value is not 0, else falls through; BRZ branches if LCn is 0, leaving it; JMP branches. A target in the context's region becomes the PC. A JMP to a target outside it faults the context: SEQ_FLAGS.PCRANGE is set, the context is STOPPING on its way to FAULT, and an event gives the PC of the bundle (R79). Everything else stays as for the other slots. -/
def Obligations.BranchesMoveThePc : Prop :=
  ∀ (s : State) (t : Tile) (c : CtxNo) (n : Fin 8) (target : BitVec 13), MayIssue s t c →
    (s.inRegion t c target.toNat = true → s.lc t c n ≠ 1 →
      Gives (.djnz t n target) s fun u => u.lc t c n = (s.lc t c n + (2 ^ 24 - 1)) % 2 ^ 24 ∧ (u.ctx t c).pc = target ∧
        SeqKept s u t [lcCa t c n.val]) ∧
    ((s.ctx t c).pc.toNat + 1 ≤ s.limit t c → s.lc t c n = 1 →
      Gives (.djnz t n target) s fun u => u.lc t c n = 0 ∧ (u.ctx t c).pc = nextPc s t c ∧ SeqKept s u t [lcCa t c n.val]) ∧
    (s.inRegion t c target.toNat = true → s.lc t c n = 0 →
      Gives (.brz t n target) s fun u => (u.ctx t c).pc = target ∧ SeqKept s u t []) ∧
    ((s.ctx t c).pc.toNat + 1 ≤ s.limit t c → s.lc t c n ≠ 0 →
      Gives (.brz t n target) s fun u => (u.ctx t c).pc = nextPc s t c ∧ SeqKept s u t []) ∧
    (s.inRegion t c target.toNat = true → Gives (.jmp t target) s fun u => (u.ctx t c).pc = target ∧ SeqKept s u t []) ∧
    (s.inRegion t c target.toNat = false → Gives (.jmp t target) s fun u =>
      u.bit (seqFlagsCa t) 0 = true ∧ (u.ctx t c).state = .stopping ∧ (u.ctx t c).goal = .fault ∧
      u.events = s.events ++ [⟨0x03, some (s.jobOf t c).val, some c.val, t.field.val, t.site.val, (s.ctx t c).pc.setWidth 64,
        s.timeCopy t.field.val⟩] ∧ SeqKept s u t [seqFlagsCa t])

/-- On a context that may issue: BRTOK on the token queue with its type at the head removes the token and branches; with another type at the head it removes nothing and falls through; on an empty queue the context waits. A waiting BRTOK whose type is then at the head removes the token and branches. WAIT makes the context wait for its condition, and the wait ends where the condition holds. YIELD permits a switch. NOTIFY records a host event that gives its code. END records a completion event and leaves the context STOPPING on its way to ENDED. Memory, the other tiles and every register but the cycle counters stay. -/
def Obligations.WaitsAndTokensOfAContext : Prop :=
  ∀ (s : State) (t : Tile) (c : CtxNo),
    (MayIssue s t c →
      (∀ (ty : Byte) (ts : List Byte) (target : BitVec 13), (s.ctx t c).tokens = ty :: ts → s.inRegion t c target.toNat = true →
        Gives (.brtok t 0 ty target) s fun u => (u.ctx t c).tokens = ts ∧ (u.ctx t c).pc = target ∧ SeqKept s u t []) ∧
      (∀ (ty k : Byte) (ts : List Byte) (target : BitVec 13), (s.ctx t c).tokens = k :: ts → k ≠ ty →
        (s.ctx t c).pc.toNat + 1 ≤ s.limit t c →
        Gives (.brtok t 0 ty target) s fun u => (u.ctx t c).tokens = k :: ts ∧ (u.ctx t c).pc = nextPc s t c ∧ SeqKept s u t []) ∧
      (∀ (ty : Byte) (target : BitVec 13), (s.ctx t c).tokens = [] →
        Gives (.brtok t 0 ty target) s fun u => (u.ctx t c).wait = .brtok 0 ty target.toNat ∧ (u.ctx t c).pc = (s.ctx t c).pc ∧
          SeqKept s u t []) ∧
      ((s.ctx t c).pc.toNat + 1 ≤ s.limit t c →
        (∀ (k : Fin 8) (n : BitVec 20), k ≠ 0 → (k ≠ 6 → n = 0) →
          Gives (.wait t k n) s fun u => (u.ctx t c).wait = .cond k.val n.toNat ∧ (u.ctx t c).pc = nextPc s t c ∧ SeqKept s u t []) ∧
        (Gives (.yield t) s fun u => (u.ctx t c).yield = true ∧ (u.ctx t c).pc = nextPc s t c ∧ SeqKept s u t []) ∧
        (∀ code : BitVec 16, Gives (.notify t code) s fun u => (u.ctx t c).pc = nextPc s t c ∧ SeqKept s u t [] ∧
          u.events = s.events ++ [⟨0x01, some (s.jobOf t c).val, some c.val, t.field.val, t.site.val, code.setWidth 64,
            s.timeCopy t.field.val⟩])) ∧
      (∀ code : BitVec 16, Gives (.endCtx t code) s fun u => (u.ctx t c).state = .stopping ∧ (u.ctx t c).goal = .ended ∧
        SeqKept s u t [] ∧
        u.events = s.events ++ [⟨0x02, some (s.jobOf t c).val, some c.val, t.field.val, t.site.val, code.setWidth 64,
          s.timeCopy t.field.val⟩])) ∧
    (∀ (ty : Byte) (ts : List Byte) (target : BitVec 13), s.actor t = some c → Alone s t c → (s.ctx t c).state = .running →
      (s.ctx t c).wait = .brtok 0 ty target.toNat → (s.ctx t c).tokens = ty :: ts → s.inRegion t c target.toNat = true →
      Gives (.brtokRetest t) s fun u => (u.ctx t c).wait = .no ∧ (u.ctx t c).tokens = ts ∧ (u.ctx t c).pc = target ∧ SeqKept s u t []) ∧
    (∀ k left : Nat, s.actor t = some c → (s.ctx t c).wait = .cond k left → s.waitMet t c k left = true →
      Gives (.waitConditionMet t) s fun u => u.ctx t c = { s.ctx t c with wait := .no } ∧ u.regs = s.regs ∧ SeqKept s u t [])

/-- On a context that may issue and whose next bundle lies in its region: RUN copies its matrix descriptor with the overrides and queues it while no other is queued, to start in a later cycle on an idle engine (R92, R443); a run that R444 refuses sets the flag of the first rule that refuses it and starts nothing. CHAIN starts its configuration on an idle chain, or queues it behind the invocation in progress while no other is queued (R93). START of a stream slot starts its program at instruction 0 with its parameter, plus a loop counter if PSRC = 1, or queues it behind the one in progress (R94), which is the program that was queued where that one has yet to start; STOP ends the program in progress; NEWGEN advances the generation tag and leaves a stream-in queue with a GEN token alone (R161). TOK to the own tile delivers its token in the next cycle, in which it joins its context's queue where that has room; TOK to another tile or a group sends one packet while the tile may inject one (R95, R184). Memory, the other tiles, the shared blocks and every register but the cycle counters and the flag named stay. -/
def Obligations.BundlesStartRunsInvocationsAndPrograms : Prop :=
  ∀ (s : State) (t : Tile) (c : CtxNo), (s.ctx t c).pc.toNat + 1 ≤ s.limit t c → (MayIssue s t c →
    (∀ k : RunSlot,
      let d := runDesc c (s.reg (mxeDescCa t c k.desc.val)) (if k.rofs then s.lc t c k.rofslc else 0) k.bankx
      (s.runRefusal t d = none → (s.tile t).mxe.queued = none →
        Gives (.run t k) s fun u => (u.tile t).mxe = { (s.tile t).mxe with queued := some d } ∧ SeqKept s u t [] ∧ u.net = s.net) ∧
      (∀ ca n, s.runRefusal t d = some (ca, n) → (s.tile t).mxe.queued = none →
        Gives (.run t k) s fun u => u.bit ca n = true ∧ (u.tile t).mxe = (s.tile t).mxe ∧ (u.ctx t c).pc = nextPc s t c ∧
          SeqKept s u t [ca])) ∧
    (∀ k : ChainSlot, 1 ≤ k.nrows → k.nrows ≤ 512 → cfgOk ((List.range 16).map fun w => s.reg (vchCfgCa t c k.cfg w)) = true →
      (s.tile t).chain.run = none → (s.tile t).chain.out = [] → (s.tile t).chain.queued = none →
      Gives (.chain t k) s fun u =>
        (∃ v : Invocation, (u.tile t).chain.run = some v ∧ v.ctx = c ∧ v.cfg = k.cfg ∧ v.nrows = k.nrows ∧
          v.row = (k.row.toNat + if k.rofs then s.lc t c k.rofslc else 0) % 1024 ∧
          v.words = (List.range 16).map fun w => s.reg (vchCfgCa t c k.cfg w)) ∧
        (u.tile t).chain.loaded = 0 ∧ (u.tile t).chain.done = 0 ∧ SeqKept s u t [] ∧ u.net = s.net) ∧
    (∀ k : ChainSlot, 1 ≤ k.nrows → k.nrows ≤ 512 → cfgOk ((List.range 16).map fun w => s.reg (vchCfgCa t c k.cfg w)) = true →
      Chain.busy (s.tile t).chain = true → (s.tile t).chain.queued = none →
      Gives (.chain t k) s fun u =>
        (∃ v : Invocation, (u.tile t).chain = { (s.tile t).chain with queued := some v } ∧ v.ctx = c ∧ v.cfg = k.cfg ∧ v.nrows = k.nrows ∧
          v.row = (k.row.toNat + if k.rofs then s.lc t c k.rofslc else 0) % 1024) ∧ SeqKept s u t [] ∧ u.net = s.net) ∧
    (∀ (e : Fin 3) (prog : Fin 16) (psrc : Bool) (plc : Fin 8) (param : BitVec 20),
      let par := (param.toNat + if psrc then s.lc t c plc else 0) % 2 ^ 24
      ((s.eng t e c).run = none → (s.eng t e c).queued = none → Gives (.streamStart t e prog psrc plc param) s fun u =>
        (u.eng t e c).run = some { prog := prog.val, ip := 0, par := par } ∧ (u.eng t e c).cst = 0 ∧
        (u.eng t e c).queue = (s.eng t e c).queue ∧ SeqKept s u t [] ∧ u.net = s.net) ∧
      (∀ r, (s.eng t e c).run = some r → (s.eng t e c).queued = none → Gives (.streamStart t e prog psrc plc param) s fun u =>
        (u.eng t e c).run = some r ∧ (u.eng t e c).queued = some (prog.val, par) ∧ SeqKept s u t [] ∧ u.net = s.net) ∧
      (∀ q, (s.eng t e c).run = none → (s.eng t e c).queued = some q → Gives (.streamStart t e prog psrc plc param) s fun u =>
        (u.eng t e c).run = some { prog := q.1, ip := 0, par := q.2 } ∧ (u.eng t e c).queued = some (prog.val, par) ∧
        SeqKept s u t [] ∧ u.net = s.net)) ∧
    (∀ e : Fin 3, Gives (.streamStop t e) s fun u => (u.eng t e c).run = none ∧ u.eng t e c = StreamCtx.stop (s.eng t e c) ∧ SeqKept s u t [] ∧ u.net = s.net) ∧
    (∀ e : Fin 3, s.newgenHolds t e c = false → Gives (.newgen t e) s fun u =>
      (u.eng t e c).gen = (s.eng t e c).gen + 1 ∧
      (u.eng t e c).queue = (if e = 2 then (s.eng t e c).queue else [.ready (.token 0x07)]) ∧ SeqKept s u t [] ∧ u.net = s.net) ∧
    (∀ (k : TokSlot) (since : Nat), tokenOk k.ty.toNat = true →
      (k.dest = .own ∨ (k.dest = .tile ∧ s.tileOfLogical (s.tokNumber t c k) = some t) →
        Gives (.tok t k since) s fun u => (u.tile t).ownToks = [(k.ctx, k.ty, (s.jobOf t c).val)] ∧ SeqKept s u t [] ∧ u.net = s.net) ∧
      (∀ d, k.dest = .tile → s.tileOfLogical (s.tokNumber t c k) = some d → d ≠ t → (s.vcbAge t since).vcbRoom t = true →
        Gives (.tok t k since) s fun u => SeqKept s u t [] ∧
          ∃ p : Packet, p.head = s.tileHead t (s.jobOf t c) (s.tokNumber t c k / 40) (s.tokNumber t c k % 40) true 0 ∧
            p.body = .tok k.ctx k.ty ∧ u.net = s.net ++ [p]) ∧
      (k.dest = .group → (s.vcbAge t since).vcbRoom t = true →
        Gives (.tok t k since) s fun u => SeqKept s u t [] ∧
          ∃ p : Packet, p.head = { s.tileHead t (s.jobOf t c) 0x3E 0 false 0 with mcg := some { group := s.tokNumber t c k } } ∧
            p.body = .tok k.ctx k.ty ∧ u.net = s.net ++ [p]))) ∧
    (∀ (d : CtxNo) (ty : Byte), Issuing s t c → NoStarts s t c → (s.tile t).ownToks = [(d, ty, (s.jobOf t d).val)] →
      (s.ctx t d).state ≠ .empty → (s.ctx t d).tokens.length < 16 →
      Gives (.nop t) s fun u => (u.ctx t d).tokens = (s.ctx t d).tokens ++ [ty] ∧ (u.tile t).ownToks = [] ∧ SeqKept s u t [])

/-- On a context that may issue: a stored bundle whose slots are all NOP issues, and the PC advances by 1 and the context's cycle and advance counters count (R82, R105); a bundle with a reserved code faults the context, with SEQ_FLAGS.BADOP set (R80); with a row due and nothing at the head of stream-in A it holds with stall cause 0, and with a matrix slot while one run is in progress and another queued with cause 3, its PC as before (R82, R92, R105). In a tile whose clock runs and which no debug halt or step concerns, the context that the lender, priority, threshold and yield rules choose becomes current, and a change of context makes the next cycle a switch cycle (R100, R101). A STOPPING context with no run, invocation or stream-out transfer left enters STOPPED, ENDED or FAULT (R99). -/
def Obligations.BundleIssueAndContextChoice : Prop :=
  ∀ (s : State) (t : Tile) (c : CtxNo),
    (MayIssue s t c →
      (∀ since, bundleAtPc t s c = some {} → (s.ctx t c).pc.toNat + 1 ≤ s.limit t c →
        s.fld (cycCa t c) 47 0 + 1 < 2 ^ 48 → s.fld (advCa t c) 47 0 + 1 < 2 ^ 48 →
        Gives (.bundleIssue t [] since) s fun u => (u.ctx t c).pc = nextPc s t c ∧
          u.fld (cycCa t c) 47 0 = s.fld (cycCa t c) 47 0 + 1 ∧ u.fld (advCa t c) 47 0 = s.fld (advCa t c) 47 0 + 1 ∧ SeqKept s u t []) ∧
      (∀ since, bundleAtPc t s c = none → s.bundleBad t (s.ctx t c).pc.toNat = false →
        Gives (.bundleIssue t [] since) s fun u => u.bit (seqFlagsCa t) 1 = true ∧ (u.ctx t c).state = .stopping ∧
          (u.ctx t c).goal = .fault ∧ SeqKept s u t [seqFlagsCa t]) ∧
      (∀ since r f, (s.tile t).mxe.run = some r → r.desc.ctx = c → r.swapped = true → (s.tile t).mxe.redo = 0 →
        StreamCtx.head (s.eng t 0 c) = none →
        Gives (.bundleIssue t [.row f] since) s fun u => (u.ctx t c).pc = (s.ctx t c).pc ∧ (u.ctx t c).cause = 0 ∧ SeqKept s u t []) ∧
      (∀ since b r d, bundleAtPc t s c = some b → b.run.isSome = true → b.tok = none → (s.tile t).mxe.run = some r →
        (s.tile t).mxe.queued = some d →
        Gives (.bundleIssue t [] since) s fun u => (u.ctx t c).pc = (s.ctx t c).pc ∧ (u.ctx t c).cause = 3 ∧ SeqKept s u t [])) ∧
    (∀ adv : BitVec 4, s.clocked t.field.val = true → (s.tile t).dbg.halted = false → (s.tile t).dbg.left = 0 →
      Gives (.contextChoice t adv) s fun u =>
        (u.tile t).current = (match s.lender t adv with | some (_, l, _) => some l | none => s.choose t adv) ∧
        (u.tile t).switching = ((u.tile t).current.isSome && (u.tile t).current != (s.tile t).current) ∧
        u.regs = s.regs ∧ u.mem = s.mem ∧ (∀ t', t' ≠ t → u.tile t' = s.tile t')) ∧
    (s.clocked t.field.val = true → (s.ctx t c).state = .stopping → s.hasWork t c = false →
      Gives (.contextStopComplete t c) s fun u =>
        (u.ctx t c).state = (match (s.ctx t c).goal with | .stopped => .stopped | .ended => .ended | .fault => .fault) ∧
        (u.ctx t c).pc = (s.ctx t c).pc ∧ (∀ d, d ≠ c → u.ctx t d = s.ctx t d) ∧ u.regs = s.regs ∧ u.mem = s.mem)

/-- A command to a context of a tile whose field serves, while no LOAD claims the context. START of a STOPPED or ENDED context with a PC in its region, no epoch notice of the tile being owed, makes it RUNNING at that PC with loop counters, the counters of Table 4-18 and the token queue cleared and the step number of its domain latched; STOP of a RUNNING context makes it STOPPING on its way to STOPPED; RESUME of a STOPPED context makes it RUNNING from its PC; UNLOAD of a STOPPED, ENDED or FAULT context makes it EMPTY, empties its token and stream queues, ends its stream programs and advances the generation tags of its stream-in engines. In every other case, and while a LOAD claims the context, the command is rejected: no register and no context changes, and a configuration-error event is recorded. The other contexts, the other tiles, memory, and every register but those that a command clears or latches stay. -/
def Obligations.ContextCommands : Prop :=
  ∀ (s : State) (t : Tile) (c : CtxNo), s.answers (ctxcmdCa t c) = true →
    (s.claimsCtx t c = false →
      (∀ pc : BitVec 13, ((s.ctx t c).state = .stopped ∨ (s.ctx t c).state = .ended) → s.inRegion t c pc.toNat = true → s.owes t = false →
        Gives (.start t c pc) s fun u => u.ctx t c = { state := .running, pc := pc } ∧ (∀ n, u.lc t c n = 0) ∧
          u.reg (cycCa t c) = 0 ∧ u.reg (advCa t c) = 0 ∧ u.reg (waitCa t c) = 0 ∧ (∀ k < 8, u.reg (stallCa t c k) = 0) ∧
          u.fld (cstepCa t c) 31 0 = s.fld (tileCa t 0x09 (0x120 + 8 * (s.jobOf t c).val)) 31 0 ∧
          CtxAlone s u t c (startRegs t c) ∧ u.events = s.events) ∧
      ((s.ctx t c).state = .running → Gives (.stop t c) s fun u =>
        u.ctx t c = { s.ctx t c with state := .stopping, goal := .stopped } ∧ CtxAlone s u t c [] ∧ u.events = s.events) ∧
      ((s.ctx t c).state = .stopped → Gives (.resume t c) s fun u =>
        u.ctx t c = { s.ctx t c with state := .running } ∧ CtxAlone s u t c [pressCa t] ∧ u.events = s.events) ∧
      ((s.ctx t c).state = .stopped ∨ (s.ctx t c).state = .ended ∨ (s.ctx t c).state = .fault → Gives (.unload t c) s fun u =>
        (u.ctx t c).state = .empty ∧ (u.ctx t c).tokens = [] ∧ (u.ctx t c).pc = (s.ctx t c).pc ∧
        (∀ e, (u.eng t e c).run = none ∧ (u.eng t e c).queued = none ∧ (u.eng t e c).queue = []) ∧
        (u.eng t 0 c).gen = (s.eng t 0 c).gen + 1 ∧ (u.eng t 1 c).gen = (s.eng t 1 c).gen + 1 ∧
        CtxAlone s u t c [pressCa t, spxFlagsCa t, spxStatusCa t] ∧ (s.spxBusyFor t c = false → u.events = s.events))) ∧
    (∀ pc : BitVec 13, (s.claimsCtx t c = true ∨ ((s.ctx t c).state ≠ .stopped ∧ (s.ctx t c).state ≠ .ended) ∨
        s.inRegion t c pc.toNat = false ∨ s.owes t = true) → Gives (.start t c pc) s fun u => CmdRejected s u t c) ∧
    (s.claimsCtx t c = true ∨ (s.ctx t c).state ≠ .running → Gives (.stop t c) s fun u => CmdRejected s u t c) ∧
    (s.claimsCtx t c = true ∨ (s.ctx t c).state ≠ .stopped → Gives (.resume t c) s fun u => CmdRejected s u t c) ∧
    (s.claimsCtx t c = true ∨ ((s.ctx t c).state ≠ .stopped ∧ (s.ctx t c).state ≠ .ended ∧ (s.ctx t c).state ≠ .fault) →
      Gives (.unload t c) s fun u => CmdRejected s u t c)

/-- On a context that may act, a queued run starts on an idle engine (R443). On a tile whose clock runs, a weight entry of the size due at the head of stream-in B is taken and becomes the next row of the shadow buffer, with its check entries formed; where the run takes a column mask, the first entry of a tile is its mask (R55, R58, R68). On a context that may act, a swap with a full shadow buffer makes it active and empties the other (R58). A row whose entry is at the head of stream-in A, whose predicate does not mask it, that lies in the context's bounds and whose compares hold writes each unmasked lane's element as R62 and R65 combine it, leaves the masked lanes, and the run goes on to its next row; a row that its predicate masks writes no element (R54); each retry sets CHKRETRY and adds 10 cycles to the hold (R70); a row whose compares mismatch more often than MXE_CTL.RETRY allows gives its unmasked lanes poison, sets CHKFAIL and stops the engine if HALT = 1 (R70, R71). Memory stays. -/
def Obligations.MatrixEngineLoadsSwapsAndPasses : Prop :=
  ∀ (s : State) (t : Tile),
    (∀ d, s.canAct t d.ctx = true → (s.tile t).mxe.run = none → (s.tile t).mxe.queued = some d →
      Gives (.runStart t) s fun u => (u.tile t).mxe = { (s.tile t).mxe with run := some { desc := d }, queued := none } ∧
        u.regs = s.regs ∧ u.mem = s.mem) ∧
    (∀ d bytes p, s.clocked t.field.val = true → Matrix.loadFor (s.tile t).mxe = some d → d.cpred = true →
      (Matrix.shadow (s.tile t).mxe).mask = none → (Matrix.shadow (s.tile t).mxe).rows = [] →
      StreamCtx.head (s.eng t 1 d.ctx) = some (.data bytes p) → bytes.length = 32 →
      Gives (.weightLoad t) s fun u => Matrix.shadow (u.tile t).mxe = { Matrix.shadow (s.tile t).mxe with mask := some bytes } ∧
        Matrix.loaded (u.tile t).mxe = Matrix.loaded (s.tile t).mxe ∧
        (u.eng t 1 d.ctx).queue = (s.eng t 1 d.ctx).queue.tail ∧ u.regs = s.regs ∧ u.mem = s.mem) ∧
    (∀ d bytes p, s.clocked t.field.val = true → Matrix.loadFor (s.tile t).mxe = some d →
      (d.cpred = false ∨ (Matrix.shadow (s.tile t).mxe).mask.isSome = true ∨ (Matrix.shadow (s.tile t).mxe).rows ≠ []) →
      WeightBuf.full (Matrix.shadow (s.tile t).mxe) = false → StreamCtx.head (s.eng t 1 d.ctx) = some (.data bytes p) →
      bytes.length = engineRowBytes d.fmt →
      Gives (.weightLoad t) s fun u =>
        (Matrix.shadow (u.tile t).mxe).rows = (Matrix.shadow (s.tile t).mxe).rows ++ [bytes] ∧
        (Matrix.shadow (u.tile t).mxe).check = addLists (Matrix.shadow (s.tile t).mxe).check (checkTerms d.fmt (readRow d.fmt d.klen bytes)) ∧
        Matrix.loaded (u.tile t).mxe = Matrix.loaded (s.tile t).mxe ∧
        (u.eng t 1 d.ctx).queue = (s.eng t 1 d.ctx).queue.tail ∧ u.regs = s.regs ∧ u.mem = s.mem) ∧
    (∀ r, (s.tile t).mxe.run = some r → s.canAct t r.desc.ctx = true → r.swapped = false →
      WeightBuf.full (Matrix.shadow (s.tile t).mxe) = true →
      Gives (.weightSwap t) s fun u => Matrix.loaded (u.tile t).mxe = Matrix.shadow (s.tile t).mxe ∧
        Matrix.shadow (u.tile t).mxe = {} ∧ (u.tile t).mxe.run = some { r with swapped := true } ∧ u.regs = s.regs ∧ u.mem = s.mem) ∧
    (∀ r bytes f, (s.tile t).mxe.run = some r → s.canAct t r.desc.ctx = true → r.swapped = true → (s.tile t).mxe.redo = 0 →
      StreamCtx.head (s.eng t 0 r.desc.ctx) = some (.data bytes false) → bytes.length = engineRowBytes r.desc.fmt → r.desc.rpred = true →
      Gives (.rowPass t f) s fun u => (u.tile t).mxe.run = Run.next r ∧ (∀ g < 1024, ∀ j < 256, u.reg (accCa t g j) = s.reg (accCa t g j)) ∧
        (u.eng t 0 r.desc.ctx).queue = (s.eng t 0 r.desc.ctx).queue.tail ∧ u.mem = s.mem) ∧
    (∀ r bytes (b : Fin 16) (k : Fin 10), RowReady s t r bytes →
      Gives (.rowPass t ⟨0, b, [], k⟩) s (fun u => (u.tile t).mxe.run = Run.next r ∧
        (∀ j < 256, u.reg (accCa t (runRow r) j) =
          if s.laneOn t r.desc (Matrix.loaded (s.tile t).mxe).mask j = true then passElement s t r bytes j
          else s.reg (accCa t (runRow r) j)) ∧
        (∀ g < 1024, g ≠ runRow r → ∀ j < 256, u.reg (accCa t g j) = s.reg (accCa t g j)) ∧
        (u.eng t 0 r.desc.ctx).queue = (s.eng t 0 r.desc.ctx).queue.tail ∧ u.mem = s.mem) ∧
      (∀ n, 0 < n → n ≤ s.fld (tileCa t 0x02 0) 11 8 → Gives (.rowPass t ⟨n, b, [], k⟩) s fun u =>
        u.bit (mxeFlagsCa t) 8 = true ∧ (u.tile t).mxe.hold = (s.tile t).mxe.hold + 10 * n ∧
        (u.tile t).mxe.halted = (s.tile t).mxe.halted ∧ u.mem = s.mem) ∧
      ∀ n, s.fld (tileCa t 0x02 0) 11 8 < n → Gives (.rowPass t ⟨n, b, [], k⟩) s fun u =>
        (∀ j < 256, s.laneOn t r.desc (Matrix.loaded (s.tile t).mxe).mask j = true →
          w48Value (u.reg (accCa t (runRow r) j)) = .poison) ∧
        u.bit (mxeFlagsCa t) 9 = true ∧ (u.tile t).mxe.halted = ((s.tile t).mxe.halted || s.bit (tileCa t 0x02 0) 0) ∧
        (u.tile t).mxe.hold = (s.tile t).mxe.hold + 10 * (s.fld (tileCa t 0x02 0) 11 8 + if s.bit (tileCa t 0x02 0) 0 then 0 else 1) ∧ u.mem = s.mem)

/-- CLRHALT restarts a halted engine, with 10 cycles more of its hold (R71). At the full debug level a CHECK_INJECT sets the block and count of the injection and CHECK_INJECT_CANCEL ends it; at a lower level both are rejected (R73). A window write of an element stores it with a sound residue; one that meets a pass's write of the element is lost, with HAZ set (R64, R75). A window read returns the element, or poison where its residue fails (R72). While the chain or a stream engine has port S a window access waits: nothing changes (R74). -/
def Obligations.EngineControlsAndTheAccumulatorWindow : Prop :=
  ∀ (s : State) (t : Tile), s.serves t.field.val = true →
    Gives (.clrhalt t) s (fun u => (u.tile t).mxe = { (s.tile t).mxe with halted := false, hold := if (s.tile t).mxe.halted then (s.tile t).mxe.hold + 10 else (s.tile t).mxe.hold } ∧ u.regs = s.regs ∧ u.mem = s.mem) ∧
    (s.rind.load = none →
      (∀ b n : Fin 16, s.level = 2 → Gives (.checkInject t b n) s fun u => (u.tile t).mxe.inject = (b.val, n.val) ∧ u.regs = s.regs ∧ u.mem = s.mem) ∧
      (s.level = 2 → Gives (.checkInjectCancel t) s fun u => (u.tile t).mxe.inject = (0, 0) ∧ u.regs = s.regs ∧ u.mem = s.mem) ∧
      (∀ b n : Fin 16, s.level < 2 → Gives (.checkInject t b n) s (fun u => Rejected s u (tileCa t 0x02 0x20)) ∧
        Gives (.checkInjectCancel t) s fun u => Rejected s u (tileCa t 0x02 0x20))) ∧
    (∀ (g : Fin 1024) (j : Fin 256) (v : Word),
      Gives (.accWindowWrite t g j v false false) s (fun u => u.reg (accCa t g.val j.val) = setBits v 1 0 0 ∧
        tget false u.resBad (accCa t g.val j.val) = false ∧ OthersKept s u (accCa t g.val j.val)) ∧
      Gives (.accWindowWrite t g j v true false) s (fun u => u.bit (mxeFlagsCa t) 7 = true ∧ OthersKept s u (mxeFlagsCa t)) ∧
      (∀ b, Gives (.accWindowWrite t g j v b true) s (fun u => u = s) ∧ Gives (.accWindowRead t g j b true) s fun u => u = s) ∧
      (tget false s.resBad (accCa t g.val j.val) = false → Gives (.accWindowRead t g j false false) s fun u =>
        (u.tile t).bankOut = toBytes 8 (s.reg (accCa t g.val j.val)).toNat ∧ u.regs = s.regs ∧ u.mem = s.mem) ∧
      (tget false s.resBad (accCa t g.val j.val) = true → Gives (.accWindowRead t g j false false) s fun u =>
        (u.tile t).bankOut = toBytes 8 residuePoison.toNat ∧ w48Value residuePoison = .poison ∧ OthersKept s u (mxeFlagsCa t)))

/-- A queued invocation that may start becomes the one in progress, with its configuration words copied (R130). A preload entry at the head of the side queue is taken into V0 or V1, low 6 bits cleared (R112). A row of an invocation without side entries is read and counts one row more; its entries join those to be placed: one data entry where OKIND is 1 to 4, one record for each emitting stage and one flag word where it asks for it (R107, R125). A row with no stage, no mask and OKIND 4 that lies in the bounds with sound residues gives the canonical W48 words of its elements with their flags. The next entry to be placed enters its context's stream-out queue while there is room (R125, R160). Memory stays. -/
def Obligations.ChainReadsRowsAndPlacesEntries : Prop :=
  ∀ (s : State) (t : Tile),
    (∀ q, s.canAct t q.ctx = true → (s.tile t).chain.queued = some q → Chain.mayStart (s.tile t).chain q = true →
      Gives (.invocationStart t) s fun u => (u.tile t).chain.queued = none ∧ (u.tile t).chain.done = 0 ∧
        (∃ v : Invocation, (u.tile t).chain.run = some v ∧ v.ctx = q.ctx ∧ v.cfg = q.cfg ∧ v.row = q.row ∧ v.nrows = q.nrows ∧
          v.words = (List.range 16).map fun w => s.reg (vchCfgCa t q.ctx q.cfg w)) ∧ u.regs = s.regs ∧ u.mem = s.mem) ∧
    (∀ v bytes p, (s.tile t).chain.run = some v → s.canAct t v.ctx = true →
      let h := v.words.getD 0 0
      (s.tile t).chain.loaded < preloads h → (s.tile t).chain.out = [] → StreamCtx.head (s.eng t (sideEngine h) v.ctx) = some (.data bytes p) → bytes.length = 2048 →
      Gives (.preloadRead t) s fun u => (u.tile t).chain.loaded = (s.tile t).chain.loaded + 1 ∧
        (∀ l < 256, u.reg (vchVecCa t v.ctx (if cfgPreload h = 2 then 1 else (s.tile t).chain.loaded) l) =
          setBits ((wordsIn 256 bytes).getD l 0) 5 0 0) ∧
        (u.eng t (sideEngine h) v.ctx).queue = (s.eng t (sideEngine h) v.ctx).queue.tail ∧ u.mem = s.mem) ∧
    (∀ v us es, (s.tile t).chain.run = some v → s.canAct t v.ctx = true →
      let h := v.words.getD 0 0
      let o := v.words.getD 9 0
      preloads h ≤ (s.tile t).chain.loaded → (s.tile t).chain.done < v.nrows → cfgSidekind h = 0 → cfgOk v.words = true →
      (Gives (.chainRow t us es) s fun u => (u.tile t).chain.done = (s.tile t).chain.done + 1 ∧ u.mem = s.mem ∧
        ∃ ents : List (List Byte), (u.tile t).chain.out = (s.tile t).chain.out ++ ents.map (fun b => (v.ctx, Entry.data b true)) ∧
          ents.length = (if 1 ≤ bits o 63 61 ∧ bits o 63 61 ≤ 4 then 1 else 0) + ((cfgStages v.words).filter (·.emit)).length +
            (if o.getLsbD 59 then 1 else 0)) ∧
      (cfgStages v.words = [] → h.getLsbD 51 = false → bits o 63 61 = 4 → o.getLsbD 59 = false →
        let g := (v.row + (s.tile t).chain.done) % 1024
        s.accBound t v.ctx g = true → (∀ j < 256, tget false s.resBad (accCa t g j) = false) →
        Gives (.chainRow t [] []) s fun u => (u.tile t).chain.out = (s.tile t).chain.out ++ [(v.ctx, Entry.data
          (((List.range 256).map fun l => toBytes 8 (w48Word (canonW48 (w48Value (s.reg (accCa t g l)))) (w48Flags (s.reg (accCa t g l)))).toNat).flatten)
          true)])) ∧
    (∀ c e rest, (s.tile t).chain.out = (c, e) :: rest → s.canAct t c = true → s.placeBlock t = false →
      Gives (.chainEntryPlace t) s fun u => (u.tile t).chain.out = rest ∧
        (u.eng t 2 c).queue = (s.eng t 2 c).queue ++ [.ready e] ∧ u.regs = s.regs ∧ u.mem = s.mem)

/-- A compare-and-count of a unit of the bank's own tile on an aligned word within the domain's bounds that holds no bit error and that no LOAD claims returns the word before in CMPV and leaves: CNT the count plus IMM modulo 2^32, DONE; CNTLT the count plus 1 if it is below IMM, else MISS; CEQ the count plus 1 modulo 2^32 if it equals IMM, else MISS; SEMDN the count minus IMM if it is at least IMM, else MISS; LACQ and LREL the word of Table 7-4; LRST 0, DONE. The other fields of the word stay but under LACQ and LRST. Every other byte of memory stays. A word outside the bounds or misaligned is left as it was. -/
def Obligations.CompareAndCountOnAWord : Prop :=
  ∀ (s : State) (t : Tile) (job : JobNo) (off : BitVec 25) (imm : BitVec 32) (who : Requester),
    let w := s.padWordAt t off.toNat
    let n := bits w 31 0
    let i := imm.toNat
    (off.toNat % 8 = 0 → s.inBounds t job.val off.toNat 8 = true → s.wordErr (padAddr t off.toNat) = 0 → s.rind.load = none →
      Gives (.cnt (.bank t job off) imm who) s (CacLeaves s t off.toNat (setBits w 31 0 ((n + i) % 2 ^ 32), 0)) ∧
      Gives (.cntlt (.bank t job off) imm who) s (CacLeaves s t off.toNat (if n < i then (setBits w 31 0 (n + 1), 0) else (w, 1))) ∧
      Gives (.ceq (.bank t job off) imm who) s (CacLeaves s t off.toNat (if n = i then (setBits w 31 0 ((n + 1) % 2 ^ 32), 0) else (w, 1))) ∧
      Gives (.semdn (.bank t job off) imm who) s (CacLeaves s t off.toNat (if i ≤ n then (setBits w 31 0 (n - i), 0) else (w, 1))) ∧
      Gives (.lacq (.bank t job off) imm who) s (CacLeaves s t off.toNat (lacq w who fun k => s.fld (eptabCa t k) 15 0)) ∧
      Gives (.lrel (.bank t job off) imm who) s (CacLeaves s t off.toNat
        (if w.getLsbD 33 then (w, 2) else if n ≠ 0 ∧ heldBy w who = true then (setBits w 31 0 (n - 1), 0) else (w, 1))) ∧
      Gives (.lrst (.bank t job off) imm who) s (CacLeaves s t off.toNat (0, 0))) ∧
    (off.toNat % 8 ≠ 0 ∨ s.inBounds t job.val off.toNat 8 = false →
      Gives (.cnt (.bank t job off) imm who) s (fun u => u.mem = s.mem) ∧ Gives (.cntlt (.bank t job off) imm who) s (fun u => u.mem = s.mem) ∧
      Gives (.ceq (.bank t job off) imm who) s (fun u => u.mem = s.mem) ∧ Gives (.semdn (.bank t job off) imm who) s (fun u => u.mem = s.mem) ∧
      Gives (.lacq (.bank t job off) imm who) s (fun u => u.mem = s.mem) ∧ Gives (.lrel (.bank t job off) imm who) s (fun u => u.mem = s.mem) ∧
      Gives (.lrst (.bank t job off) imm who) s (fun u => u.mem = s.mem))

/-- Of the accesses that want a bank, the first in the order of R147 is performed and the others wait; those of different banks are all performed: a write within the domain's bounds leaves its bytes in memory and every other byte as it was, a read delivers the bytes and changes no register but its requester's slot counter. A window write to a bundle that no RUNNING or STOPPING context's region holds is stored as written, reserved codes included (R7, R80). A counter at 2^48 - 1 that counts n more wraps: COUNT is n - 1, WRAP is set and WRAPS advances up to 255 (R106). An epoch notice sets the field's copies of the logical tile's epoch, and the Rind's master copy (R153). -/
def Obligations.BanksStoresCountersAndEpochs : Prop :=
  ∀ (s : State) (t : Tile),
    (∀ (r q : BankReq) (d : List Byte), bankReqOk q = true → BankFits s t r (.write d) → bankOf r = bankOf q → r.who.val < q.who.val →
      Gives (.bankAccess t [] [q, r]) s fun u => Written s u (padAddr t r.off.toNat) d) ∧
    (∀ (r q : BankReq) (d e : List Byte), BankFits s t q (.write e) → BankFits s t r (.write d) → bankOf r ≠ bankOf q →
      Gives (.bankAccess t [] [q, r]) s fun u =>
        (∀ i < d.length, u.byte (padAddr t r.off.toNat + i) = d.getD i 0) ∧ (∀ i < e.length, u.byte (padAddr t q.off.toNat + i) = e.getD i 0) ∧
        ∀ a, (a < padAddr t r.off.toNat ∨ padAddr t r.off.toNat + d.length ≤ a) → (a < padAddr t q.off.toNat ∨ padAddr t q.off.toNat + e.length ≤ a) →
          u.byte a = s.byte a) ∧
    (∀ (r : BankReq) (n : Nat), BankFits s t r (.read n) →
      Gives (.bankAccess t [] [r]) s fun u => (u.tile t).bankOut = s.bytes (padAddr t r.off.toNat) n ∧ u.mem = s.mem ∧
        (∀ cb, (∀ k, bankSlotCounter r.who = some k → cb ≠ tileCa t 0x0B (0x100 + 8 * k)) → u.reg cb = s.reg cb)) ∧
    (∀ (w : Fin 32768) (v : Word), s.serves t.field.val = true → s.rind.load = none →
      (∀ c, Ctx.live (s.ctx t c) = false ∨ s.inRegion t c (w.val / 4) = false) →
      Gives (.istoreWrite (caOf (tileCa t 0x10 (8 * w.val))) v) s fun u =>
        u.reg (tileCa t 0x10 (8 * w.val)) = v ∧ OthersKept s u (tileCa t 0x10 (8 * w.val))) ∧
    (∀ (c : CtxNo) (n : Fin 43), n.val ≠ 0 → s.serves t.field.val = true → s.fld (cycCa t c) 47 0 = 2 ^ 48 - 1 →
      Gives (.counterWrap (caOf (cycCa t c)) n) s fun u => u.fld (cycCa t c) 47 0 = n.val - 1 ∧ u.bit (cycCa t c) 63 = true ∧
        u.fld (cycCa t c) 62 55 = min 255 (s.fld (cycCa t c) 62 55 + 1) ∧ OthersKept s u (cycCa t c)) ∧
    (∀ (k : Fin 1920) (e : BitVec 16),
      (s.serves t.field.val = true → Comes s t.field.val 0x30 (.epochNotice k.val e) → Gives (.epochNotice (some t.field) k e) s fun u =>
        u.fld (eptabCa t k.val) 15 0 = e.toNat ∧ u.mem = s.mem) ∧
      ((∀ p ∈ s.net, p.head.dfield = 0x3C → p.body = .epochNotice k.val e → s.mayTake p.head p.body = true) →
        Gives (.epochNotice none k e) s fun u => tget 0 u.epochs k.val = e.setWidth 64 ∧ u.regs = s.regs ∧ u.mem = s.mem))

/-- For an engine whose program's next instruction is not a reserved code and is not the last: IXSET and SETC set IX[IA] or CN[IA] to IMM plus PAR where PSRC = 1; IXADD adds IMM modulo 2^24; IXLD takes CMPV[23:0] once the response of the last CAC has come, and waits until then; DJNZ lowers CN[IA] by 1 modulo 2^24 and branches if it is not 0; JMP branches; BRS branches if CST = CODE; PLIM sets the predicate limit; SETM sets the module register; WAITN puts the program to sleep for N cycles; MASKN and TOK place an entry in a stream-in queue with room. END ends the program, and a stream-in engine places EOS. A reserved code faults the program: it ends, STR_FLAGS.PFAULT is set and an event names the place (R165). Memory, and every register but STR_FLAGS of a fault, stay, as do the other engines. -/
def Obligations.StreamControlInstructions : Prop :=
  (∀ (s : State) (t : Tile) (e : Fin 3) (c : CtxNo) (r : StreamRun) (w : Word), NextIs s t e c r w →
    (bits w 63 59 = 0x00 → Gives (.streamEnd t e c) s fun u => (u.eng t e c).run = none ∧ EnginesKept s u t e c ∧
      (e = 2 → (u.eng t e c).queue = (s.eng t e c).queue) ∧
      (e ≠ 2 → (s.eng t e c).waiting = [] → StreamCtx.fits (s.eng t e c) 1 = true →
        (u.eng t e c).queue = (s.eng t e c).queue ++ [.ready (.token 0x01)])) ∧
    (bits w 63 59 = 0x01 → Gives (.ixset t e c) s (Goes s t e c { ahead r with ix := setAt r.ix (bits w 58 57) ((bits w 23 0 + if w.getLsbD 52 then r.par else 0) % 2 ^ 24) })) ∧
    (bits w 63 59 = 0x02 → Gives (.ixadd t e c) s (Goes s t e c { ahead r with ix := setAt r.ix (bits w 58 57) ((r.ix.getD (bits w 58 57) 0 + bits w 23 0) % 2 ^ 24) })) ∧
    (bits w 63 59 = 0x03 → r.cacTag = none → Gives (.ixld t e c) s (Goes s t e c { ahead r with ix := setAt r.ix (bits w 58 57) (bits r.cmpv 23 0) })) ∧
    (bits w 63 59 = 0x03 → r.cacTag ≠ none → Gives (.ixld t e c) s fun u => u = s) ∧
    (bits w 63 59 = 0x04 → Gives (.setc t e c) s (Goes s t e c { ahead r with cn := setAt r.cn (bits w 58 57) ((bits w 23 0 + if w.getLsbD 52 then r.par else 0) % 2 ^ 24) })) ∧
    (bits w 63 59 = 0x05 → r.cn.getD (bits w 58 57) 0 = 1 → Gives (.streamDjnz t e c) s (Goes s t e c { ahead r with cn := setAt r.cn (bits w 58 57) 0 })) ∧
    (bits w 63 59 = 0x05 → 1 < r.cn.getD (bits w 58 57) 0 → r.cn.getD (bits w 58 57) 0 < 2 ^ 24 →
      Gives (.streamDjnz t e c) s (Goes s t e c { r with ip := bits w 4 0, cn := setAt r.cn (bits w 58 57) (r.cn.getD (bits w 58 57) 0 - 1) })) ∧
    (bits w 63 59 = 0x05 → r.cn.getD (bits w 58 57) 0 = 0 → Gives (.streamDjnz t e c) s (Goes s t e c { r with ip := bits w 4 0, cn := setAt r.cn (bits w 58 57) (2 ^ 24 - 1) })) ∧
    (bits w 63 59 = 0x06 → Gives (.streamJmp t e c) s (Goes s t e c { r with ip := bits w 4 0 })) ∧
    (bits w 63 59 = 0x07 → r.cacTag = none →
      Gives (.brs t e c) s (Goes s t e c { r with ip := if (s.eng t e c).cst = bits w 52 51 then bits w 4 0 else r.ip + 1 })) ∧
    (bits w 63 59 = 0x0C → bits w 52 51 ≠ 1 → Gives (.plim t e c) s (Goes s t e c { ahead r with plim := if bits w 52 51 = 0 then bits w 23 0 else r.par })) ∧
    (bits w 63 59 = 0x0C → bits w 52 51 = 1 → r.cacTag = none → Gives (.plim t e c) s (Goes s t e c { ahead r with plim := bits r.cmpv 23 0 })) ∧
    (bits w 63 59 = 0x11 → (w.getLsbD 52 = true → r.cacTag = none) → Gives (.setm t e c) s fun u =>
      (u.eng t e c).dest = (if w.getLsbD 52 then bits r.cmpv 15 0 else bits w 15 0) ∧ (u.eng t e c).run = some (ahead r) ∧ EnginesKept s u t e c) ∧
    (bits w 63 59 = 0x0F → Gives (.waitn t e c) s (Goes s t e c { ahead r with sleep := decide (bits w 15 0 ≠ 0) }))) ∧
  (∀ (s : State) (t : Tile) (b : Fin 2) (c : CtxNo) (r : StreamRun) (w : Word), NextIs s t (sin b) c r w →
    StreamCtx.room (s.eng t (sin b) c) 1 = true →
    (bits w 63 59 = 0x0D → Gives (.maskn t b c) s fun u => (u.eng t (sin b) c).run = some (ahead r) ∧ EnginesKept s u t (sin b) c ∧
      ∃ m, (u.eng t (sin b) c).queue = (s.eng t (sin b) c).queue ++ [.ready (.data m true)] ∧ m.length = 32 ∧
        ofBytes m = 2 ^ (if w.getLsbD 52 then min r.plim 256 else bits w 8 0) - 1) ∧
    (bits w 63 59 = 0x0E → Gives (.streamTok t b c) s fun u => (u.eng t (sin b) c).run = some (ahead r) ∧ EnginesKept s u t (sin b) c ∧
      (u.eng t (sin b) c).queue = (s.eng t (sin b) c).queue ++ [.ready (.token (BitVec.ofNat 8 (bits w 7 0)))])) ∧
  (∀ (s : State) (t : Tile) (e : Fin 3) (c : CtxNo) (r : StreamRun) (w : Word), s.strFetch t e c = some (r, w) → streamReserved e.val w = true →
    Gives (.streamJmp t e c) s fun u => u.eng t e c = StreamCtx.stop (s.eng t e c) ∧ (u.eng t e c).run = none ∧ u.bit (strFlagsCa t) 1 = true ∧
      (∀ cb ≠ strFlagsCa t, u.reg cb = s.reg cb) ∧ u.mem = s.mem ∧
      ∃ ev : Event, u.events = s.events ++ [ev] ∧ ev.code = 0x0B ∧ ev.detail = BitVec.ofNat 64 (e.val * 65536 + r.prog * 256 + r.ip))

/-- A stream-in LINE at the tile's own scratchpad, within the bounds of its domain and over sound words, places one entry with the bytes read; at another endpoint it reserves a place and sends one read of the same bytes. A stream-out LINE takes the head entry of the size it names and writes its bytes there, or sends one write of them; an entry of another size faults the program with STR_FLAGS.SIZE. A ROW whose predicate is false places zeros with the predicate cleared, or takes its entry and writes nothing; one whose predicate holds places its blocks' mantissas, then its scales, zeros between, the scales from the held scale line where they lie in it, or writes the mantissas and the scales of its entry (R159). A CAC performs its operation on a word of the own scratchpad, leaving the word before in CMPV and the status in CST, or sends one request of it and waits for its response (R150, R157). ACCX moves the 256 elements of a row of accumulators to 2,048 bytes of the scratchpad or back, and waits while the chain has port S (R74, R163). Every byte of memory that is not written stays. -/
def Obligations.StreamReadsWritesAndCompareAndCount : Prop :=
  (∀ (s : State) (t : Tile) (e : Fin 3) (c : CtxNo) (r : StreamRun) (w : Word) (d : TensorDesc), NextIs s t e c r w →
    s.strDesc t e c r w = some d →
    (bits w 63 59 = 0x09 → w.getLsbD 51 = false → w.getLsbD 52 = false → d.fmt = none → s.tagsFor t d (accessAddrs r w d) = true →
      let a := lineAt d r w
      let n := bits w 42 32 + 1
      (∀ off, e ≠ 2 → StreamCtx.room (s.eng t e c) (unitsFor n) = true → s.way t d.loc d.xm a = .own off → InPad s t c off n →
        Gives (.line t e c) s fun u => (u.eng t e c).run = some (ahead r) ∧ u.mem = s.mem ∧
          (u.eng t e c).queue.length = (s.eng t e c).queue.length + 1 ∧
          (u.eng t e c).queue.getLast? = some (.ready (.data (s.bytes (padAddr t off) n) true))) ∧
      (∀ df ds dl, e ≠ 2 → StreamCtx.room (s.eng t e c) (unitsFor n) = true → s.way t d.loc d.xm a = .net df ds dl →
        Gives (.line t e c) s fun u => (u.eng t e c).run = some (ahead r) ∧ u.mem = s.mem ∧ u.regs = s.regs ∧
          (u.eng t e c).queue.length = (s.eng t e c).queue.length + 1 ∧
          ∃ p : Packet, u.net = s.net ++ [p] ∧ p.body = .rd a n ∧ p.head.dfield = df ∧ p.head.dsite = ds ∧ p.head.dlog = dl ∧ p.head.job = s.jobOf t c) ∧
      (∀ off b p, e = 2 → StreamCtx.head (s.eng t e c) = some (.data b p) → b.length = n → s.way t d.loc d.xm a = .own off → InPad s t c off n →
        Gives (.line t e c) s fun u => (u.eng t e c).run = some (ahead r) ∧ (u.eng t e c).queue = (s.eng t e c).queue.tail ∧
          Written s u (padAddr t off) b) ∧
      (∀ df ds dl b p, e = 2 → StreamCtx.head (s.eng t e c) = some (.data b p) → b.length = n → s.way t d.loc d.xm a = .net df ds dl →
        Gives (.line t e c) s fun u => (u.eng t e c).run = some (ahead r) ∧ (u.eng t e c).queue = (s.eng t e c).queue.tail ∧ EnginesKept s u t e c ∧
          ∃ p : Packet, u.net = s.net ++ [p] ∧ p.body = .wr a b ∧ p.head.dfield = df ∧ p.head.dsite = ds ∧ p.head.dlog = dl ∧ p.head.job = s.jobOf t c) ∧
      (∀ b p, e = 2 → StreamCtx.head (s.eng t e c) = some (.data b p) → b.length ≠ n → Gives (.line t e c) s fun u =>
        (u.eng t e c).run = none ∧ (u.eng t e c).queue = (s.eng t e c).queue ∧ u.bit (strFlagsCa t) 2 = true ∧ u.mem = s.mem)) ∧
    (∀ f, bits w 63 59 = 0x08 → w.getLsbD 15 = false → d.fmt = some f → s.tagsFor t d (accessAddrs r w d) = true →
      let q := rowFields r w
      let size := (bits w 51 48 + 1) * (blockBytes f + 1)
      (e ≠ 2 → q.pred = false → StreamCtx.room (s.eng t e c) (unitsFor size) = true → Gives (.row t e c) s fun u =>
        (u.eng t e c).queue = (s.eng t e c).queue ++ [.ready (.data (List.replicate size 0) false)] ∧ (u.eng t e c).run = some (ahead r) ∧ EnginesKept s u t e c) ∧
      (∀ om os, e ≠ 2 → q.pred = true → q.nrd ≠ 0 → StreamCtx.room (s.eng t e c) (unitsFor size) = true →
        s.way t d.loc d.xm (mantAddr d f q.rr q.fb) = .own om → s.way t d.loc d.xm (scaleAddr d q.rr q.fb) = .own os →
        InPad s t c om (q.nrd * blockBytes f) → InPad s t c os q.nrd → Gives (.row t e c) s fun u =>
        (u.eng t e c).run = some (ahead r) ∧ u.mem = s.mem ∧ (u.eng t e c).queue.length = (s.eng t e c).queue.length + 1 ∧
        (u.eng t e c).queue.getLast? = some (.ready (.data (s.bytes (padAddr t om) (q.nrd * blockBytes f) ++
          List.replicate ((q.nblk - q.nrd) * blockBytes f) 0 ++ scalesAt s t e c os q.nrd ++ List.replicate (q.nblk - q.nrd) 0) true))) ∧
      (∀ b p, e = 2 → StreamCtx.head (s.eng t e c) = some (.data b p) → b.length = size → q.pred = false → Gives (.row t e c) s fun u =>
        (u.eng t e c).run = some (ahead r) ∧ (u.eng t e c).queue = (s.eng t e c).queue.tail ∧ EnginesKept s u t e c) ∧
      (∀ om os b p, e = 2 → StreamCtx.head (s.eng t e c) = some (.data b p) → b.length = size → q.pred = true → q.nrd ≠ 0 →
        s.way t d.loc d.xm (mantAddr d f q.rr q.fb) = .own om → s.way t d.loc d.xm (scaleAddr d q.rr q.fb) = .own os →
        InPad s t c om (q.nrd * blockBytes f) → InPad s t c os q.nrd → (om + q.nrd * blockBytes f ≤ os ∨ os + q.nrd ≤ om) →
        Gives (.row t e c) s fun u => (u.eng t e c).run = some (ahead r) ∧ (u.eng t e c).queue = (s.eng t e c).queue.tail ∧
          (∀ i < q.nrd * blockBytes f, u.byte (padAddr t om + i) = b.getD i 0) ∧
          (∀ i < q.nrd, u.byte (padAddr t os + i) = b.getD (q.nblk * blockBytes f + i) 0) ∧
          ∀ k, (k < padAddr t om ∨ padAddr t om + q.nrd * blockBytes f ≤ k) → (k < padAddr t os ∨ padAddr t os + q.nrd ≤ k) →
            u.byte k = s.byte k)) ∧
    (∀ op, bits w 63 59 = 0x0A → cacOpOf (bits w 52 49) = some op → d.fmt = none →
      let a := TensorDesc.wrap d (d.mbase + r.ix.getD (bits w 58 57) 0 * d.rstride + 8 * bits w 48 32)
      a % 8 = 0 → r.cacTag = none → s.tagsFor t d [a] = true →
      (∀ df ds dl, s.way t d.loc d.xm a = .net df ds dl → Gives (.streamCac t e c) s fun u =>
        (∃ tag, (u.eng t e c).run = some { ahead r with cacTag := some tag }) ∧ EnginesKept s u t e c ∧
        ∃ p : Packet, u.net = s.net ++ [p] ∧ p.body = .cac a (bits w 52 49) (bits w 31 0) (s.requester t c) ∧ p.head.dfield = df ∧
          p.head.dsite = ds ∧ p.head.dlog = dl ∧ p.head.job = s.jobOf t c) ∧
      ∀ off, s.way t d.loc d.xm a = .own off → InPad s t c off 8 →
      let v := s.padWordAt t off
      let p := cacStep op (bits w 31 0) v (s.requester t c) fun k => s.fld (eptabCa t k) 15 0
      Gives (.streamCac t e c) s fun u => (u.eng t e c).run = some { ahead r with cmpv := v } ∧ (u.eng t e c).cst = p.2 ∧
        u.padWordAt t off = p.1 ∧ ∀ b, (b < padAddr t off ∨ padAddr t off + 8 ≤ b) → u.byte b = s.byte b)) ∧
  (∀ (s : State) (t : Tile) (e : Fin 3) (c : CtxNo) (r : StreamRun) (w : Word) (d : TensorDesc), NextIs s t e c r w →
    s.strDesc t e c r w = some d → bits w 63 59 = 0x0B → d.fmt = none → d.loc = true → d.xm = false →
    let g := r.ix.getD (bits w 58 57) 0 % 1024
    let a := TensorDesc.wrap d (d.mbase + r.ix.getD (bits w 56 55) 0 * d.rstride)
    s.accBound t c g = true → InPad s t c a 2048 →
    (e = 2 → (∀ j < 256, tget false s.resBad (accCa t g j) = false) → Gives (.accxSpill t c [] false) s fun u =>
      (u.eng t e c).run = some (ahead r) ∧
      Written s u (padAddr t a) ((List.range 256).map fun j => toBytes 8 (s.reg (accCa t g j)).toNat).flatten) ∧
    (∀ b : Fin 2, e = sin b → Gives (.accxFill t b c [] false) s fun u => (u.eng t e c).run = some (ahead r) ∧ u.mem = s.mem ∧
      (∀ j < 256, u.reg (accCa t g j) = setBits (s.padWordAt t (a + 8 * j)) 1 0 0) ∧
      ∀ h < 1024, h ≠ g → ∀ j < 256, u.reg (accCa t h j) = s.reg (accCa t h j))) ∧
  (∀ (s : State) (t : Tile) (b : Fin 2) (c : CtxNo) (l : List (Fin 256)),
    Gives (.accxSpill t c l true) s (fun u => u = s) ∧ Gives (.accxFill t b c l true) s fun u => u = s)

/-- MRX reserves places for its N multicast entries while there is room, sends one credit for each to the issuing engine's tile, and ends when N have been made (R162). A multicast LINE read of the own scratchpad issues once every member of the group has a credit: each count falls by 1 and the bytes are sent to the group once; with a member out of credits it waits. A multicast LINE write takes its entry and sends one packet to the group. A breeze transfer of up to 64 bytes to another scratchpad takes its entry and sends one packet, while its tile may inject one (R164, R184). A read response of the queue's present tag gives its place its part, and one with a status other than DONE error fill, with STR_FLAGS.BOUND set (R165); one of an older tag is discarded, counted, with STR_FLAGS.DISC set (R161). A multicast credit that reaches the issuing engine's tile raises the count of the member that sent it. A queued program starts at instruction 0 when none is in progress (R94); waiting tokens are placed while there is room (R160). The cycles of a WAITN over, the program is awake. -/
def Obligations.MulticastBreezeAndQueues : Prop :=
  (∀ (s : State) (t : Tile) (b : Fin 2) (c : CtxNo) (r : StreamRun) (w : Word), NextIs s t (sin b) c r w →
    (∀ (src : Tile) (se : Fin 2) (sc : CtxNo) (group : BitVec 12), bits w 63 59 = 0x10 →
      Gives (.mrx t b c src se sc group) s fun u => u.regs = s.regs ∧ u.mem = s.mem ∧
        ∃ n, n ≤ bits w 23 0 - r.mrxDone ∧ (u.eng t (sin b) c).queue.length = (s.eng t (sin b) c).queue.length + n ∧
          u.net.length = s.net.length + n ∧ (∀ p ∈ u.net.drop s.net.length, p.body = .mcCredit se.val sc (bits w 31 24)) ∧
          (n = bits w 23 0 - r.mrxDone → (u.eng t (sin b) c).run = some { ahead r with mrxDone := 0 }) ∧
          (n < bits w 23 0 - r.mrxDone → (u.eng t (sin b) c).run = some { r with mrxDone := r.mrxDone + n } ∧
            StreamCtx.room (u.eng t (sin b) c) (bits w 31 24) = false)) ∧
    (∀ (d : TensorDesc) (off : Nat), bits w 63 59 = 0x09 → w.getLsbD 51 = true → s.strDesc t (sin b) c r w = some d → d.fmt = none →
      let n := bits w 42 32 + 1
      let key := fun m => creditKey (sin b) c (bits w 11 0) m
      (∀ m < s.groupSize t.field (bits w 11 0), tget 0 (s.tile t).mcCredit (key m) ≠ 0) →
      s.way t d.loc d.xm (lineAt d r w) = .own off → InPad s t c off n →
      Gives (.multicastRead t b c) s fun u => (u.eng t (sin b) c).run = some (ahead r) ∧ u.mem = s.mem ∧
        (∀ m < s.groupSize t.field (bits w 11 0), tget 0 (u.tile t).mcCredit (key m) = tget 0 (s.tile t).mcCredit (key m) - 1) ∧
        ∃ p : Packet, u.net = s.net ++ [p] ∧ p.body = .rdata .done (s.bytes (padAddr t off) n) false ∧ (p.head.mcg.map (·.group)) = some (bits w 11 0)) ∧
    (∀ (d : TensorDesc) (m : Nat), bits w 63 59 = 0x09 → w.getLsbD 51 = true → s.strDesc t (sin b) c r w = some d → d.fmt = none →
      m < s.groupSize t.field (bits w 11 0) → tget 0 (s.tile t).mcCredit (creditKey (sin b) c (bits w 11 0) m) = 0 →
      Gives (.multicastRead t b c) s fun u => u = s)) ∧
  (∀ (s : State) (t : Tile) (c : CtxNo) (r : StreamRun) (w : Word) (d : TensorDesc) (b : List Byte) (p : Bool),
    bits w 63 59 = 0x09 → s.strDesc t 2 c r w = some d → d.fmt = none → StreamCtx.head (s.eng t 2 c) = some (.data b p) → b.length = bits w 42 32 + 1 →
    (NextIs s t 2 c r w → w.getLsbD 51 = true → w.getLsbD 52 = false → s.tagsFree t 1 = true → d.loc = false → d.xm = false →
      lineAt d r w / 2 ^ 37 = 0x20001 → Gives (.multicastWrite t c) s fun u =>
        (u.eng t 2 c).queue = (s.eng t 2 c).queue.tail ∧ (u.eng t 2 c).run = some (ahead r) ∧ u.regs = s.regs ∧ u.mem = s.mem ∧
        ∃ k : Packet, u.net = s.net ++ [k] ∧ k.body = .wr (lineAt d r w % 2 ^ 25) b ∧ (k.head.mcg.map (·.group)) = some (bits w 11 0)) ∧
    (∀ df ds dl since, NextIs (s.vcbAge t since) t 2 c r w → w.getLsbD 51 = false → w.getLsbD 52 = true → bits w 42 32 < 64 →
      s.tagsFree t 1 = true → (s.vcbAge t since).vcbRoom t = true → breezeOk d (lineAt d r w) = true →
      s.way t d.loc d.xm (lineAt d r w) = .net df ds dl → Gives (.breezeTransfer t c since) s fun u =>
        (u.eng t 2 c).queue = (s.eng t 2 c).queue.tail ∧ (u.eng t 2 c).run = some (ahead r) ∧ u.regs = s.regs ∧ u.mem = s.mem ∧
        ∃ k : Packet, u.net = s.net ++ [k] ∧ k.body = .bzw (lineAt d r w) b ∧ k.head.dfield = df ∧ k.head.dsite = ds)) ∧
  (∀ (s : State) (t : Tile) (tag : BitVec 10) (data : List Byte) (fill : Bool) (e : Fin 3) (c : CtxNo) (g id ofs : Nat),
    tget none (s.tile t).txns tag.toNat = some (.entry e.val c.val g id ofs) →
    ((s.eng t e c).gen.toNat = g →
      Gives (.streamResponse t tag .done data fill) s (fun u =>
        (u.eng t e c).queue = (StreamCtx.part (s.eng t e c) id ofs (some (data, fill))).queue ∧ EnginesKept s u t e c ∧
        tget none (u.tile t).txns tag.toNat = none) ∧
      ∀ st, st ≠ .done → Gives (.streamResponse t tag st data fill) s fun u =>
        (u.eng t e c).queue = (StreamCtx.part (s.eng t e c) id ofs none).queue ∧ u.bit (strFlagsCa t) 3 = true ∧
        OthersKept s u (strFlagsCa t) ∧ tget none (u.tile t).txns tag.toNat = none) ∧
    ((s.eng t e c).gen.toNat ≠ g → Gives (.streamResponse t tag .done data fill) s fun u =>
      (u.eng t e c).queue = (s.eng t e c).queue ∧ (u.eng t e c).disc = min 255 ((s.eng t e c).disc + 1) ∧ u.bit (strFlagsCa t) 0 = true ∧
      OthersKept s u (strFlagsCa t))) ∧
  (∀ (s : State) (h : Head) (t : Tile) (b : Fin 2) (c : CtxNo) (units : BitVec 8) (g : Group) (m : Fin 16),
    AtTile s h (.mcCredit b.val c units.toNat) t → s.tagOk h t.field.val t.site.val = true → h.mcg = some g → g.member = some m →
    let k := creditKey (sin b) c g.group m.val
    Gives (.multicastCredit h b c units) s fun u => u.regs = s.regs ∧ u.mem = s.mem ∧
      tget 0 (u.tile t).mcCredit k = tget 0 (s.tile t).mcCredit k + 1 ∧ ∀ j ≠ k, tget 0 (u.tile t).mcCredit j = tget 0 (s.tile t).mcCredit j) ∧
  (∀ (s : State) (t : Tile) (e : Fin 3) (c : CtxNo) (prog par : Nat), s.clocked t.field.val = true → (s.eng t e c).run = none →
    (s.eng t e c).queued = some (prog, par) → Gives (.queuedProgramStart t e c) s fun u =>
      (u.eng t e c).run = some { prog := prog, ip := 0, par := par } ∧ (u.eng t e c).queued = none ∧ (u.eng t e c).cst = 0 ∧
      (u.eng t e c).queue = (s.eng t e c).queue ∧ EnginesKept s u t e c) ∧
  (∀ (s : State) (t : Tile) (b : Fin 2) (c : CtxNo) (ty : Byte) (rest : List Byte), (s.eng t (sin b) c).waiting = ty :: rest →
    StreamCtx.fits (s.eng t (sin b) c) 1 = true → Gives (.engineTokenPlace t b c) s fun u => EnginesKept s u t (sin b) c ∧
      ∃ k ≤ rest.length, (u.eng t (sin b) c).queue = (s.eng t (sin b) c).queue ++ ((ty :: rest).take (k + 1)).map (fun x => .ready (.token x)) ∧
        (u.eng t (sin b) c).waiting = rest.drop k) ∧
  (∀ (s : State) (t : Tile) (e : Fin 3) (c : CtxNo) (r : StreamRun), (s.eng t e c).run = some r →
    Gives (.waitnExpire t e c) s (Goes s t e c { r with sleep := false }))

/-- A request that a tile of a field that serves takes, with its network tag right, is answered to its sender. An RD of a scratchpad range that its domain's bounds admit, over sound words, answers DONE with the bytes, its line slots counted in SLOT_NET and every other register as it was; a WR or BZW of an admitted range that no LOAD claims writes its bytes and no others and answers DONE, a WR of a multicast giving its status to the tracker of its source station in place of an answer (R188); a range that is not admitted is answered ADDRERR, with SPD_FLAGS.BOUND set and no byte written (R149, R164, R176). A REGRD answers what a full-width read of its address gives, ADDRERR where nothing answers, and leaves the registers as that read does; a REGWR leaves them as a write to its address does and answers DONE where there is a register that answers (R22). A request with a wrong network tag changes no memory and no register but NET_FLAGS, in which it sets TAGMIS, records an event, and is answered TAGERR (R183). -/
def Obligations.RequestsAtATile : Prop :=
  ∀ (s : State) (h : Head) (t : Tile),
    (∀ (addr : DataAddr) (len : Fin 2049), readLenOk len.val = true →
      let off := addr.toNat % 2 ^ 25
      let b : Body := .rd addr.toNat len.val
      AtTile s h b t → h.mcg = none →
      (s.tagOk h t.field.val t.site.val = true → s.padAdmits t h off len.val = true → (∀ w ∈ wordsOf (padAddr t off) len.val, tget 0 s.ecc w = 0) →
        Gives (.rd h addr len) s fun u => Answers s u h b t.field.val t.site.val (.rdata .done (s.bytes (padAddr t off) len.val) false) ∧
          u.reg (slotNetCa t) = (s.slotNet t off len.val).reg (slotNetCa t) ∧ OthersKept s u (slotNetCa t)) ∧
      (s.tagOk h t.field.val t.site.val = true → s.padAdmits t h off len.val = false → Gives (.rd h addr len) s fun u =>
        Answers s u h b t.field.val t.site.val (.rdata .addrErr [] false) ∧ u.bit (spdFlagsCa t) 0 = true ∧ OthersKept s u (spdFlagsCa t)) ∧
      (s.tagOk h t.field.val t.site.val = false → Gives (.rd h addr len) s fun u =>
        Answers s u h b t.field.val t.site.val (.rdata .tagErr [] false) ∧ TagWrong s u t.field.val t.site.val)) ∧
    (∀ (addr : DataAddr) (d : List Byte), writeLenOk d = true →
      let off := addr.toNat % 2 ^ 25
      let b : Body := .wr addr.toNat d
      AtTile s h b t →
      (s.tagOk h t.field.val t.site.val = true → s.padAdmits t h off d.length = true → (∀ w ∈ wordsOf (padAddr t off) d.length, tget 0 s.ecc w < 2) →
        s.rind.load = none → Gives (.wr h addr d) s fun u => Written s u (padAddr t off) d ∧
          (h.mcg = none → Answers s u h b t.field.val t.site.val (.wack .done)) ∧
          (∀ g m, h.mcg = some g → g.member = some m → u.net = (s.takePacket h b).net ∧
            (u.fieldSt h.sfield).trackers = (s.memberDone h m .done |>.fieldSt h.sfield).trackers)) ∧
      (h.mcg = none → s.tagOk h t.field.val t.site.val = true → s.padAdmits t h off d.length = false → Gives (.wr h addr d) s fun u =>
        Answers s u h b t.field.val t.site.val (.wack .addrErr) ∧ u.bit (spdFlagsCa t) 0 = true ∧ OthersKept s u (spdFlagsCa t)) ∧
      (h.mcg = none → s.tagOk h t.field.val t.site.val = false → Gives (.wr h addr d) s fun u =>
        Answers s u h b t.field.val t.site.val (.wack .tagErr) ∧ TagWrong s u t.field.val t.site.val)) ∧
    (∀ (addr : DataAddr) (d : List Byte), breezeLenOk d = true →
      let off := addr.toNat % 2 ^ 25
      let b : Body := .bzw addr.toNat d
      AtTile s h b t → h.mcg = none →
      (s.tagOk h t.field.val t.site.val = true → s.padAdmits t h off d.length = true → (∀ w ∈ wordsOf (padAddr t off) d.length, tget 0 s.ecc w < 2) →
        s.rind.load = none →
        Gives (.bzw h addr d) s fun u => Answers s u h b t.field.val t.site.val (.bzack .done) ∧ Written s u (padAddr t off) d) ∧
      (s.tagOk h t.field.val t.site.val = true → s.padAdmits t h off d.length = false → Gives (.bzw h addr d) s fun u =>
        Answers s u h b t.field.val t.site.val (.bzack .addrErr) ∧ u.bit (spdFlagsCa t) 0 = true ∧ OthersKept s u (spdFlagsCa t)) ∧
      (s.tagOk h t.field.val t.site.val = false → Gives (.bzw h addr d) s fun u =>
        Answers s u h b t.field.val t.site.val (.bzack .tagErr) ∧ TagWrong s u t.field.val t.site.val)) ∧
    (∀ ca : Ca, AtTile s h (.regrd ca) t → h.mcg = none →
      let r := (opened s h (.regrd ca) t).controlRead ca.toNat true
      (s.tagOk h t.field.val t.site.val = true → Gives (.regrd h ca) s fun u =>
        (∃ p : Packet, u.net.getLast? = some p ∧ p.body = .rdata (if r.1 then .done else .addrErr) (toBytes 8 r.2.1.toNat) false ∧
          p.head.dfield = (if h.xm then t.field.val else h.sfield)) ∧ u.regs = r.2.2.regs ∧ u.mem = s.mem ∧
        (decodeCa ca.toNat = none → r.1 = false ∧ r.2.1 = BitVec.allOnes 64 ∧ u.regs = s.regs)) ∧
      (s.tagOk h t.field.val t.site.val = false → Gives (.regrd h ca) s fun u =>
        Answers s u h (.regrd ca) t.field.val t.site.val (.rdata .tagErr [] false) ∧ TagWrong s u t.field.val t.site.val)) ∧
    (∀ (ca : Ca) (v : Word), AtTile s h (.regwr ca v) t → h.mcg = none →
      (s.tagOk h t.field.val t.site.val = true → Gives (.regwr h ca v) s fun u =>
        u.regs = ((opened s h (.regwr ca v) t).controlWrite ca.toNat v).regs ∧
        ∃ p : Packet, u.net.getLast? = some p ∧ p.head.dfield = (if h.xm then t.field.val else h.sfield) ∧
          p.body = .wack (if (decodeCa ca.toNat).isSome && ((caParts ca.toNat).field == 0x3F || s.answers ca.toNat) then .done else .addrErr)) ∧
      (s.tagOk h t.field.val t.site.val = false → Gives (.regwr h ca v) s fun u =>
        Answers s u h (.regwr ca v) t.field.val t.site.val (.wack .tagErr) ∧ TagWrong s u t.field.val t.site.val))

/-- A response that a tile takes, with its network tag right, ends the transaction of its tag. Read data of the queue's present generation tag gives the place its part, and a part of a multicast read goes to the place that its member's queue reserves for its entry (R160, R162); a write's acknowledgement (WACK or BZACK) frees the tag, and a status other than DONE sets STR_FLAGS.BOUND; a CACR leaves the word in CMPV and the status in CST of the program that waits for it (R157, R161, R164). A token for a context that is not EMPTY, of its own job domain and with fewer than 16 waiting, joins its queue; one for an EMPTY context or a full queue is dropped with SEQ_FLAGS set (R97). Memory stays. -/
def Obligations.ResponsesAndTokensAtATile : Prop :=
  ∀ (s : State) (h : Head) (t : Tile), s.tagOk h t.field.val t.site.val = true →
    (∀ (data : List Byte) (fill : Bool), AtTile s h (.rdata .done data fill) t →
      (∀ (e : Fin 3) (c : CtxNo) (id ofs : Nat), h.mcg = none →
        tget none (s.tile t).txns h.tag = some (.entry e.val c.val (s.eng t e c).gen.toNat id ofs) →
        Gives (.rdata h .done data fill) s fun u => (u.eng t e c).queue = (StreamCtx.part (s.eng t e c) id ofs (some (data, fill))).queue ∧
          tget none (u.tile t).txns h.tag = none ∧ EnginesKept s u t e c) ∧
      (∀ (g : Group) (m : Fin 16), h.mcg = some g → g.member = some m →
        let k := s.member t.field g.group m.val
        (s.eng t k.eng k.ctx).gen = g.gen → (s.eng t k.eng k.ctx).queue.any (Place.isFor g) = true →
        Gives (.rdata h .done data fill) s fun u =>
          (u.eng t k.eng k.ctx).queue = partMulticast g (some (data, fill)) (s.eng t k.eng k.ctx).queue ∧ EnginesKept s u t k.eng k.ctx)) ∧
    (∀ (c : Nat) (st : NStatus), tget none (s.tile t).txns h.tag = some (.write c) →
      (AtTile s h (.wack st) t → Gives (.wack h st) s fun u => tget none (u.tile t).txns h.tag = none ∧ u.mem = s.mem ∧
        (st = .done → u.regs = s.regs) ∧ (st ≠ .done → u.bit (strFlagsCa t) 3 = true ∧ OthersKept s u (strFlagsCa t))) ∧
      (AtTile s h (.bzack st) t → Gives (.bzack h st) s fun u => tget none (u.tile t).txns h.tag = none ∧ u.mem = s.mem ∧
        (st = .done → u.regs = s.regs) ∧ (st ≠ .done → u.bit (strFlagsCa t) 3 = true ∧ OthersKept s u (strFlagsCa t)))) ∧
    (∀ (e : Fin 3) (c : CtxNo) (r : StreamRun) (cst : Fin 4) (v : Word), AtTile s h (.cacr .done cst.val v) t →
      tget none (s.tile t).txns h.tag = some (.cac e.val c.val) → (s.eng t e c).run = some r → r.cacTag = some h.tag →
      Gives (.cacr h .done cst v) s fun u => (u.eng t e c).run = some { r with cacTag := none, cmpv := v } ∧ (u.eng t e c).cst = cst.val ∧
        (u.eng t e c).queue = (s.eng t e c).queue ∧ tget none (u.tile t).txns h.tag = none ∧ EnginesKept s u t e c) ∧
    (∀ (c : CtxNo) (ty : Byte), AtTile s h (.tok c ty) t →
      ((s.ctx t c).state ≠ .empty → h.job = s.jobOf t c → (s.ctx t c).tokens.length < 16 → Gives (.tokenArrive h c ty) s fun u =>
        (u.ctx t c).tokens = (s.ctx t c).tokens ++ [ty] ∧ u.regs = s.regs ∧ u.mem = s.mem) ∧
      ((s.ctx t c).state = .empty ∨ (h.job = s.jobOf t c ∧ 16 ≤ (s.ctx t c).tokens.length) → Gives (.tokenArrive h c ty) s fun u =>
        (u.ctx t c).tokens = (s.ctx t c).tokens ∧ u.bit (seqFlagsCa t) 3 = true ∧ OthersKept s u (seqFlagsCa t)))

/-- A flit that its output grants goes one link on: the packet's other flits and every other packet stay, a head flit is then at the far end, and the link counts one flit more (R168, R180-R182). From a tile site a head flit goes to its field's station where the packet is for that field or NET_JETMASK has the destination's bit, and otherwise onto the mesh; at the station of its destination field a packet for a logical tile goes down to the site that holds it (R18, R168). A flit that has a credit does not go while one of a higher-priority VC that has one waits for the same output (R180). A request for a logical tile that no site holds is answered ADDRERR by the station, and it is gone (R18). A multicast packet at a station whose branches all have room and nothing before them is copied to each of them in one cycle (R187); with no branch it is gone; a write is tracked at its source station (R188). At its source station a packet whose group is not valid or is of another domain is stopped: NET_FLAGS.GRPMIS is set and an event gives the group, the domain and the kind (R189). When every member has completed, the source gets one WACK with the first status that is not DONE (R188). A path notice sets NET_JETMASK, whose own bit reads 1 (R179). Memory stays. -/
def Obligations.PacketsMoveAndMulticastsReplicate : Prop :=
  ∀ (s : State) (n : Nat) (p : Packet),
    (∀ m : FlitMove, Granted s n p m →
      Gives (.packetForward n m.k) s (fun u => u.mem = s.mem ∧ u.net.length = s.net.length ∧ (∀ i, i ≠ n → u.net[i]? = s.net[i]?) ∧
        (m.k = 0 → (u.net[n]?).map (·.loc) = some m.to_) ∧
        (tget {} u.links (linkKey m.from_ m.to_)).count = (tget {} s.links (linkKey m.from_ m.to_)).count + 1) ∧
      (∀ t : Tile, m.k = 0 → p.loc = .source → p.head.sfield = t.field.val → p.head.ssite = t.site.val → p.head.dfield < 48 → (∀ r, p.body ≠ .red r) →
        Gives (.packetForward n 0) s fun u => (u.net[n]?).map (·.loc) =
          some (if p.head.dfield = t.field.val ∨ s.bit (tileCa t 0x08 0x10) p.head.dfield = true then .station t.field.val else .mesh t.key)) ∧
      (∀ (f : FieldNo) (t : Tile), m.k = 0 → p.loc = .station f.val → p.head.dfield = f.val → p.head.dlog = true → s.siteOf f p.head.dsite = some t →
        (∀ r, p.body ≠ .red r) → Gives (.packetForward n 0) s fun u => (u.net[n]?).map (·.loc) = some (.site t.key))) ∧
    (∀ m o : FlitMove, s.net[n]? = some p → isReserved p.body = false → s.moveOf n p m.k = some m → (s.credit m.from_ m.to_ m.vc m.detour).isSome →
      o ∈ s.moves → FlitMove.rival m o = true → o.vc < m.vc → (s.credit o.from_ o.to_ o.vc o.detour).isSome →
      Gives (.packetForward n m.k) s fun u => u = s) ∧
    (∀ (f : FieldNo) (a : Body), AtStation s n p f → p.head.dfield = f.val → p.head.mcg = none → p.head.dlog = true → p.head.dsite < 40 →
      s.siteOf f p.head.dsite = none → answerOf .addrErr p.body = some a →
      Gives (.packetForward n 0) s fun u => Sent u (s.net.eraseIdx n) (s.replyHead p.head f.val 0x34) a ∧ u.regs = s.regs ∧ u.mem = s.mem) ∧
    (∀ (f : FieldNo) (g : Group), Fans s n p f g →
      (Packet.cameBy p f = none → s.groupOk f g p.head.job = false → Gives (.multicastReplicate n) s fun u =>
        u.bit (stationCa f 1 8) 6 = true ∧ u.mem = s.mem ∧
        ∃ ev : Event, u.events = s.events ++ [ev] ∧ ev.code = 0x04 ∧ ev.detail = BitVec.ofNat 64 (g.group + p.head.job.val <<< 12 + kindOf p.body <<< 16)) ∧
      ((Packet.cameBy p f = none → s.groupOk f g p.head.job = true ∧ (needsTracker p.body = true → (s.fieldSt f.val).trackers.length < 256)) →
        p.seq < s.netSeq →
        let bs := s.branches f p g
        s.fanRoom (.station f.val) (vcOf (kindOf p.body)) (bs.map (·.to_)) = true →
        (∀ b ∈ bs, s.branchReady n (.station f.val) (vcOf (kindOf p.body)) b.to_ true = true) →
        Gives (.multicastReplicate n) s fun u => u.mem = s.mem ∧
          (∀ b ∈ bs, ∃ q ∈ u.net, q.head = b.head ∧ q.body = p.body ∧ q.loc = b.to_) ∧
          (bs = [] → u.net = s.net.eraseIdx n) ∧
          (u.fieldSt f.val).trackers.length = (s.fieldSt f.val).trackers.length +
            if Packet.cameBy p f = none ∧ needsTracker p.body = true then 1 else 0)) ∧
    (∀ (f : FieldNo) (k : Tracker), (s.fieldSt f.val).trackers[n]? = some k → (∀ st ∈ k.status, st ≠ none) →
      Gives (.multicastWack f n) s fun u => Sent u s.net (s.replyHead k.head f.val 0x34) (.wack (firstBad k.status)) ∧
        (u.fieldSt f.val).trackers = (s.fieldSt f.val).trackers.eraseIdx n ∧ u.regs = s.regs ∧ u.mem = s.mem) ∧
    (∀ (t : Tile) (mask : BitVec 48), s.serves t.field.val = true → Comes s t.field.val t.site.val (.pathNotice mask) → Gives (.pathNotice t mask) s fun u =>
      u.fld (tileCa t 0x08 0x10) 47 0 = (mask ||| BitVec.ofNat 48 (1 <<< t.field.val)).toNat ∧ OthersKept s u (tileCa t 0x08 0x10))

/-- A flit that fails its CRC sets NET_FLAGS.REPLAY at its receiver; when it fails RETRYMAX times in a row, its INSERVICE link enters state FAILED with a link-failure event and the flit stays where it is; with fewer failures, or on a link without a JET_LINK entry, the flit goes over when it is good, as if it were forwarded after the failures are counted (R178, R179). A lane that reaches LTHRESH parity errors in a window has its bundle's free spare switched in where JET_CTL.AUTO = 1, with a new-defect event; where the spare is in use, there is the event alone; with AUTO = 0 and a free spare, neither (R173; the last is the model's reading, notes/assumptions/51). A write to JET_SPARECMD starts a switch and sets BUSY; it is rejected while BUSY is set, for a link that the station does not own and for a bundle whose spare is in use. Memory stays, but for what a flit's forwarding does. -/
def Obligations.LinksReplayAndSwitchLanes : Prop :=
  ∀ (s : State) (f : FieldNo) (l : Fin 27), s.serves f.val = true →
    (∀ (site : Option SiteNo) (fails : BitVec 8) (n k : Nat), fails ≠ 0 →
      let ca := netCa f.val (match site with | some t => t.val | none => 0x34) 8
      let seen := s.raise ca 7
      (s.fld (jetLinkCa f l.val) 2 0 = 2 → s.fld (stationCa f 0 0) 15 8 ≤ fails.toNat → Gives (.flitReplay f site (some l) fails n k) s fun u =>
        u.fld (jetLinkCa f l.val) 2 0 = 3 ∧ u.bit ca 7 = true ∧ u.mem = s.mem ∧ (∀ i < s.net.length, u.net[i]? = s.net[i]?) ∧
        ∃ ev ∈ u.events, ev.code = 0x0E ∧ ev.detail = BitVec.ofNat 64 (1 <<< 40 + l.val <<< 32)) ∧
      (∀ u, fails.toNat < s.fld (stationCa f 0 0) 15 8 ∨ s.fld (jetLinkCa f l.val) 2 0 ≠ 2 →
        exec (.packetForward n k) (seen.bumpSat (jetLinkCa f l.val) 63 32 fails.toNat) = .next u → exec (.flitReplay f site (some l) fails n k) s = .next u) ∧
      (∀ u, exec (.packetForward n k) seen = .next u → exec (.flitReplay f site none fails n k) s = .next u)) ∧
    (∀ (d : Bool) (b : Fin 195) (lane : Fin 17) (n : BitVec 16), ownsLink f l.val = true → b.val < linkBundles l.val → n ≠ 0 → lane.val < 16 →
      s.fld (stationCa f 0 0) 31 16 ≤ n.toNat → Gives (.laneParityThreshold f l d b lane n) s fun u => u.regs = s.regs ∧ u.mem = s.mem ∧
        (s.spareFree f l.val d b.val = true → s.bit (stationCa f 0 0) 0 = true →
          (u.fieldSt f.val).switches = (s.fieldSt f.val).switches ++ [⟨l.val, d, b.val, lane.val, false⟩] ∧
          ∃ ev : Event, u.events = s.events ++ [ev] ∧ ev.code = 0x0D) ∧
        (s.spareFree f l.val d b.val = true → s.bit (stationCa f 0 0) 0 = false →
          (u.fieldSt f.val).switches = (s.fieldSt f.val).switches ∧ u.events = s.events) ∧
        (s.spareFree f l.val d b.val = false →
          (u.fieldSt f.val).switches = (s.fieldSt f.val).switches ∧ ∃ ev : Event, u.events = s.events ++ [ev] ∧ ev.code = 0x0D)) ∧
    (∀ v : Word, s.rind.load = none →
      let k := bits v 44 40
      let b := bits v 37 30
      (s.bit (jetSparecmdCa f) 63 = false → ownsLink f k = true → b < linkBundles k → s.spareFree f k (v.getLsbD 39) b = true →
        Gives (.sparecmd (caOf (jetSparecmdCa f)) v) s fun u => u.bit (jetSparecmdCa f) 63 = true ∧ OthersKept s u (jetSparecmdCa f) ∧
          (u.fieldSt f.val).switches = (s.fieldSt f.val).switches ++ [⟨k, v.getLsbD 39, b, bits v 29 26, true⟩]) ∧
      (s.bit (jetSparecmdCa f) 63 = true ∨ ownsLink f k = false ∨ linkBundles k ≤ b ∨ s.spareFree f k (v.getLsbD 39) b = false →
        Gives (.sparecmd (caOf (jetSparecmdCa f)) v) s fun u => Rejected s u (jetSparecmdCa f)))

/-- A reduction packet that reaches a router or station of its tree with its network tag right takes its chunk's slot, or is combined there: the counts are added modulo 2^13, and with one anchor and one chunk each lane is the exact sum, saturated at 2^95 - 1 in magnitude with OV, poison if either is, with the flags ORed; with two anchors or two chunks every lane is poison with PZ, and NET_FLAGS has MIXQ or LATE; a lane whose adder fails its residue check is poison, with NET_FLAGS.RESID and an event (R190-R193). Without a valid entry of its job domain it is dropped, with NET_FLAGS.TREEMIS (R195). A complete slot's result goes to the parent for one credit, or to the root's sink or engine; the slot is freed and each child gets a credit (R192, R193). A credit raises the count up to 16. A root's result goes to its update unit, its ring or the field's engine; one whose count is not LEAVES is poison in every lane, with NET_FLAGS.CNTERR (R194). Memory stays but for a ring. -/
def Obligations.ReductionTreesCombineAndSend : Prop :=
  ∀ (s : State),
    (∀ (h : Head) (r : RedBody), AtTreeNode s h r →
      let flags := netCa h.dfield h.dsite 8
      (∀ e, s.redEntry h.dfield h.dsite r.tree = some e → e.job = h.job.val →
        let key := e.base + r.chunk % 2 ^ e.winl
        let slot (u : State) := u.redSlot h.dfield h.dsite key
        (slot s = none → Gives (.red h r []) s fun u => u.mem = s.mem ∧ (h.dsite < 42 → u.regs = s.regs) ∧
          ∃ x : RedSlot, slot u = some x ∧ x.chunk = r.chunk ∧ x.got = 1 ∧ x.body = r ∧ x.job = h.job) ∧
        (∀ x : RedSlot, slot s = some x → x.chunk = r.chunk → x.body.q = r.q →
          Gives (.red h r []) s (fun u => u.mem = s.mem ∧ (h.dsite < 42 → u.regs = s.regs) ∧ ∃ y : RedSlot, slot u = some y ∧ y.got = x.got + 1 ∧
            y.body.cnt = (x.body.cnt + r.cnt) % 8192 ∧ ∀ j < 10, LaneSum (laneOf x.body j) (laneOf r j) (laneOf y.body j)) ∧
          ∀ resid : List (Fin 10), resid ≠ [] → Gives (.red h r resid) s fun u => u.mem = s.mem ∧ u.bit flags 0 = true ∧
            (∃ ev : Event, u.events = s.events ++ [ev] ∧ ev.code = 0x07 ∧ ev.detail = BitVec.ofNat 64 r.tree) ∧
            ∃ y : RedSlot, slot u = some y ∧ y.got = x.got + 1 ∧
              ∀ j : Fin 10, (j ∈ resid → LaneBad y.body j.val) ∧ (j ∉ resid → LaneSum (laneOf x.body j.val) (laneOf r j.val) (laneOf y.body j.val))) ∧
        (∀ x : RedSlot, slot s = some x → x.chunk ≠ r.chunk ∨ x.body.q ≠ r.q → Gives (.red h r []) s fun u => u.mem = s.mem ∧
          (x.chunk ≠ r.chunk → u.bit flags 5 = true) ∧ (x.body.q ≠ r.q → u.bit flags 1 = true) ∧
          ∃ y : RedSlot, slot u = some y ∧ y.got = x.got + 1 ∧ y.body.cnt = (x.body.cnt + r.cnt) % 8192 ∧ ∀ j < 10, LaneBad y.body j)) ∧
      ((∀ e, s.redEntry h.dfield h.dsite r.tree = some e → e.job ≠ h.job.val) → Gives (.red h r []) s fun u =>
        u.bit flags 3 = true ∧ OthersKept s u flags ∧ ∀ key, u.redSlot h.dfield h.dsite key = s.redSlot h.dfield h.dsite key)) ∧
    (∀ (f : FieldNo) (site : Option SiteNo) (tree : BitVec 12) (slot : Fin 16) (e : RedEntry) (x : RedSlot),
      s.redEntry f.val (nodeSite site) tree.toNat = some e → s.redSlot f.val (nodeSite site) (e.base + slot.val) = some x → e.nin ≤ x.got →
      (e.parent.isSome = true ∨ e.engine = true → s.redCredit f.val (nodeSite site) e ≠ 0) →
      Gives (.reductionResultSend f site tree slot) s fun u => u.mem = s.mem ∧ u.redSlot f.val (nodeSite site) (e.base + slot.val) = none ∧
        (e.parent.isSome = true ∨ e.engine = true → u.redCredit f.val (nodeSite site) e = s.redCredit f.val (nodeSite site) e - 1) ∧
        (∀ pf ps, e.parent = some (pf, ps) → ∃ q ∈ u.net, q.body = .red x.body ∧ q.head.dfield = pf ∧ q.head.dsite = ps ∧ q.head.job = x.job) ∧
        (e.parent = none → (u.fieldSt f.val).rootOut = (s.fieldSt f.val).rootOut ++ [(x.body.tree, x.job, x.body)]) ∧
        (∀ k, some (Node.site k) ∈ x.kids → ∃ q ∈ u.net, q.body = .redCredit x.body.tree ∧ q.head.dfield = k / 42 ∧ q.head.dsite = k % 42) ∧
        ∀ g, some (Node.station g) ∈ x.kids → ∃ q ∈ u.net, q.body = .redCredit x.body.tree ∧ q.head.dfield = g ∧ q.head.dsite = 0x34) ∧
    (∀ (f : FieldNo) (site : Option SiteNo) (tree : BitVec 12) (e : RedEntry), Comes s f.val (nodeSite site) (.redCredit tree.toNat) →
      s.redEntry f.val (nodeSite site) tree.toNat = some e → Gives (.reductionCredit f site tree) s fun u => u.mem = s.mem ∧
        u.redCredit f.val (nodeSite site) e = min 16 (s.redCredit f.val (nodeSite site) e + 1) ∧
        ∀ key, u.redSlot f.val (nodeSite site) key = s.redSlot f.val (nodeSite site) key) ∧
    (∀ (f : FieldNo) (n k : Nat) (job : JobNo) (r : RedBody), (s.fieldSt f.val).rootOut[n]? = some (k, job, r) →
      let w0 := s.reg (rtreeCa f k 0)
      let w1 := s.reg (rtreeCa f k 1)
      let off := 512 * bits w1 63 48 + 128 * (r.chunk % bits w1 47 32)
      (∀ t, bits w0 26 25 = 1 → s.siteOf f (bits w0 24 19) = some t →
        (r.cnt = bits w0 39 27 → Gives (.rootSink f n) s fun u => u.regs = s.regs ∧ u.mem = s.mem ∧
          (u.fieldSt f.val).rootOut = (s.fieldSt f.val).rootOut.eraseIdx n ∧ (u.tile t).sinkIn = (s.tile t).sinkIn ++ [(job, r)]) ∧
        (r.cnt ≠ bits w0 39 27 → Gives (.rootSink f n) s fun u => u.mem = s.mem ∧ u.bit (stationCa f 1 8) 4 = true ∧
          ∃ q : RedBody, (u.tile t).sinkIn = (s.tile t).sinkIn ++ [(job, q)] ∧ ∀ j < 10, LaneBad q j)) ∧
      (∀ t, bits w0 26 25 = 0 → s.siteOf f (bits w0 24 19) = some t → r.cnt = bits w0 39 27 → PadFor s t job.val off 128 →
        Gives (.rootSink f n) s fun u => Written s u (padAddr t off) (redPayload r) ∧ (∀ cb ≠ slotNetCa t, u.reg cb = s.reg cb) ∧
          (w1.getLsbD 31 = true → ∃ q ∈ u.net, q.body = .tok (Fin.ofNat 4 (bits w1 29 28)) (BitVec.ofNat 8 (bits w1 27 20)) ∧
            q.head.dfield = t.field.val ∧ q.head.dsite = t.site.val)) ∧
      (bits w0 26 25 = 2 → r.cnt = bits w0 39 27 → Gives (.rootSink f n) s fun u => u.regs = s.regs ∧ u.mem = s.mem ∧
        Sent u s.net (s.nodeHead job f.val 0x34 f.val 0x33) (.red r)))

/-- For an access within one line that the Vat accepts and whose page is in the translation cache, mapped for its job domain and cached: a read of a line held without error answers DONE with its bytes, to its requester or its group; a write of a line held in E or M leaves it in M with the bytes and the sectors dirty and answers DONE; a compare-and-count of one does its operation on the word and answers with the word before (R209, R212); a read of a line not held joins the accesses that wait for a miss entry (R210). Where the page is not mapped, or not for the job domain, the answer is ADDRERR with VAT_FLAGS and an event (R206); an uncached access goes to the page's home (R207); a page with no translation is asked of the Rind (R205). A miss entry that the Vat-fill arbiter has granted asks the home READS for a read or touch and READX for a write or compare-and-count. Data for a set with an empty way installs its line and serves the read that waits; UpgAck makes the line M and performs the write that waits. FwdS leaves a sound line S and clean, FwdX and Inv drop it, and each is answered, the requester with the line's bytes; PutAck frees the write-back buffer (R211, R218). Memory stays. -/
def Obligations.AVatServesAccessesAndForwards : Prop :=
  ∀ (s : State) (f : FieldNo),
    (∀ (h : Head) (addr : BitVec 54) (len : Fin 2049) (pte : Word), 0 < len.val → addr.toNat % 512 + len.val ≤ 512 →
      VatReady s f (addr.toNat / 2 ^ 21) pte → s.vatTakes f addr.toNat (.rd addr.toNat len.val) = true →
      (∀ key l, PageFor pte h.job → LineFree s f (addr.toNat / 512) → Vat.find (s.vat f) (addr.toNat / 512) = some (key, l) → l.errs = [] → l.bytes.length = 512 →
        Gives (.vatRead f h addr len) s fun u => Sent u s.net (readHead s f h) (.rdata .done ((l.bytes.drop (addr.toNat % 512)).take len.val) false) ∧
          (u.vat f).lines = (s.vat f).lines ∧ u.mem = s.mem) ∧
      (PageFor pte h.job → LineFree s f (addr.toNat / 512) → Vat.find (s.vat f) (addr.toNat / 512) = none →
        Gives (.vatRead f h addr len) s fun u => (u.vat f).pend.length = (s.vat f).pend.length + 1 ∧ u.net = s.net ∧ u.mem = s.mem) ∧
      (pteMapped pte = false → Gives (.vatRead f h addr len) s fun u => Sent u s.net (readHead s f h) (.rdata .addrErr [] false) ∧
        u.bit (vatFlagsCa f) 3 = true ∧ OthersKept s u (vatFlagsCa f) ∧ Logs s u 0x05 addr.toNat) ∧
      (pteMapped pte = true → pte.getLsbD 59 = false → pteJob pte h.job = false → Gives (.vatRead f h addr len) s fun u =>
        Sent u s.net (readHead s f h) (.rdata .addrErr [] false) ∧ u.bit (vatFlagsCa f) 4 = true ∧ OthersKept s u (vatFlagsCa f) ∧ Logs s u 0x05 addr.toNat) ∧
      (pteMapped pte = true → pte.getLsbD 59 = true → Gives (.vatRead f h addr len) s fun u => u.regs = s.regs ∧ u.mem = s.mem ∧
        ∃ q : Packet, u.net = s.net ++ [q] ∧ q.body = .rd addr.toNat len.val ∧ (q.head.dfield, q.head.dsite) = homeOf pte)) ∧
    (∀ (h : Head) (addr : BitVec 54) (len : Fin 2049), 0 < len.val → addr.toNat % 512 + len.val ≤ 512 → s.clocked f.val = true →
      s.vatTakes f addr.toNat (.rd addr.toNat len.val) = true →
      (s.vat f).asked.contains (addr.toNat / 2 ^ 21) = false → tcGet (s.vat f).tcache (addr.toNat / 2 ^ 21) = none →
      Gives (.vatRead f h addr len) s fun u => u.mem = s.mem ∧ (u.vat f).held.length = (s.vat f).held.length + 1 ∧
        ∃ q : Packet, u.net = s.net ++ [q] ∧ q.body = .cohq .xlat { line := addr.toNat / 2 ^ 21, rqtag := (s.vat f).tag, rqf := f.val } ∧ q.head.dfield = 0x3C) ∧
    (∀ (h : Head) (addr : BitVec 54) (pte : Word) (key : Nat) (l : VatLine),
      VatReady s f (addr.toNat / 2 ^ 21) pte → PageFor pte h.job → LineFree s f (addr.toNat / 512) →
      Vat.find (s.vat f) (addr.toNat / 512) = some (key, l) → l.st = .e ∨ l.st = .m → l.errs = [] →
      (∀ d : List Byte, 0 < d.length → addr.toNat % 512 + d.length ≤ 512 → s.vatTakes f addr.toNat (.wr addr.toNat d) = true →
        Gives (.vatWrite f h addr d none) s fun u => Sent u s.net (s.replyHead h f.val 0x31) (.wack .done) ∧ u.mem = s.mem ∧
          ∃ n : VatLine, tget none (u.vat f).lines key = some n ∧ n.line = l.line ∧ n.st = .m ∧
            n.bytes = overwrite l.bytes (addr.toNat % 512) d ∧ n.dirty = l.dirty ||| sectorMask (addr.toNat % 512) d.length) ∧
      (∀ (op imm : Nat) (who : Requester) (o : CacOp), cacOpOf op = some o → addr.toNat % 8 = 0 → s.vatTakes f addr.toNat (.cac addr.toNat op imm who) = true →
        let w : Word := BitVec.ofNat 64 (ofBytes ((l.bytes.drop (addr.toNat % 512)).take 8))
        let r := cacStep o imm w who fun n => s.fld (eptabCa ⟨f, 0⟩ n) 15 0
        Gives (.vatWrite f h addr [] (some (op, imm, who))) s fun u => Sent u s.net (s.replyHead h f.val 0x31) (.cacr .done r.2 w) ∧ u.mem = s.mem ∧
          ∃ n : VatLine, tget none (u.vat f).lines key = some n ∧ n.line = l.line ∧ n.st = .m ∧
            n.bytes = if r.1 = w then l.bytes else overwrite l.bytes (addr.toNat % 512) (toBytes 8 r.1.toNat))) ∧
    (∀ (who : Fin 3) (a : VatAccess) (rest : List VatAccess) (pte : Word), (s.vat f).pend = a :: rest → fillClass a.op = who.val →
      0 < (s.arb (arbBase (.vat f))).grants.getD who.val 0 → Vat.missOf (s.vat f) (a.addr / 512) = none →
      tcGet (s.vat f).tcache (a.addr / 2 ^ 21) = some pte → PageFor pte a.job → (s.vat f).miss.length < 256 →
      Vat.find (s.vat f) (a.addr / 512) = none → Gives (.missAllocate f who) s fun u => u.regs = s.regs ∧ u.mem = s.mem ∧
        (u.vat f).pend = rest ∧ (u.vat f).miss = (s.vat f).miss ++ [⟨a.addr / 512, [a], none, .data, pte⟩] ∧
        ∃ q : Packet, u.net = s.net ++ [q] ∧ (q.head.dfield, q.head.dsite) = homeOf pte ∧
          q.body = .cohq (if VatOp.exclusive a.op then .readX else .readS) { line := a.addr / 512, rqtag := (s.vat f).tag, rqf := f.val }) ∧
    (∀ (h : Head) (b : CohBody),
      (∀ (m : Miss) (a : VatAccess) (len key : Nat), VatTakes s f h .data b → h.dfield ≠ 0x3C → Vat.missOf (s.vat f) b.line = some m → m.accs = [a] →
        a.op = .read len → m.fwd = none → b.st = .done → Vat.find (s.vat f) b.line = none → Vat.place (s.vat f) (vatSet b.line) = some key →
        tget none (s.vat f).lines key = none →
        Gives (.data f h b) s fun u => u.mem = s.mem ∧ (u.vat f).miss = (s.vat f).miss.filter (fun x => x.line != b.line) ∧
          tget none (u.vat f).lines key = some ⟨b.line, b.grant, b.smask, b.bytes.getD (List.replicate 512 0), [], m.pte⟩) ∧
      (∀ (m : Miss) (a : VatAccess) (d : List Byte) (key : Nat) (l : VatLine), VatTakes s f h .upgAck b → Vat.missOf (s.vat f) b.line = some m →
        m.accs = [a] → a.op = .write d → m.fwd = none → Vat.find (s.vat f) b.line = some (key, l) → l.errs = [] →
        Gives (.upgack f h b) s fun u => u.regs = s.regs ∧ u.mem = s.mem ∧ (u.vat f).miss = (s.vat f).miss.filter (fun x => x.line != b.line) ∧
          ∃ n : VatLine, tget none (u.vat f).lines key = some n ∧ n.line = l.line ∧ n.st = .m ∧ n.bytes = overwrite l.bytes (a.addr % 512) d) ∧
      (∀ (key : Nat) (l : VatLine), Vat.find (s.vat f) b.line = some (key, l) → Vat.missOf (s.vat f) b.line = none → l.errs = [] →
        (VatTakes s f h .fwdS b → Gives (.fwds f h b) s fun u => u.mem = s.mem ∧ tget none (u.vat f).lines key = some { l with st := .s, dirty := 0 } ∧
          (∃ p ∈ u.net, ∃ x : CohBody, p.body = .cohp .fwdAck x ∧ x.line = l.line ∧ x.keep = true ∧ (p.head.dfield, p.head.dsite) = homeOf l.pte ∧
            (b.rqf = 0x3C → x.bytes = some l.bytes)) ∧
          (b.rqf ≠ 0x3C → ∃ p ∈ u.net, ∃ y : CohBody, p.body = .cohp .data y ∧ y.bytes = some l.bytes ∧ y.grant = .s ∧ p.head.dfield = b.rqf)) ∧
        (VatTakes s f h .fwdX b → Gives (.fwdx f h b) s fun u => u.mem = s.mem ∧ tget none (u.vat f).lines key = none ∧
          (∃ p ∈ u.net, ∃ x : CohBody, p.body = .cohp .fwdAck x ∧ x.line = l.line ∧ x.keep = false ∧ (p.head.dfield, p.head.dsite) = homeOf l.pte ∧
            (b.rqf = 0x3C → x.bytes = some l.bytes)) ∧
          (b.rqf ≠ 0x3C → ∃ p ∈ u.net, ∃ y : CohBody, p.body = .cohp .data y ∧ y.bytes = some l.bytes ∧ y.grant = .m ∧ p.head.dfield = b.rqf)) ∧
        (VatTakes s f h .inv b → Gives (.inv f h b) s fun u => u.mem = s.mem ∧ tget none (u.vat f).lines key = none ∧
          ∃ p ∈ u.net, p.body = .cohp .invAck { line := b.line, rqf := f.val, rqtag := b.rqtag } ∧ p.head.dfield = h.sfield ∧ p.head.dsite = h.ssite)) ∧
      (VatTakes s f h .putAck b → (∀ m ∈ (s.vat f).miss, m.wait ≠ .room ∧ ∀ x, m.wait ≠ .victim x) → Gives (.putack f h b) s fun u =>
        (u.vat f).wb = (s.vat f).wb.eraseP (fun l => l.line == b.line) ∧ (u.vat f).lines = (s.vat f).lines ∧ u.regs = s.regs ∧ u.mem = s.mem))

/-- A flush passes its next set when the write-back buffers have room for the lines it takes and none of them has a miss entry: the lines of the set (of the page, for one page) leave the Vat for the buffers, and each is Put (R208, R211, R213). When every set has passed, BUSY clears. TINV drops the translation of its page and is answered TINVAck (R205). XLATR at a Vat puts its entry in the translation cache (an invalid one unless its status is DONE) and the Vat asks no more (R205). Memory stays. -/
def Obligations.AVatFlushesAndTranslates : Prop :=
  ∀ (s : State) (f : FieldNo),
    (∀ fl : Flush, (s.vat f).flush = some fl → fl.set < 4096 → (s.vat f).wb.length + (Vat.flushKeys (s.vat f) fl.set fl.page).length ≤ 32 →
      (∀ k ∈ Vat.flushKeys (s.vat f) fl.set fl.page, ∀ l, tget none (s.vat f).lines k = some l → Vat.missOf (s.vat f) l.line = none) →
      (fl.page = none → Gives (.flushAll f) s fun u => u.mem = s.mem ∧ (u.vat f).flush = some { fl with set := fl.set + 1 } ∧
        (∀ w < 16, tget none (u.vat f).lines (16 * fl.set + w) = none) ∧
        (u.vat f).wb.length = (s.vat f).wb.length + (Vat.flushKeys (s.vat f) fl.set none).length ∧
        u.net.length = s.net.length + (Vat.flushKeys (s.vat f) fl.set none).length) ∧
      (∀ p, fl.page = some p → Gives (.flushPage f) s fun u => u.mem = s.mem ∧ (u.vat f).flush = some { fl with set := fl.set + 1 } ∧
        (∀ w < 16, ∀ l, tget none (s.vat f).lines (16 * fl.set + w) = some l →
          tget none (u.vat f).lines (16 * fl.set + w) = if l.line / 4096 = p then none else some l) ∧
        (u.vat f).wb.length = (s.vat f).wb.length + (Vat.flushKeys (s.vat f) fl.set (some p)).length ∧
        u.net.length = s.net.length + (Vat.flushKeys (s.vat f) fl.set (some p)).length)) ∧
    (∀ fl : Flush, (s.vat f).flush = some fl → 4096 ≤ fl.set → Gives (.flushDone f) s fun u =>
      (u.vat f).flush = none ∧ u.bit (vatCa f 0 0) 63 = false ∧ (u.vat f).lines = (s.vat f).lines ∧ OthersKept s u (vatCa f 0 0)) ∧
    (∀ (h : Head) (b : CohBody), VatTakes s f h .tinv b →
      Gives (.tinv f h b) s fun u => tcGet (u.vat f).tcache b.line = none ∧ (u.vat f).lines = (s.vat f).lines ∧ u.regs = s.regs ∧ u.mem = s.mem ∧
        ∃ p ∈ u.net, p.body = .cohp .tinvAck { line := b.line, rqf := f.val } ∧ p.head.dfield = h.sfield ∧ p.head.dsite = h.ssite) ∧
    (∀ (h : Head) (b : CohBody), s.endpoint h (.cohp .xlatR b) = some (.spine f 0x31) → s.takes f (.cohp .xlatR b) = true →
      s.rind.power.stopped.contains f.val = false → VatTakes s f h .xlatR b →
      (∀ a ∈ (s.vat f).held, a.addr / 2 ^ 21 ≠ b.line) → (∀ m ∈ (s.vat f).miss, m.wait ≠ .xlat) →
      Gives (.xlatr h b) s fun u => tcGet (u.vat f).tcache b.line = some (if b.st = .done then b.pte else 0) ∧
        (u.vat f).asked = (s.vat f).asked.erase b.line ∧ (u.vat f).lines = (s.vat f).lines ∧ u.regs = s.regs ∧ u.mem = s.mem)

/-- At a READY cellar's home with no request waiting and no page under recall, for a line without a transaction, with a slot free and room in the directory: ReadS and ReadX of a line nobody holds, ReadS of a shared line and ReadX of a line its requester alone shares wait for the line's memory read; ReadX of a line that others share, and Upgrade of one, send them Inv; ReadS of a line in E or M sends FwdS to its owner and ReadX FwdX; Upgrade of a line its requester alone shares grants M without data (R215-R217). When the cellar's port has read the line, its requester gets Data with the bytes, E for a ReadS that finds the line not shared, S for one that finds it shared, M for a ReadX, and the directory records it (R198, R217). A current Put removes its sender and any Put is answered PutAck; the dirty sectors of a current PutM wait for the port, which writes them and no other byte (R198, R219). An InvAck counts; the last one, or the FwdAck, lets its transaction go on or end. PREC of a page without entries is answered PRECAck; with END it ends the recall (R222). The home of a FREEZING field recalls its entries, and a home whose set is full for a waiting request recalls the set's oldest (R215, R385). A grant of telemetry leaves registers and memory alone (R199). -/
def Obligations.AHomeServesItsDirectory : Prop :=
  (∀ (s : State) (f : FieldNo) (h : Head) (b : CohBody), h.sfield < 48 → HomeCalm s f → LineIdle s f b.line →
    (AtHome s f h (.cohq .readS b) →
      (Home.entry (s.home f.val) b.line = none → Gives (.reads h b) s fun u => ReadAsked s u f b.line h.pte) ∧
      (∀ e m, Home.entry (s.home f.val) b.line = some e → e.st = .shared m → Gives (.reads h b) s fun u => ReadAsked s u f b.line e.pte) ∧
      (∀ e o, Home.entry (s.home f.val) b.line = some e → e.st = .owned o → Gives (.reads h b) s fun u => u.mem = s.mem ∧
        ToVat u o .fwdS { line := b.line, rqf := h.sfield, rqtag := b.rqtag } ∧
        ∃ t : HomeTxn, (u.home f.val).slots = (s.home f.val).slots ++ [t] ∧ t.line = b.line ∧ t.wait = .fwd o false)) ∧
    (AtHome s f h (.cohq .readX b) →
      (Home.entry (s.home f.val) b.line = none → Gives (.readx h b) s fun u => ReadAsked s u f b.line h.pte) ∧
      (∀ e m, Home.entry (s.home f.val) b.line = some e → e.st = .shared m →
        let vs := (vatsOf m).filter (· != h.sfield)
        (vs = [] → Gives (.readx h b) s fun u => ReadAsked s u f b.line e.pte) ∧
        (vs ≠ [] → Gives (.readx h b) s fun u => u.mem = s.mem ∧ (∀ v ∈ vs, ToVat u v .inv { line := b.line }) ∧
          ∃ t : HomeTxn, (u.home f.val).slots = (s.home f.val).slots ++ [t] ∧ t.line = b.line ∧ t.wait = .acks vs)) ∧
      (∀ e o, Home.entry (s.home f.val) b.line = some e → e.st = .owned o → Gives (.readx h b) s fun u => u.mem = s.mem ∧
        ToVat u o .fwdX { line := b.line, rqf := h.sfield, rqtag := b.rqtag } ∧
        ∃ t : HomeTxn, (u.home f.val).slots = (s.home f.val).slots ++ [t] ∧ t.line = b.line ∧ t.wait = .fwd o true)) ∧
    (AtHome s f h (.cohq .upgrade b) → ∀ e m, Home.entry (s.home f.val) b.line = some e → e.st = .shared m → m.getLsbD h.sfield = true →
      let vs := (vatsOf m).filter (· != h.sfield)
      (vs = [] → Gives (.upgrade h b) s fun u => u.mem = s.mem ∧ Home.stOf (u.home f.val) b.line = some (.owned h.sfield) ∧
        ToVat u h.sfield .upgAck { line := b.line, grant := .m, rqtag := b.rqtag }) ∧
      (vs ≠ [] → Gives (.upgrade h b) s fun u => u.mem = s.mem ∧ (∀ v ∈ vs, ToVat u v .inv { line := b.line }) ∧
        ∃ t : HomeTxn, (u.home f.val).slots = (s.home f.val).slots ++ [t] ∧ t.line = b.line ∧ t.wait = .acks vs))) ∧
  (∀ (s : State) (f : FieldNo) (who : Fin 5) (o : CelOp) (crc : Nat) (bad : BitVec 8), who ≠ 4 → crc < 5 →
    (∀ (t : HomeTxn) (k : CohReq) (q : CohBody), ReadGrant s f who.val o (.txn t.line) → HomeCalm s f → (s.home f.val).slots = [t] → t.wait = .mem →
      t.req = .coh k q → t.head.sfield < 48 →
      let d := s.bytes (cellarAddr f.val o.off) o.len
      (k = .readS → Gives (.cellarAccess f who crc bad []) s fun u => u.mem = s.mem ∧ (u.home f.val).slots = [] ∧ (u.fieldSt f.val).cellar.out = d ∧
        (∀ m, Home.stOf (s.home f.val) t.line = some (.shared m) →
          DataSent u t.head t.line q.rqtag .s d ∧ Home.stOf (u.home f.val) t.line = some (.shared (m ||| one t.head.sfield))) ∧
        ((∀ m, Home.stOf (s.home f.val) t.line ≠ some (.shared m)) →
          DataSent u t.head t.line q.rqtag .e d ∧ Home.stOf (u.home f.val) t.line = some (.owned t.head.sfield))) ∧
      (k = .readX → Gives (.cellarAccess f who crc bad []) s fun u => u.mem = s.mem ∧ (u.home f.val).slots = [] ∧ (u.fieldSt f.val).cellar.out = d ∧
        DataSent u t.head t.line q.rqtag .m d ∧ Home.stOf (u.home f.val) t.line = some (.owned t.head.sfield))) ∧
    (∀ d : List Byte, PortGrant s f who.val o → o.write = some d → d.length = 512 → o.len = 512 → o.off % 512 = 0 → o.use = .posted →
      Gives (.cellarAccess f who crc bad []) s fun u =>
        (∀ i < 512, u.byte (cellarAddr f.val o.off + i) = if o.mask.getLsbD (i / 64) then d.getD i 0 else s.byte (cellarAddr f.val o.off + i)) ∧
        (∀ a, (a < cellarAddr f.val o.off ∨ cellarAddr f.val o.off + 512 ≤ a) → u.byte a = s.byte a) ∧
        (u.fieldSt f.val).cellar.ops = (s.fieldSt f.val).cellar.ops.erase o)) ∧
  (∀ (s : State) (f : FieldNo) (crc : Nat) (bad : BitVec 8) (upsets : List (Fin 64 × Fin 3)), s.cellarReady f = true →
    0 < (s.arb (arbBase (.cellar f))).grants.getD 4 0 → Gives (.cellarAccess f 4 crc bad upsets) s fun u => u.regs = s.regs ∧ u.mem = s.mem ∧ u.ecc = s.ecc) ∧
  (∀ (s : State) (f : FieldNo) (h : Head) (b : CohBody), HomeCalm s f → h.sfield < 48 →
    (∀ k : CohReq, AtHome s f h (.cohq k b) → Home.putCurrent (s.home f.val) b.line h.sfield k = false →
      (k = .putM → Gives (.putm h b) s fun u => (u.home f.val).dir = (s.home f.val).dir ∧ u.regs = s.regs ∧ u.mem = s.mem ∧
        ToVat u h.sfield .putAck { line := b.line, rqtag := b.rqtag }) ∧
      (k = .putE → Gives (.pute h b) s fun u => (u.home f.val).dir = (s.home f.val).dir ∧ u.regs = s.regs ∧ u.mem = s.mem ∧
        ToVat u h.sfield .putAck { line := b.line, rqtag := b.rqtag }) ∧
      (k = .putS → Gives (.puts h b) s fun u => (u.home f.val).dir = (s.home f.val).dir ∧ u.regs = s.regs ∧ u.mem = s.mem ∧
        ToVat u h.sfield .putAck { line := b.line, rqtag := b.rqtag })) ∧
    ((s.home f.val).slots = [] →
      (Home.stOf (s.home f.val) b.line = some (.owned h.sfield) →
        (AtHome s f h (.cohq .putE b) → Gives (.pute h b) s fun u => Home.stOf (u.home f.val) b.line = none ∧ u.regs = s.regs ∧ u.mem = s.mem ∧
          ToVat u h.sfield .putAck { line := b.line, rqtag := b.rqtag }) ∧
        (∀ d, b.bytes = some d → AtHome s f h (.cohq .putM b) → Gives (.putm h b) s fun u => Home.stOf (u.home f.val) b.line = none ∧
          u.regs = s.regs ∧ u.mem = s.mem ∧ ToVat u h.sfield .putAck { line := b.line, rqtag := b.rqtag } ∧
          (b.smask ≠ 0 → (u.fieldSt f.val).cellar.ops = (s.fieldSt f.val).cellar.ops ++
            [⟨1, frameAddr h.pte (512 * b.line), 512, some d, b.smask, .posted⟩]))) ∧
      (∀ m, Home.stOf (s.home f.val) b.line = some (.shared m) → m.getLsbD h.sfield = true → AtHome s f h (.cohq .putS b) →
        Gives (.puts h b) s fun u => u.regs = s.regs ∧ u.mem = s.mem ∧ ToVat u h.sfield .putAck { line := b.line, rqtag := b.rqtag } ∧
          Home.stOf (u.home f.val) b.line = if m &&& ~~~(one h.sfield) = 0 then none else some (.shared (m &&& ~~~(one h.sfield))))) ∧
    (∀ t : HomeTxn, (s.home f.val).slots = [t] → t.line = b.line → t.head.sfield < 48 →
      (AtHome s f h (.cohp .invAck b) → ∀ vs, t.wait = .acks vs → b.rqf ∈ vs →
        (vs.erase b.rqf ≠ [] → Gives (.invack h b) s fun u => u.regs = s.regs ∧ u.mem = s.mem ∧
          (u.home f.val).slots = [{ t with wait := .acks (vs.erase b.rqf) }]) ∧
        (∀ q, vs.erase b.rqf = [] → t.req = .coh .readX q → Gives (.invack h b) s fun u => u.regs = s.regs ∧ u.mem = s.mem ∧
          (u.home f.val).slots = [{ t with wait := .mem }] ∧
          (u.fieldSt f.val).cellar.ops = (s.fieldSt f.val).cellar.ops ++ [⟨0, frameAddr t.pte (512 * t.line), 512, none, 255, .txn t.line⟩]) ∧
        (∀ q m, vs.erase b.rqf = [] → t.req = .coh .upgrade q → Home.stOf (s.home f.val) b.line = some (.shared m) → m.getLsbD t.head.sfield = true →
          Gives (.invack h b) s fun u => u.regs = s.regs ∧ u.mem = s.mem ∧ (u.home f.val).slots = [] ∧
            Home.stOf (u.home f.val) b.line = some (.owned t.head.sfield) ∧
            ToVat u t.head.sfield .upgAck { line := b.line, grant := .m, rqtag := q.rqtag })) ∧
      (AtHome s f h (.cohp .fwdAck b) → ∀ q o ex, t.wait = .fwd o ex →
        (t.req = .coh .readS q → Gives (.fwdack h b) s fun u => u.regs = s.regs ∧ u.mem = s.mem ∧ (u.home f.val).slots = [] ∧
          Home.stOf (u.home f.val) b.line = some (.shared (if b.keep then one t.head.sfield ||| one o else one t.head.sfield)) ∧
          ∀ d, b.bytes = some d → b.smask ≠ 0 → (u.fieldSt f.val).cellar.ops = (s.fieldSt f.val).cellar.ops ++
            [⟨1, frameAddr t.pte (512 * b.line), 512, some d, b.smask, .posted⟩]) ∧
        (t.req = .coh .readX q → Gives (.fwdack h b) s fun u => u.regs = s.regs ∧ u.mem = s.mem ∧ (u.home f.val).slots = [] ∧
          Home.stOf (u.home f.val) b.line = some (.owned t.head.sfield)))) ∧
    (b.fin = false → AtHome s f h (.cohq .prec b) → (s.home f.val).slots = [] → Home.pageEntries (s.home f.val) b.line = [] →
      Gives (.prec h b) s fun u => u.regs = s.regs ∧ u.mem = s.mem ∧ (u.home f.val).recalls = [(b.line, h, true)] ∧
        ∃ p ∈ u.net, p.body = .cohp .precAck { line := b.line } ∧ p.head.dfield = h.sfield ∧ p.head.dsite = h.ssite)) ∧
  (∀ (s : State) (f : FieldNo) (h : Head) (b : CohBody), AtHome s f h (.cohq .prec b) → b.fin = true →
    Gives (.prec h b) s fun u => (u.home f.val).recalls = (s.home f.val).recalls.filter (fun r => r.1 != b.line) ∧ u.regs = s.regs ∧ u.mem = s.mem) ∧
  (∀ (s : State) (n : Fin 49) (e : DirEntry), (s.home n.val).recalls = [] → Home.entry (s.home n.val) e.line = some e → (s.home n.val).slots.length < 64 →
    (n.val < 48 → s.fieldState n.val = 5 → (s.home n.val).queue = [] →
      (((s.home n.val).dir.flatMap fun p => p.2).find? fun e => !Home.busy (s.home n.val) e.line) = some e →
      Gives (.directoryRecall n) s fun u => u.regs = s.regs ∧ u.mem = s.mem ∧ ∃ t ∈ (u.home n.val).slots, t.line = e.line ∧ t.req = .recall) ∧
    (∀ q : Head × Nat × HomeReq, ¬ (n.val < 48 ∧ s.fieldState n.val = 5) → (s.home n.val).queue = [q] → HomeReq.wantsEntry q.2.2 = true →
      Home.roomFor (s.home n.val) q.2.1 = false → Home.busy (s.home n.val) q.2.1 = false →
      ((tget [] (s.home n.val).dir (dirSet q.2.1)).find? fun e => !Home.busy (s.home n.val) e.line) = some e →
      ((s.home n.val).slots.any fun t => t.req == .recall && dirSet t.line == dirSet q.2.1) = false →
      Gives (.directoryRecall n) s fun u => u.mem = s.mem ∧ (∃ t ∈ (u.home n.val).slots, t.line = e.line ∧ t.req = .recall) ∧
        OthersKept s u (homeStatCa n.val)))

/-- A translation of a page at or above NPAGES, or with the Cave disabled, is answered with an unmapped entry; one of another page waits while its entry is read (R202, R205), and is answered with the entry read, or an unmapped one where it maps nothing. A CAVE_PTCMD command beyond NPAGES sets FAIL; another sets BUSY and has its page's entry read: a read then has it in CAVE_PTDATA, a write of a page that maps nothing then has its new entry written without MIG; when a command's steps are done BUSY clears (R204). The engine takes the first queued move and has its page's entry read; the last TINVAck of a move sends the page recall; PRECAck starts the copying; each MIGRATION_MOVE then asks for the next line of the old frame, a line read goes on to the new one, and a line written is counted (R222). A MIG_CMD write that its rule does not reject has its page's entry read, and one that finds 16 moves queued is rejected; a frame pushed on a cellar's free ring joins it unless it holds 64 or the frame is none of the cellar's (R223). Decay halves every access counter of a home; the counter of a page that has reached HOT is set to 0, and the page's entry is read; below HOT nothing changes (R224). Every other byte of memory stays. (That commands wait for the port in this way is the model's reading, notes/assumptions/58.) -/
def Obligations.TheAgentMovesPages : Prop :=
  ∀ (s : State),
    (∀ (h : Head) (b : CohBody), s.mayTake h (.cohq .xlat b) = true → s.agent.ptcmd = none → s.agent.move = none → s.agent.calls = [] →
      (s.pageMapped b.line = false → s.agent.xlat = [] → Gives (.xlat h b) s fun u => u.regs = s.regs ∧ u.mem = s.mem ∧ u.agent.xlat = [] ∧
        ∃ p ∈ u.net, p.body = .cohp .xlatR { line := b.line, pte := 0, rqtag := b.rqtag } ∧ p.head.dfield = h.sfield ∧ p.head.dsite = h.ssite) ∧
      (∀ f off, s.pageMapped b.line = true → EntryIn s b.line f off → Gives (.xlat h b) s fun u => u.regs = s.regs ∧ EntryAsked s u b.line f off ∧
        u.agent.xlat = s.agent.xlat ++ [({ h with tag := b.rqtag }, b.line)])) ∧
    (∀ (f : FieldNo) (who : Fin 5) (o : CelOp) (page : Nat), who ≠ 4 → ReadGrant s f who.val o (.pte page) → s.agent.move = none → s.agent.asks = [] → s.agent.calls = [] →
      let w := wordRead s f o
      (∀ h : Head, s.agent.xlat = [(h, page)] → s.agent.ptcmd = none → (w.getLsbD 63 && w.getLsbD 58) = false →
        Gives (.cellarAccess f who 0 0 []) s fun u => u.mem = s.mem ∧ u.agent.xlat = [] ∧
          ∃ p ∈ u.net, p.body = .cohp .xlatR { line := page, pte := if pteMapped w then w else 0, rqtag := h.tag } ∧ p.head.dfield = h.sfield ∧ p.head.dsite = h.ssite) ∧
      (∀ m : Move, s.agent.xlat = [] → s.agent.ptcmd = some m → m.page = page → m.step = .ask → (w.getLsbD 63 && w.getLsbD 58) = false →
        (m.kind = .ptRead → Gives (.cellarAccess f who 0 0 []) s fun u => u.mem = s.mem ∧ u.reg ptDataCa = w ∧ u.agent.ptcmd = some { m with step := .done }) ∧
        (∀ off, m.kind = .ptWrite → pteMapped w = false → decodeAddr (s.pteAddr page) = .cellar f off → Gives (.cellarAccess f who 0 0 []) s fun u => u.mem = s.mem ∧
          u.agent.ptcmd = some { m with old := w, step := .store } ∧ (u.fieldSt f.val).cellar.ops = (s.fieldSt f.val).cellar.ops.erase o ++
            [⟨1, off, 8, some (toBytes 8 (m.new &&& ~~~(BitVec.ofNat 64 (1 <<< 58))).toNat), 255, .ptw page⟩]))) ∧
    (∀ v : Word, s.rind.load = none → s.rind.pins.standby = true → s.bit ptCmdCa 63 = false →
      (1 ≤ bits v 25 24 → bits v 25 24 ≤ 2 → s.fld ptSizeCa 24 0 ≤ bits v 23 0 →
        Gives (.ptWrite (caOf ptCmdCa) v) s (fun u => u.bit ptCmdCa 62 = true ∧ u.agent = s.agent ∧ OthersKept s u ptCmdCa) ∧
        Gives (.ptRead (caOf ptCmdCa) v) s fun u => u.bit ptCmdCa 62 = true ∧ u.agent = s.agent ∧ OthersKept s u ptCmdCa) ∧
      (∀ f off, bits v 23 0 < s.fld ptSizeCa 24 0 → EntryIn s (bits v 23 0) f off →
        (bits v 25 24 = 2 → Gives (.ptRead (caOf ptCmdCa) v) s fun u => u.bit ptCmdCa 63 = true ∧ u.bit ptCmdCa 62 = false ∧ OthersKept s u ptCmdCa ∧
          EntryAsked s u (bits v 23 0) f off ∧ ∃ m, u.agent.ptcmd = some m ∧ m.page = bits v 23 0 ∧ m.kind = .ptRead ∧ m.step = .ask) ∧
        (bits v 25 24 = 1 → Gives (.ptWrite (caOf ptCmdCa) v) s fun u => u.bit ptCmdCa 63 = true ∧ u.bit ptCmdCa 62 = false ∧ OthersKept s u ptCmdCa ∧
          EntryAsked s u (bits v 23 0) f off ∧ ∃ m, u.agent.ptcmd = some m ∧ m.page = bits v 23 0 ∧ m.kind = .ptWrite ∧ m.step = .ask ∧ m.new = s.reg ptDataCa))) ∧
    (∀ m : Move, s.agent.ptcmd = some m → m.step = .done → Gives .ptCommandDone s fun u => u.agent.ptcmd = none ∧ u.bit ptCmdCa 63 = false ∧ OthersKept s u ptCmdCa) ∧
    (∀ (h : Head) (b : CohBody) (m : Move), s.agent.ptcmd = none → s.agent.move = some m → m.page = b.line →
      (m.step = .tinv [b.rqf] → s.mayTake h (.cohp .tinvAck b) = true → Gives (.tinvack h b) s fun u =>
        u.agent.move = some { m with step := .prec } ∧ u.regs = s.regs ∧ u.mem = s.mem ∧
        ∃ p ∈ u.net, p.body = .cohq .prec { line := m.page } ∧ (p.head.dfield, p.head.dsite) = homeOf m.old) ∧
      (m.step = .prec → s.mayTake h (.cohp .precAck b) = true → Gives (.precack h b) s fun u =>
        u.agent.move = some { m with step := .copy 0 [] 0 } ∧ u.regs = s.regs ∧ u.mem = s.mem)) ∧
    (∀ (r : MoveReq) (rest : List MoveReq) (f : FieldNo) (off : Nat), s.agent.move = none → s.agent.moves = r :: rest →
      s.pageMapped (bits r.word 23 0) = true → EntryIn s (bits r.word 23 0) f off → Gives .migrationMove s fun u => u.regs = s.regs ∧
        EntryAsked s u (bits r.word 23 0) f off ∧ u.agent.moves = rest ∧
        ∃ m, u.agent.move = some m ∧ m.page = bits r.word 23 0 ∧ m.kind = .move r.auto ∧ m.step = .ask) ∧
    (∀ (m : Move) (next done : Nat) (out : List Nat), s.agent.move = some m → m.step = .copy next out done →
      let old := fieldNo (bits m.old 53 48)
      let new := fieldNo (bits m.new 53 48)
      (next < 4096 → out.length < 64 → bits m.old 62 61 = 0 → s.cellarReady old = true → Gives .migrationMove s fun u => u.regs = s.regs ∧ u.mem = s.mem ∧
        u.agent.move = some { m with step := .copy (next + 1) (out ++ [next]) done } ∧
        (u.fieldSt old.val).cellar.ops = (s.fieldSt old.val).cellar.ops ++ [⟨2, frameAddr m.old (512 * next), 512, none, 255, .copy next⟩]) ∧
      (∀ (f : FieldNo) (o : CelOp) (i : Nat), ReadGrant s f 2 o (.copy i) → bits m.new 62 61 = 0 → s.cellarReady new = true →
        Gives (.cellarAccess f 2 0 0 []) s fun u => u.mem = s.mem ∧ (u.fieldSt new.val).cellar.ops =
          (if f = new then (s.fieldSt new.val).cellar.ops.erase o else (s.fieldSt new.val).cellar.ops) ++ [⟨2, frameAddr m.new (512 * i), 512, some (s.bytes (cellarAddr f.val o.off) o.len), 255, .copied i⟩]) ∧
      (∀ (f : FieldNo) (o : CelOp) (i : Nat) (d : List Byte), PortGrant s f 2 o → o.use = .copied i → o.write = some d → d.length = 512 → o.len = 512 →
        o.off % 512 = 0 → o.mask = 255 → done + 1 ≠ 4096 → Gives (.cellarAccess f 2 0 0 []) s fun u => Written s u (cellarAddr f.val o.off) d ∧
          u.agent.move = some { m with step := .copy next (out.erase i) (done + 1) })) ∧
    (∀ v : Word, s.rind.load = none → s.rind.pins.standby = true → bits v 63 62 = 1 → bits v 26 24 = 0 → bits v 59 54 < 48 →
      ((v.getLsbD 61 = true ∧ v.getLsbD 60 = false) ∨ (v.getLsbD 61 = false ∧ v.getLsbD 60 = true) ∨ (v.getLsbD 61 = false ∧ v.getLsbD 60 = false ∧ bits v 53 27 < 12288)) →
      s.pageMapped (bits v 23 0) = true →
      (∀ f off, s.agent.moves.length + (s.agent.asks.filter fun r => !r.auto).length < 16 → EntryIn s (bits v 23 0) f off →
        Gives (.move (caOf migCmdCa) v) s fun u => u.regs = s.regs ∧ EntryAsked s u (bits v 23 0) f off ∧ u.agent.asks = s.agent.asks ++ [⟨v, false⟩]) ∧
      (16 ≤ s.agent.moves.length → Gives (.move (caOf migCmdCa) v) s fun u => Rejected s u migCmdCa ∧ u.agent = s.agent)) ∧
    (∀ (f : FieldNo) (v : Word), s.serves f.val = true → s.rind.load = none →
      (bits v 13 0 < 12288 → (s.fieldSt f.val).free.length < 64 → Gives (.freeRingPush (caOf (cellarCa f 3 0)) v) s fun u =>
        (u.fieldSt f.val).free = (s.fieldSt f.val).free ++ [bits v 13 0] ∧ u.regs = s.regs ∧ u.mem = s.mem) ∧
      (64 ≤ (s.fieldSt f.val).free.length ∨ 12288 ≤ bits v 13 0 → Gives (.freeRingPush (caOf (cellarCa f 3 0)) v) s fun u => Rejected s u (cellarCa f 3 0))) ∧
    (∀ (n : Fin 49), s.fld migCtlCa 7 0 ≠ 0 →
      let base := if n.val < 48 then cellarCa (fieldNo n.val) 3 0x10000 else hostAgentCa 1 0x10000
      let count := if n.val < 48 then 12288 else 65536
      Gives (.counterDecay n) s fun u => u.mem = s.mem ∧ (∀ i < count, u.fld (base + 8 * i) 15 0 = s.fld (base + 8 * i) 15 0 / 2) ∧
        ∀ ca, (ca < base ∨ base + 8 * count ≤ ca) → u.reg ca = s.reg ca) ∧
    (∀ page : BitVec 24, s.bit migCtlCa 63 = true →
      let c := hostAgentCa 1 (0x10000 + 8 * (page.toNat % 65536))
      (s.fld migCtlCa 47 32 ≤ s.fld c 15 0 → Gives (.autoPromotion page) s (fun u => u.reg c = 0 ∧ u.mem = s.mem) ∧
        ∀ f off, s.pageMapped page.toNat = true → s.moveKnown page.toNat = false → s.agent.moves.length < 16 → EntryIn s page.toNat f off →
          Gives (.autoPromotion page) s fun u => OthersKept s u c ∧ EntryAsked s u page.toNat f off ∧ u.agent.asks = s.agent.asks ++ [⟨BitVec.ofNat 64 (1 <<< 62 + 1 <<< 60 + page.toNat), true⟩]) ∧
      (s.fld c 15 0 < s.fld migCtlCa 47 32 → Gives (.autoPromotion page) s fun u => u = s))

/-- FLD_FETCHCMD START runs the engine from its calendar entry, STOP stops it, and CANCEL stops it at an entry, advances the generation and forgets the entries issued (R225, R227). A touch issues the next line of the current entry while the engine and the field's clock run, a token is free, LEAD allows and the Vat has room, and the cursor passes to the next entry after the last line, to 0 after an entry with WRAP (R225). A completed touch returns its token; one of an older generation counts in LATE (R226, R227). Memory stays. -/
def Obligations.TheFetchEngineTouches : Prop :=
  ∀ (s : State) (f : FieldNo), s.serves f.val = true →
    (∀ v : Word, s.rind.load = none →
      (bits v 17 16 = 1 → Gives (.fetchStart (caOf (fcCa f 0 0x2008)) v) s fun u =>
        s.modFetch f (fun x => { x with running := true, cursor := bits v 9 0, next := 0 }) = u) ∧
      (bits v 17 16 = 2 → Gives (.fetchStop (caOf (fcCa f 0 0x2008)) v) s fun u => s.modFetch f (fun x => { x with running := false }) = u) ∧
      (bits v 17 16 = 3 → Gives (.cancel (caOf (fcCa f 0 0x2008)) v) s fun u =>
        (u.fetch f).running = false ∧ (u.fetch f).gen = (s.fetch f).gen + 1 ∧ (u.fetch f).open_ = [] ∧ (u.fetch f).cursor = bits v 9 0 ∧
        (u.fetch f).next = 0 ∧ (u.fetch f).touches = (s.fetch f).touches ∧ u.regs = s.regs ∧ u.mem = s.mem)) ∧
    ((s.fetch f).running = true → s.clocked f.val = true → (s.fetch f).touches.length < s.fld (fetchCtlCa f) 8 0 → s.vatAccepts f 1 = true →
      ((s.fetch f).next = 0 → (s.fetch f).open_.length < s.fld (fetchCtlCa f) 19 16) →
      ((s.fetch f).fresh = true → ∀ t ∈ (s.fetch f).touches, t.gen ≠ (s.fetch f).gen) →
      let c := (s.fetch f).cursor
      let last := s.fld (calCa f c 1) 15 0 ≤ (s.fetch f).next + 1
      Gives (.touch f) s fun u => u.mem = s.mem ∧
        (u.fetch f).touches = (s.fetch f).touches ++ [⟨(s.fetch f).gen, s.fld (calCa f c 0) 55 0 / 512 + (s.fetch f).next⟩] ∧
        (¬ last → (u.fetch f).next = (s.fetch f).next + 1 ∧ (u.fetch f).cursor = c) ∧
        (last → (u.fetch f).next = 0 ∧ (u.fetch f).cursor = if s.bit (calCa f c 1) 63 = true ∨ 1023 ≤ c then 0 else c + 1)) ∧
    (∀ t rest, (s.fetch f).done = t :: rest → Gives (.touchComplete f) s fun u =>
      (u.fetch f).done = rest ∧ (u.fetch f).touches = (s.fetch f).touches.erase t ∧
      (t.gen = (s.fetch f).gen → u.regs = s.regs) ∧
      (t.gen ≠ (s.fetch f).gen → u.fld (fetchStatCa f) 63 48 = min 65535 (s.fld (fetchStatCa f) 63 48 + 1)) ∧ OthersKept s u (fetchStatCa f))

/-- With standby power: a THAW of an OFF field that R371 and R376 allow starts its ramp, or is queued with QUEUED = 1 behind an earlier ramp (R377); one of a field that is not OFF is rejected. A queued THAW starts 2 ms after the last ramp. The end of the ramp brings TEST with a scratchpad of zeros; TEST ends in REDUCED, or in FAILED where more than 32 sites fail (R373, R376). A calibrated link is INSERVICE, one that failed FAILED with an event; trained memory makes the cellar READY; when both are complete the field is FULL (R375). SETFREQ sets FREQ and stops a FULL field's clock until it restarts (R379). CONTINUE of a held field lets it go on. A FREEZE of a serving field without loaded contexts makes it FREEZING where another first field serves or no other field is powered (R371), one of a field with a loaded context is rejected unless it is held; a FREEZING field, once settled, is OFF, and an overrun makes it FAILED with FSTAGE = 15 (R385). A FREEZE of PD49 while every field and engine is off turns it off (R386). A field's command leaves every other field's state as it was. -/
def Obligations.FieldsThawServeAndFreeze : Prop :=
  ∀ (s : State) (f : FieldNo), s.rind.pins.standby = true →
    (s.fieldState f.val = 0 → s.rind.power.queue.contains f.val = false → s.domState 49 = 7 → (f = 3 ∨ f = 4 ∨ s.serves 3 = true ∨ s.serves 4 = true) →
      ∀ hold, (s.rind.power.queue = [] → s.rampFree = true → Gives (.thaw (domOf f) hold) s fun u => u.fieldState f.val = 1 ∧
          u.rind.power.rampAt = some s.rind.ticks ∧ FieldsKept s u f ∧ u.mem = s.mem) ∧
        (s.rind.power.queue ≠ [] ∨ s.rampFree = false → Gives (.thaw (domOf f) hold) s fun u => u.rind.power.queue = s.rind.power.queue ++ [f.val] ∧
          u.bit (domCa (f.val + 1)) 27 = true ∧ u.fieldState f.val = 0 ∧ FieldsKept s u f ∧ u.mem = s.mem)) ∧
    (s.fieldState f.val ≠ 0 → ∀ hold, Gives (.thaw (domOf f) hold) s fun u => Rejected s u domcmdCa) ∧
    (∀ rest, s.rind.power.queue = f.val :: rest → s.rampFree = true → Gives .queuedThawStart s fun u =>
      u.rind.power.queue = rest ∧ u.fieldState f.val = 1 ∧ u.bit (domCa (f.val + 1)) 27 = false ∧ FieldsKept s u f ∧ u.mem = s.mem) ∧
    (s.fieldState f.val = 1 → Gives (.rampEnd f) s fun u => u.fieldState f.val = 2 ∧ FieldsKept s u f ∧
      ∀ (t : Tile) (off : Nat), t.field = f → off < 0x1800000 → u.byte (padAddr t off) = 0) ∧
    (s.fieldState f.val = 2 → ∀ bad : BitVec 42,
      (countBits bad ≤ 32 → Gives (.testEnd f bad) s fun u => u.fieldState f.val = 3 ∧ FieldsKept s u f ∧ u.mem = s.mem) ∧
      (32 < countBits bad → Gives (.testEnd f bad) s fun u => u.fieldState f.val = 6 ∧ u.fld (domCa (f.val + 1)) 31 28 = 2 ∧ FieldsKept s u f ∧ u.mem = s.mem)) ∧
    (s.fieldState f.val = 1 ∨ s.fieldState f.val = 2 ∨ (s.fieldState f.val = 3 ∧ s.bit (domCa (f.val + 1)) 26 = false) → Gives (.stageFailed f) s fun u => u.fieldState f.val = 6 ∧
      u.fld (domCa (f.val + 1)) 31 28 = s.fieldState f.val ∧ FieldsKept s u f ∧ u.mem = s.mem) ∧
    (∀ l : Fin 14, s.serves f.val = true → s.fld (jetLinkCa f l.val) 2 0 = 1 →
      Gives (.linkCalibrationEnd f l true) s (fun u => u.fld (jetLinkCa f l.val) 2 0 = 2 ∧ u.fieldState f.val = s.fieldState f.val ∧ FieldsKept s u f ∧ u.mem = s.mem) ∧
      Gives (.linkCalibrationEnd f l false) s fun u => u.fld (jetLinkCa f l.val) 2 0 = 3 ∧ FieldsKept s u f ∧ u.mem = s.mem ∧
        ∃ ev ∈ u.events, ev.code = 0x0E ∧ ev.detail = BitVec.ofNat 64 (1 <<< 40 + l.val <<< 32)) ∧
    (s.serves f.val = true → s.fld (celStatusCa f) 2 0 = 1 →
      Gives (.cellarTrainingEnd f true) s (fun u => u.fld (celStatusCa f) 2 0 = 2 ∧ u.bit (domCa (f.val + 1)) 24 = true ∧ FieldsKept s u f ∧ u.mem = s.mem) ∧
      Gives (.cellarTrainingEnd f false) s fun u => u.fld (celStatusCa f) 2 0 = 3 ∧ u.bit (domCa (f.val + 1)) 24 = true ∧ FieldsKept s u f ∧ u.mem = s.mem) ∧
    (s.fieldState f.val = 3 → s.bit (domCa (f.val + 1)) 26 = false → s.bit (domCa (f.val + 1)) 25 = true → s.bit (domCa (f.val + 1)) 24 = true →
      Gives (.fieldFull f) s fun u => u.fieldState f.val = 4 ∧ FieldsKept s u f ∧ u.mem = s.mem) ∧
    (∀ q : Fin 4, q.val ≠ 3 → (q.val = 2 → s.bit pwrCtlCa 63 = true) → Gives (.setfreq (domOf f) q) s fun u => u.fld (domCa (f.val + 1)) 33 32 = q.val ∧
      (s.fieldState f.val = 4 → u.rind.power.stopped.contains f.val = true) ∧ FieldsKept s u f ∧ u.mem = s.mem) ∧
    (Gives (.setfreq (domOf f) 3) s fun u => Rejected s u domcmdCa) ∧
    (s.rind.power.stopped.contains f.val = true → Gives (.clockRestart f) s fun u => u.rind.power.stopped = s.rind.power.stopped.erase f.val ∧
      tget 0 u.rind.power.clock f.val = s.fld (domCa (f.val + 1)) 33 32 ∧ u.regs = s.regs ∧ u.mem = s.mem) ∧
    (s.bit (domCa (f.val + 1)) 26 = true → Gives (.continue (domOf f)) s fun u => u.bit (domCa (f.val + 1)) 26 = false ∧ u.fld (celStatusCa f) 2 0 = 1 ∧
      FieldsKept s u f ∧ u.mem = s.mem) ∧
    (s.bit (domCa (f.val + 1)) 26 = false → Gives (.continue (domOf f)) s fun u => Rejected s u domcmdCa) ∧
    (s.serves f.val = true → (∀ t c, t.field = f → (s.ctx t c).state = .empty) → (f ≠ 3 ∧ s.serves 3 = true ∨ f ≠ 4 ∧ s.serves 4 = true ∨ ∀ g : FieldNo, g ≠ f → s.fieldState g.val = 0) →
      Gives (.freeze (domOf f)) s fun u => u.fieldState f.val = 5 ∧ FieldsKept s u f ∧ u.mem = s.mem) ∧
    (s.serves f.val = true → s.bit (domCa (f.val + 1)) 26 = false → (∃ (t : Tile) (c : CtxNo), t.field = f ∧ (s.ctx t c).state ≠ .empty) →
      Gives (.freeze (domOf f)) s fun u => Rejected s u domcmdCa) ∧
    (s.domState 49 = 7 → (∀ g : FieldNo, s.fieldState g.val = 0) → s.fld optgateCa 47 0 = 0 → Gives (.freeze 49) s fun u => u.domState 49 = 0) ∧
    (s.fieldState f.val = 5 → (s.freezeSettled f = true → Gives (.freezeDone f) s fun u => u.fieldState f.val = 0 ∧ FieldsKept s u f) ∧
      Gives (.freezeOverrun f) s fun u => u.fieldState f.val = 6 ∧ u.fld (domCa (f.val + 1)) 31 28 = 15 ∧ FieldsKept s u f)

/-- A power sample adds its energy to PWR_ENERGY and raises the cap level by 4, up to 12, when the input current exceeds 800 A; CAP_ADJUST raises it by 1 while the mean power exceeds the cap and lowers it after 1 ms below it with hysteresis (R382). THERMAL_READ reports the hottest junction in TJ; at 105 degrees the field is FAILED (R383). An input below 46 V or above 59 V turns every field and PD49 off and raises ALERT# (R384, R428). Main power in range raises power-good and PD49 (R372). Standby power applied, lost, or RESET# low gives a cold reset; RESET# rising samples the straps, which give the SMBus address (R430, R433, R434). EDGE_OPTGATE switches engines on, and off where no half-port has a role; switching one off is rejected while one has; calibrated, an engine is on (R387). A switch of a gust or express lane starts and completes (R173, R391). An idle tile site is gated again (R381). -/
def Obligations.PowerIsMeasuredCappedAndCut : Prop :=
  ∀ (s : State), s.rind.pins.standby = true →
    (∀ mv ia e12 : BitVec 16, Gives (.powerSample mv ia e12) s fun u =>
      u.reg energyCa = s.reg energyCa + BitVec.ofNat 64 (mv.toNat * ia.toNat / 1000 + e12.toNat) ∧ u.mem = s.mem ∧
      (8000 < ia.toNat → u.capLevel = min (s.capLevel + 4) 12)) ∧
    (s.capWatts < s.fld pwrMeasCa 31 16 → Gives .capAdjust s fun u => u.capLevel = min (s.capLevel + 1) 12 ∧ u.mem = s.mem) ∧
    (s.fld pwrMeasCa 31 16 + 100 * s.fld pwrCtlCa 23 16 < s.capWatts → 100 ≤ s.rind.power.capAge → 0 < s.capLevel →
      Gives .capAdjust s fun u => u.capLevel = s.capLevel - 1 ∧ u.mem = s.mem) ∧
    (∀ f : FieldNo, (s.fieldState f.val = 3 ∨ s.fieldState f.val = 4) →
      (s.hottest f < 105 → Gives (.thermalRead f) s fun u => u.tj f = s.hottest f ∧ u.fieldState f.val = s.fieldState f.val ∧ FieldsKept s u f ∧ u.mem = s.mem) ∧
      (105 ≤ s.hottest f → Gives (.thermalRead f) s fun u => u.fieldState f.val = 6 ∧ u.fld (domCa (f.val + 1)) 31 28 = 15 ∧ FieldsKept s u f)) ∧
    (∀ mv : BitVec 16, mv.toNat < 46000 ∨ 59000 < mv.toNat → Gives (.inputLoss mv) s fun u => (∀ f : FieldNo, u.fieldState f.val = 0) ∧ u.domState 49 = 0 ∧ u.rind.pins.main = false ∧ u.alert = true) ∧
    (s.rind.pins.reset = false → s.rind.pins.main = false → Gives .mainPowerInRange s fun u => u.rind.pins.main = true ∧ u.mem = s.mem ∧
      (s.rind.power.frozen = false → u.rind.pins.pwrgd = true ∧ u.domState 49 = 7)) ∧
    (Gives .resetPin s fun u => u.regs = [] ∧ u.mem = [] ∧ u.rind.pins.reset = true ∧ u.rind.pins.pwrgd = false ∧ u.rind.revoked = s.rind.revoked) ∧
    (Gives .standbyLoss s fun u => u.mem = [] ∧ u.rind.pins.standby = false ∧ (∀ f : FieldNo, u.fieldState f.val = 0)) ∧
    (∀ straps : BitVec 3, s.rind.pins.reset = true → Gives (.resetPinRelease straps) s fun u => u.rind.pins.reset = false ∧ u.rind.pins.straps = straps ∧
      u.smbusAddress = 0x60 + straps.toNat ∧
      u.regs = s.regs ∧ u.mem = s.mem) ∧
    (∀ (t : State) (straps : BitVec 3), t.rind.pins.standby = false → Gives (.standbyApply straps) t fun u => u.regs = [] ∧ u.mem = [] ∧
      u.rind.pins.standby = true ∧ u.rind.pins.straps = straps) ∧
    (∀ v : Word, s.rind.load = none → s.domState 49 = 7 →
      (s.reg optgateCa &&& ~~~(BitVec.ofNat 64 (bits v 47 0)) = 0 → Gives (.optgateWrite (caOf optgateCa) v) s fun u =>
        u.reg optgateCa = BitVec.ofNat 64 (bits v 47 0) ∧ u.mem = s.mem) ∧
      (s.reg optgateCa &&& ~~~(BitVec.ofNat 64 (bits v 47 0)) ≠ 0 → (∃ h : Fin 96, s.hpRole h ≠ 0) → Gives (.optgateWrite (caOf optgateCa) v) s fun u => Rejected s u optgateCa) ∧
      ((∀ h : Fin 96, s.hpRole h = 0) → Gives (.optgateWrite (caOf optgateCa) v) s fun u => u.reg optgateCa = BitVec.ofNat 64 (bits v 47 0) ∧ u.mem = s.mem)) ∧
    (∀ (f : FieldNo) (failed : List (Fin 14)), s.rind.power.training.contains f.val = true → s.engineOn f.val = true → Gives (.gustCalibrationEnd f failed) s fun u =>
      u.bit optstatCa f.val = true ∧ u.rind.power.training = s.rind.power.training.erase f.val ∧ u.mem = s.mem) ∧
    (∀ (f : FieldNo) (l : Fin 32) (d : Bool) (b : Byte) (lane : Fin 16), s.answers (gsparecmdCa f) = true →
      (s.bit (gsparecmdCa f) 63 = false → linkPeer f l.val ≠ none → b.toNat < 40 → (s.engine f).spared.contains (l.val, d, b.toNat) = false → (s.engine f).switches = [] →
        Gives (.gsparecmd f l d b lane) s fun u => u.bit (gsparecmdCa f) 63 = true ∧ OthersKept s u (gsparecmdCa f) ∧
          (u.engine f).switches = [⟨l.val, d, b.toNat, lane.val, true⟩]) ∧
      (s.bit (gsparecmdCa f) 63 = true ∨ linkPeer f l.val = none ∨ 40 ≤ b.toNat → Gives (.gsparecmd f l d b lane) s fun u => Rejected s u (gsparecmdCa f))) ∧
    (∀ (f : FieldNo) (n : Nat) (w : Switch), (s.fieldSt f.val).switches[n]? = some w → w.lane < 256 → w.link < 27 → w.bundle < 195 →
      Gives (.spareSwitchComplete f false n) s fun u => u.jetSpare f w.link w.dir w.bundle = w.lane ∧
        (u.fieldSt f.val).switches = (s.fieldSt f.val).switches.eraseIdx n ∧ u.mem = s.mem) ∧
    (∀ (f : FieldNo) (n : Nat) (w : Switch), (s.engine f).switches[n]? = some w → Gives (.spareSwitchComplete f true n) s fun u =>
      u.bit (gsparecmdCa f) 63 = false ∧ (u.engine f).spared = (s.engine f).spared ++ [(w.link, w.dir, w.bundle)] ∧
        (u.engine f).switches = (s.engine f).switches.eraseIdx n ∧ u.mem = s.mem) ∧
    (∀ t : Tile, s.serves t.field.val = true → (∀ c : CtxNo, (s.ctx t c).state = .empty) → (∀ c : CtxNo, s.bit (tileCa t 0x0A (0x100 + 8 * c.val)) 63 = false) →
      (∀ k : Fin 16, s.bit (shardCa t k 0) 63 = false ∧ s.bit (srcCa t k 0) 63 = false) → Gives (.siteGate t) s fun u =>
        (u.tile t).gated = true ∧ u.regs = s.regs ∧ u.mem = s.mem)

/-- While no LOAD is in progress, a reset requested empties the contexts of its scope: a context reset that context alone, a tile reset the contexts of its tile, a field reset those of the field's tiles, a job-domain reset those of the domain, a module reset all (R405). One of a logical tile that no site holds clears nothing. A tile or field reset keeps the contexts of other tiles; a tile reset advances the epoch of its logical tile (R153). A module reset locks debug. The scratchpads and cellars keep their contents (Table 17-14). RESET_DONE, once the reset is performed and the Vats it writes back have settled, takes it off the list and records event 0x1B (R365). -/
def Obligations.ResetsClearTheirScope : Prop :=
  ∀ (s : State) (r : ResetReq),
    (ResetDue s 4 r → ∀ t, s.siteOf (fieldNo (bits r.word 45 40)) (bits r.word 37 32) = some t →
      Gives .contextReset s fun u => (u.ctx t (Fin.ofNat 4 (bits r.word 31 30))).state = .empty ∧ u.mem = s.mem ∧
        CtxKept s u (fun t' => t' = t) ∧ ∀ c, c ≠ Fin.ofNat 4 (bits r.word 31 30) → u.ctx t c = s.ctx t c) ∧
    (ResetDue s 4 r → s.siteOf (fieldNo (bits r.word 45 40)) (bits r.word 37 32) = none → Gives .contextReset s (OnlyRind s)) ∧
    (ResetDue s 3 r → s.siteOf (fieldNo (bits r.word 45 40)) (bits r.word 37 32) = none → Gives .tileReset s (OnlyRind s)) ∧
    (ResetDue s 3 r → ∀ t, s.siteOf (fieldNo (bits r.word 45 40)) (bits r.word 37 32) = some t →
      Gives .tileReset s fun u => (∀ c, (u.ctx t c).state = .empty) ∧ u.mem = s.mem ∧ CtxKept s u (fun t' => t' = t) ∧
        (∀ k, s.logicalOf t = some k → u.fld (spdEpochCa t) 15 0 = (s.fld (spdEpochCa t) 15 0 + 1) % 65536)) ∧
    (ResetDue s 2 r → Gives .fieldReset s fun u => (∀ t c, t.field = fieldNo (bits r.word 45 40) → (u.ctx t c).state = .empty) ∧ u.mem = s.mem ∧
      CtxKept s u (fun t' => t'.field = fieldNo (bits r.word 45 40))) ∧
    (ResetDue s 5 r → Gives .jobDomainReset s fun u => (∀ t c, s.jobOf t c = Fin.ofNat 4 (bits r.word 29 28) → (u.ctx t c).state = .empty) ∧ u.mem = s.mem ∧
      ∀ t c, s.jobOf t c ≠ Fin.ofNat 4 (bits r.word 29 28) → (u.ctx t c).state = (s.ctx t c).state) ∧
    (ResetDue s 1 r → Gives .moduleReset s fun u => (∀ t c, (u.ctx t c).state = .empty) ∧ u.mem = s.mem ∧ u.level = 0) ∧
    (∀ rest, s.rind.resets = r :: rest → r.did = true → s.resetSettled r.word = true → Gives .resetDone s fun u =>
      u.rind.resets = rest ∧ u.regs = s.regs ∧ u.mem = s.mem ∧ ∃ ev ∈ u.events, ev.code = 0x1B ∧ ev.detail = BitVec.ofNat 64 r.word.toNat)

/-- A scrubber that is enabled and has no correction to write reads its next line, a cellar's with the grant of its port (Table 9-1): NEXT advances, and after the last line NEXT is 0 and PASSES counts one pass modulo 2^16 (R396). A line of a scratchpad whose words are sound leaves nothing to correct. Words found correctable and still so are written back corrected and the corrections counted, saturating (R396); a scale line that a stream engine holds and the scrubber writes is dropped (R159). A scrubber starved of a line records a maintenance event (R397). No stored byte changes. -/
def Obligations.ScrubbersReadAndCorrect : Prop :=
  ∀ (s : State),
    (∀ (x : ScrubUnit) (ups : List (Fin 64 × Bool)), ScrubTurn s x → s.bit (scrubCa x) 63 = true → (s.scrubber x).fix = none →
      let n := s.fld (scrubCa x) 25 0
      Gives (.scrubLine x ups) s fun u => u.mem = s.mem ∧
        (n + 1 < scrubLines x → u.fld (scrubCa x) 25 0 = n + 1) ∧
        (scrubLines x ≤ n + 1 → u.fld (scrubCa x) 25 0 = 0 ∧ u.fld (scrubCa x) 47 32 = (s.fld (scrubCa x) 47 32 + 1) % 65536)) ∧
    (∀ t : Tile, s.scrubRuns (.tile t) = true → (s.scrubber (.tile t)).fix = none → s.fld (scrubCa (.tile t)) 25 0 < 49152 →
      (∀ k ∈ scrubKeys (.tile t) (s.fld (scrubCa (.tile t)) 25 0), tget 0 s.ecc k = 0) → Gives (.scrubLine (.tile t) []) s fun u =>
        (u.scrubber (.tile t)).fix = none ∧ u.ecc = s.ecc ∧ u.events = s.events ∧ OthersKept s u (scrubCa (.tile t))) ∧
    (∀ (x : ScrubUnit) (n : Nat) (ws : List Nat), ScrubTurn s x → (s.scrubber x).fix = some (n, ws) → Gives (.scrubWriteback x) s fun u =>
      (u.scrubber x).fix = none ∧ u.fld (scrubCa x) 55 48 = min 255 (s.fld (scrubCa x) 55 48 + 1) ∧ OthersKept s u (scrubCa x) ∧
      (∀ i ∈ ws, tget 0 s.ecc ((scrubKeys x n).getD i 0) = 1 → (∀ f, x ≠ .vat f) → tget 0 u.ecc ((scrubKeys x n).getD i 0) = 0) ∧
      (∀ f l, x = .vat f → s.scrubVatLine f n = some l → ∃ k, tget none (u.vat f).lines n = some k ∧ k.line = l.line ∧ k.bytes = l.bytes ∧
        ∀ i ∈ ws, tget 0 l.errs i = 1 → tget 0 k.errs i = 0) ∧
      (∀ (t : Tile) (e : Fin 3) (c : CtxNo) (bs : List Byte), x = .tile t → n < 49152 → (u.eng t e c).scaleLine ≠ some (n, bs))) ∧
    (∀ x : ScrubUnit, s.scrubRuns x = true → Gives (.scrubStarved x) s fun u => u.regs = s.regs ∧ u.mem = s.mem ∧
      ∃ ev : Event, u.events = s.events ++ [ev] ∧ ev.code = 0x13 ∧ ev.detail = BitVec.ofNat 64 ((scrubPlace x).1 <<< 8))

/-- A pressed RUNNING context has its stream-in programs stopped, their queued programs discarded, a PRESS token in each queue with room, or waiting for room, and PRESSING set; a press of a context that is not RUNNING is rejected (R398). Its queues and work done, it becomes STOPPED with PRESSED set; at the limit FAILED is set and an event recorded (R399). A job press presses every RUNNING context of the domain on serving fields and sets BUSY, and ends with its result (R400). A remap that R402 does not refuse copies, catches up in passes and cuts over: at the end the map names the new site, which holds the contexts and every scratchpad byte of a word that is not uncorrectable (R402, R403); a refused one is rejected, and after 16 passes with more than 64 lines left the remap fails. -/
def Obligations.ContextsArePressedAndTilesRemapped : Prop :=
  ∀ (s : State),
    (∀ (t : Tile) (c : CtxNo), s.answers (pressCa t) = true → (s.ctx t c).state = .running →
      Gives (.press t (BitVec.ofNat 4 (1 <<< c.val))) s fun u => u.bit (pressCa t) (52 + c.val) = true ∧ OthersKept s u (pressCa t) ∧
        ∀ e : Fin 3, e ≠ 2 → (u.eng t e c).run = none ∧ (u.eng t e c).queued = none ∧
          ((s.eng t e c).waiting = [] → StreamCtx.fits (s.eng t e c) 1 = true → (u.eng t e c).queue = (s.eng t e c).queue ++ [.ready (.token 0x06)]) ∧
          (StreamCtx.fits (s.eng t e c) 1 = false → (u.eng t e c).queue = (s.eng t e c).queue ∧ (u.eng t e c).waiting = (s.eng t e c).waiting ++ [0x06])) ∧
    (∀ (t : Tile) (c : CtxNo), s.answers (pressCa t) = true → (s.ctx t c).state ≠ .running →
      Gives (.press t (BitVec.ofNat 4 (1 <<< c.val))) s fun u => Rejected s u (pressCa t) ∧ u.tiles = s.tiles) ∧
    (∀ (t : Tile) (c : CtxNo), s.bit (pressCa t) (52 + c.val) = true →
      (s.pressDone t c = true → Gives (.pressComplete t c) s fun u => u.bit (pressCa t) (52 + c.val) = false ∧ u.bit (pressCa t) (60 + c.val) = true ∧
        ((s.ctx t c).state = .running → (u.ctx t c).state = .stopped) ∧ OthersKept s u (pressCa t)) ∧
      (s.pressDone t c = false → Gives (.pressTimeout t c) s fun u => u.bit (pressCa t) (52 + c.val) = false ∧ u.bit (pressCa t) (56 + c.val) = true ∧
        (u.ctx t c).state = (s.ctx t c).state ∧ OthersKept s u (pressCa t) ∧ ∃ ev : Event, u.events = s.events ++ [ev] ∧ ev.code = 0x03)) ∧
    (∀ job : JobNo, s.bit rindPressCa 63 = false → Gives (.jobPress job) s fun u => u.bit rindPressCa 63 = true ∧ u.mem = s.mem ∧
      ∀ (t : Tile) (c : CtxNo), s.serves t.field.val = true → (s.ctx t c).state = .running → s.jobOf t c = job → u.bit (pressCa t) (52 + c.val) = true) ∧
    (∀ job : JobNo, s.bit rindPressCa 63 = true → Gives (.jobPress job) s fun u => Rejected s u rindPressCa) ∧
    (∀ (l : List Nat) (failed : Bool), s.rind.press = some (l, failed) → (l.any fun k => s.bit (pressCa (tileOfKey (k / 4))) (52 + k % 4)) = false →
      Gives .jobPressDone s fun u => u.reg rindPressCa = BitVec.ofNat 64 ((if failed then 2 else 1) <<< 61) ∧ u.rind.press = none ∧ OthersKept s u rindPressCa) ∧
    (∀ (f : FieldNo) (k site : Fin 64) (t : Tile), s.answers (remapcmdCa f) = true → s.siteOf f k.val = some t → site.val < 42 →
      (s.remapRefused f k.val site.val t = false → (s.fieldSt f.val).remap = none → Gives (.remap f k site) s fun u =>
        (u.fieldSt f.val).remap = some ⟨k.val, t.site, Fin.ofNat 42 site.val, .copy, 0⟩ ∧ (u.tile t).moving = true ∧ OthersKept s u (remapstatCa f)) ∧
      (s.remapRefused f k.val site.val t = true → Gives (.remap f k site) s fun u => Rejected s u (remapcmdCa f))) ∧
    (∀ (f : FieldNo) (lines : Fin 193) (r : Remap), (s.fieldSt f.val).remap = some r → s.serves f.val = true →
      (r.stage = .copy → Gives (.remapCopyDone f lines) s fun u => (u.fieldSt f.val).remap = some { r with stage := .catchup } ∧ u.mem = s.mem) ∧
      (r.stage = .catchup → (s.tile ⟨f, r.old⟩).marks.length + lines.val ≤ 64 → Gives (.remapCatchupPass f lines) s fun u =>
        (u.fieldSt f.val).remap = some { r with stage := .cutover, pass := r.pass + 1 } ∧ u.mem = s.mem) ∧
      (r.stage = .catchup → 64 < (s.tile ⟨f, r.old⟩).marks.length + lines.val → r.pass < 15 → Gives (.remapCatchupPass f lines) s fun u =>
        (u.fieldSt f.val).remap = some { r with pass := r.pass + 1 } ∧ u.mem = s.mem) ∧
      (r.stage = .catchup → 64 < (s.tile ⟨f, r.old⟩).marks.length + lines.val → 15 ≤ r.pass → Gives (.remapCatchupPass f lines) s fun u =>
        (u.fieldSt f.val).remap = none ∧ u.fld (remapstatCa f) 63 61 = 5 ∧ u.mem = s.mem) ∧
      (r.stage = .cutover → r.old ≠ r.new → Memory.wf s.mem = true → r.tile < 40 →
        Gives (.remapCutover f) s fun u => u.fld (tilemapCa f r.tile) 5 0 = r.new.val ∧ (u.fieldSt f.val).remap = none ∧
          (s.bit (tilemapCa f r.tile) 7 = true → u.siteOf f r.tile = some ⟨f, r.new⟩) ∧ (∀ c, u.ctx ⟨f, r.new⟩ c = s.ctx ⟨f, r.old⟩ c) ∧
          ∀ off < 0x1800000, (∀ p ∈ s.ecc, p.1 = padAddr ⟨f, r.old⟩ off / 8 → p.2 < 2) →
            u.byte (padAddr ⟨f, r.new⟩ off) = s.byte (padAddr ⟨f, r.old⟩ off)))

/-- With standby power a key slot is revoked unless no other slot would be left that firmware accepts (R361). A write of GO with a request of 1 or 2, no verification in progress and no lockout sets BUSY, starts the verification of the response against the challenge shown, and a new challenge is shown; any other is rejected (R422). A verification that succeeds raises the level to the one asked, never lowers it, and clears FAILS; one that fails counts in FAILS and at the third locks GO out; 60 s later the lockout ends, and no earlier. A relock returns to locked and releases every halted tile. No memory changes. -/
def Obligations.KeysAndTheDebugUnlock : Prop :=
  ∀ s : State, s.rind.pins.standby = true →
    (∀ k : Fin 4, (∃ j < 4, j ≠ k.val ∧ s.keyOk j 61 = true) → Gives (.revoke k) s fun u => k.val ∈ u.rind.revoked ∧
      (∀ j : Fin 4, j ≠ k → (j.val ∈ u.rind.revoked ↔ j.val ∈ s.rind.revoked)) ∧ OnlyRind s u) ∧
    (∀ k : Fin 4, (∀ j < 4, j ≠ k.val → s.keyOk j 61 = false) → Gives (.revoke k) s fun u => Rejected s u (keyCa k.val) ∧ u.rind = s.rind) ∧
    (∀ req : Fin 4, req.val = 1 ∨ req.val = 2 → s.bit dbgUnlockCa 63 = false → s.rind.unlock.locked = false →
      Gives (.debugUnlock req) s fun u => u.bit dbgUnlockCa 63 = true ∧ u.rind.unlock.verify = some (s.respOk req.val, req.val) ∧
        u.challenge = Config.nonce (s.rind.unlock.nonce + 1) ∧ u.level = s.level ∧ OthersKept s u dbgUnlockCa ∧ u.tiles = s.tiles) ∧
    (∀ req : Fin 4, req.val = 0 ∨ req.val = 3 ∨ s.bit dbgUnlockCa 63 = true ∨ s.rind.unlock.locked = true →
      Gives (.debugUnlock req) s fun u => Rejected s u dbgUnlockCa ∧ u.rind = s.rind) ∧
    (Gives .relock s fun u => u.level = 0 ∧ OthersKept s u dbgUnlockCa ∧ ∀ t, (u.tile t).dbg.halted = false ∧ (u.tile t).ctxs = (s.tile t).ctxs) ∧
    (∀ req ≤ 2, s.rind.unlock.verify = some (true, req) → Gives .unlockVerifyDone s fun u => u.level = max s.level req ∧ u.bit dbgUnlockCa 63 = false ∧
      u.fld dbgUnlockCa 62 61 = 1 ∧ u.fld dbgUnlockCa 60 56 = 0 ∧ u.rind.unlock.verify = none ∧ OthersKept s u dbgUnlockCa ∧ u.tiles = s.tiles) ∧
    (∀ req, s.rind.unlock.verify = some (false, req) → Gives .unlockVerifyDone s fun u => u.level = s.level ∧ u.bit dbgUnlockCa 63 = false ∧
      u.fld dbgUnlockCa 62 61 = 2 ∧ u.fld dbgUnlockCa 60 56 = min 31 (s.fld dbgUnlockCa 60 56 + 1) ∧
      (u.rind.unlock.locked = true ↔ s.rind.unlock.locked = true ∨ 2 ≤ s.fld dbgUnlockCa 60 56) ∧ OthersKept s u dbgUnlockCa ∧ u.tiles = s.tiles) ∧
    (s.rind.unlock.lockedAt + 60000000000 ≤ s.rind.ticks → Gives .unlockLockoutEnd s fun u => u.rind.unlock.locked = false ∧ OnlyRind s u) ∧
    (s.rind.ticks < s.rind.unlock.lockedAt + 60000000000 → Gives .unlockLockoutEnd s fun u => u = s)

/-- With the debug level observe or full and the block powered, HALT halts its tile with cause 1 unless it is halted already; DEBUG_RESUME releases a halted tile to step a context by a number of bundles or freely; a field halt halts the sites named and a field resume releases every halted one (R423, R424); a tile inside a hold of R70 is halted only once the hold ends. When locked each is rejected. The end of a step halts the tile with cause 3; an enabled breakpoint at the PC of the current RUNNING context that waits for nothing halts it with cause 2, before the bundle issues. No register, memory or other tile changes. -/
def Obligations.TilesHaltStepAndResume : Prop :=
  ∀ (s : State) (t : Tile),
    (s.answers (dbgTctlCa t) = true → 1 ≤ s.level →
      (Gives (.halt t) s fun u => (u.tile t).dbg.halted = true ∧ ((s.tile t).dbg.halted = false → (u.tile t).dbg.cause = 1) ∧
        (u.tile t).ctxs = (s.tile t).ctxs ∧ TileAlone s u t) ∧
      (TileSt.dbgHalted (s.tile t) = true → ∀ (ctx : CtxNo) (n : BitVec 16), Gives (.debugResume t ctx n) s fun u => (u.tile t).dbg.halted = false ∧
        (u.tile t).dbg.stepCtx = ctx.val ∧ (u.tile t).dbg.left = n.toNat ∧ (u.tile t).ctxs = (s.tile t).ctxs ∧ TileAlone s u t)) ∧
    (s.answers (dbgTctlCa t) = true → s.level = 0 → Gives (.halt t) s (fun u => Rejected s u (dbgTctlCa t) ∧ u.tiles = s.tiles) ∧
      ∀ (ctx : CtxNo) (n : BitVec 16), Gives (.debugResume t ctx n) s fun u => Rejected s u (dbgTctlCa t) ∧ u.tiles = s.tiles) ∧
    ((s.tile t).dbg.due = true → s.clocked t.field.val = true → Gives (.stepComplete t) s fun u =>
      (u.tile t).dbg.halted = true ∧ (u.tile t).dbg.cause = 3 ∧ (u.tile t).dbg.due = false ∧ (u.tile t).ctxs = (s.tile t).ctxs ∧ TileAlone s u t) ∧
    (∀ c, s.actor t = some c → s.clocked t.field.val = true → (s.ctx t c).state = .running → (s.ctx t c).wait = .no → s.breakHit t c = true →
      Gives (.breakpoint t) s fun u => (u.tile t).dbg.halted = true ∧ (u.tile t).dbg.cause = 2 ∧ (u.tile t).ctxs = (s.tile t).ctxs ∧ TileAlone s u t) ∧
    (∀ (f : FieldNo) (sites : BitVec 42), s.answers (dbgFhaltCa f) = true → 1 ≤ s.level →
      Gives (.fieldHalt f sites) s (fun u => u.regs = s.regs ∧ u.mem = s.mem ∧ ∀ t',
        (t'.field = f → sites.getLsbD t'.site.val = true → (u.tile t').dbg.halted = true ∧ (u.tile t').ctxs = (s.tile t').ctxs) ∧
        (t'.field ≠ f ∨ sites.getLsbD t'.site.val = false → u.tile t' = s.tile t')) ∧
      Gives (.fieldResume f) s fun u => u.regs = s.regs ∧ u.mem = s.mem ∧ ∀ t',
        (t'.field = f → TileSt.dbgHalted (s.tile t') = true → (u.tile t').dbg.halted = false ∧ (u.tile t').ctxs = (s.tile t').ctxs) ∧
        (t'.field ≠ f ∨ TileSt.dbgHalted (s.tile t') = false → u.tile t' = s.tile t')) ∧
    (∀ f : FieldNo, s.answers (dbgFhaltCa f) = true → s.level = 0 → (∀ sites, Gives (.fieldHalt f sites) s fun u => Rejected s u (dbgFhaltCa f) ∧ u.tiles = s.tiles) ∧
      Gives (.fieldResume f) s fun u => Rejected s u (dbgFhaltCa f) ∧ u.tiles = s.tiles)

/-- While the test port responds (R433), IDCODE captures the identity, BYPASS selects the bypass register, SAMPLE/PRELOAD captures the pins and preloads the cells, and EXTEST with main power absent drives the cells; with main power present it acts as BYPASS (the model's choice, notes/assumptions/64). DBGACC performs its read as observe and its write as full and answers status 0, or 1 where nothing answers; below the level it answers status 2 and makes no access; with an OP of 0 or 3 it makes none (R421, R422). While the port does not respond nothing changes. -/
def Obligations.TheTestPortSelectsAndAccesses : Prop :=
  ∀ (s : State),
    (s.jtagOn = true →
      (Gives .idcode s fun u => OnlyJtag s u ∧ u.rind.jtag.ir = 1 ∧ u.rind.jtag.driven = false ∧
        u.rind.jtag.dr.toNat = (Config.stepping.toNat % 16) * 2 ^ 28 + 0x48573) ∧
      (Gives .bypass s fun u => OnlyJtag s u ∧ u.rind.jtag.ir = 0xFF ∧ u.rind.jtag.dr = 0 ∧ u.rind.jtag.driven = false) ∧
      (∀ cells, Gives (.samplePreload cells) s fun u => OnlyJtag s u ∧ u.rind.jtag.ir = 2 ∧ u.rind.jtag.latch = cells ∧ u.rind.jtag.driven = false ∧
        ∀ i < 112, u.rind.jtag.dr.getLsbD i = (decide (i < cells.length) && Config.boundaryPin i)) ∧
      (∀ cells, s.rind.pins.main = false → Gives (.extest cells) s fun u => OnlyJtag s u ∧ u.rind.jtag.ir = 0 ∧ u.rind.jtag.latch = cells ∧ u.rind.jtag.driven = true) ∧
      (∀ cells, s.rind.pins.main = true → Gives (.extest cells) s fun u => OnlyJtag s u ∧ u.rind.jtag.ir = 0xFF ∧ u.rind.jtag.dr = 0 ∧ u.rind.jtag.driven = false) ∧
      (∀ ca data, ∀ op : Fin 4, op.val = 0 ∨ op.val = 3 → Gives (.dbgacc op ca data) s fun u => OnlyJtag s u ∧ u.rind.jtag.ir = 0x20 ∧ u.rind.jtag.dr = s.rind.jtag.dr) ∧
      (∀ ca data, ((caParts ca.toNat).field ≠ 0x3C ∨ (caParts ca.toNat).site ≠ 0 ∨ (caParts ca.toNat).block ≠ 3) →
        (s.level = 0 → Gives (.dbgacc 1 ca data) s fun u => OnlyJtag s u ∧ u.rind.jtag.dr = dbgResult 1 2 ca data) ∧
        (s.level < 2 → Gives (.dbgacc 2 ca data) s fun u => OnlyJtag s u ∧ u.rind.jtag.dr = dbgResult 2 2 ca data)) ∧
      (∀ ca data k g is, decodeCa ca.toNat = some (k, g, is) → g.tag = .plain → (caParts ca.toNat).field ≠ 0x3F → s.answers ca.toNat = true →
        (s.level = 2 → s.claims ca.toNat = false → woReserved g.fields data = false → Gives (.dbgacc 2 ca data) s fun u => Stored s u ca.toNat g data ∧ u.rind.jtag.dr = dbgResult 2 0 ca data) ∧
        (1 ≤ s.level → Gives (.dbgacc 1 ca data) s fun u => u.mem = s.mem ∧ u.rind.jtag.dr = dbgResult 1 0 ca (s.controlRead ca.toNat true).2.1)) ∧
      (∀ ca data, decodeCa ca.toNat = none → 1 ≤ s.level → Gives (.dbgacc 1 ca data) s fun u => u.regs = s.regs ∧ u.mem = s.mem ∧
        bits (u.rind.jtag.dr >>> 64 |>.setWidth 64) 41 40 = 1)) ∧
    (s.jtagOn = false → ∀ (cells : List Bool) (op : Fin 4) (ca : Ca) (data : Word), ∀ c ∈ [Instr.idcode, .bypass, .samplePreload cells, .extest cells, .dbgacc op ca data], exec c s = .next s)

/-- A snapshot copies every counter of its TEL_ block into its snapshot registers and the time copy beside them; an armed one does so in a cycle of its clock once the time copy reaches the armed time, and the block is armed no more (R414). A write of TEL_SNAPAT arms every powered block, or with 0 none. The time copy of every powered field is set from fabric time (R413). Clearing a selected bundle's lane counts makes them 0; a bundle that the link named does not have is a reserved combination, which is rejected, and a link that the station does not own or a bundle that no link has is not stored and records an event (R7, R415). A sensor's new reading, that of a cellar's dies with the grant of its port (Table 9-1), becomes VALUE with VALID set, and PEAK where it exceeds it or PEAK was read since (R416). A write into a scan window of a tile at rest changes only that tile; otherwise it is rejected (R401, R425). No memory changes. -/
def Obligations.CountersAreSnapshotAndClocksCopied : Prop :=
  ∀ s : State,
    (∀ (ca : Ca) k g is, Lands s ca.toNat k g is → g.tag = .telSnap → Gives (.snapshot ca) s fun u => Snapped s u (blockBase ca.toNat)) ∧
    (s.rind.pins.standby = true → ∀ t : Word, Gives (.snapshotArm t) s fun u => u.reg snapatCa = t ∧ OthersKept s u snapatCa ∧
      ∀ b, b ∈ u.rind.armed ↔ t ≠ 0 ∧ b ∈ telBlocks ∧ s.powered b = true) ∧
    (∀ ca : Ca, s.rind.armed.contains (blockBase ca.toNat) = true →
      (s.telClocked (blockBase ca.toNat) = true → (s.reg snapatCa).toNat ≤ (s.timeCopy (caParts (blockBase ca.toNat)).field).toNat → Gives (.armedSnapshot ca) s fun u =>
        Snapped s u (blockBase ca.toNat) ∧ u.rind.armed = s.rind.armed.erase (blockBase ca.toNat)) ∧
      (s.telClocked (blockBase ca.toNat) = false ∨ (s.timeCopy (caParts (blockBase ca.toNat)).field).toNat < (s.reg snapatCa).toNat →
        exec (.armedSnapshot ca) s = .next s)) ∧
    (Gives .timeCopySet s fun u => u = { s with times := u.times } ∧ ∀ f < 48,
      (s.fieldState f ≠ 0 ∧ s.fieldState f ≠ 6 → u.timeCopy f = s.now) ∧ (s.fieldState f = 0 ∨ s.fieldState f = 6 → u.timeCopy f = s.timeCopy f)) ∧
    (∀ (f : FieldNo) (link : Fin 32) (dir : Bool) (bundle : Byte), s.answers (laneselCa f) = true → s.claims (laneselCa f) = false →
      (ownsLink f link.val = true → bundle.toNat < linkBundles link.val → Gives (.laneCountClear f link dir bundle) s fun u =>
        (∀ i < 17, tget 0 (u.fieldSt f.val).lanes (laneKey link.val dir bundle.toNat i) = 0) ∧ OthersKept s u (laneselCa f)) ∧
      (ownsLink f link.val = true → linkBundles link.val ≤ bundle.toNat → bundle.toNat < 195 → Gives (.laneCountClear f link dir bundle) s fun u =>
        Rejected s u (laneselCa f) ∧ u.fields = s.fields) ∧
      (ownsLink f link.val = false ∨ 195 ≤ bundle.toNat → Gives (.laneCountClear f link dir bundle) s fun u => OthersKept s u (laneselCa f) ∧
        (ownsLink f link.val = false → u.fld (laneselCa f) 20 16 = s.fld (laneselCa f) 20 16) ∧
        (195 ≤ bundle.toNat → u.fld (laneselCa f) 7 0 = s.fld (laneselCa f) 7 0) ∧ ∃ ev : Event, u.events = s.events ++ [ev] ∧ ev.code = 0x04)) ∧
    (∀ (place : Option FieldNo) (n : Fin 12) (v : BitVec 16), s.powered (sensCa place n.val) = true → (place = none → n.val < 6) →
      (∀ f, place = some f → n = 11 → 0 < (s.arb (arbBase (.cellar f))).grants.getD 4 0) →
      Gives (.sensorUpdate place n v) s fun u => u.bit (sensCa place n.val) 63 = true ∧ u.fld (sensCa place n.val) 15 0 = v.toNat ∧
        u.fld (sensCa place n.val) 47 32 = (if s.rind.peaks.contains (sensCa place n.val) = true ∧
          v.toInt ≤ (BitVec.ofNat 16 (s.fld (sensCa place n.val) 47 32)).toInt then s.fld (sensCa place n.val) 47 32 else v.toNat) ∧
        sensCa place n.val ∈ u.rind.peaks ∧ OthersKept s u (sensCa place n.val)) ∧
    (∀ (ca : Ca) (v : Word) g is, Lands s ca.toNat .tile g is → g.tag = .scan →
      (s.scanOk (tileOfCa (caParts ca.toNat)) (caParts ca.toNat).off = true → Gives (.scanWrite ca v) s fun u => u.regs = s.regs ∧ u.mem = s.mem ∧ u.events = s.events ∧
        (∀ t', t' ≠ tileOfCa (caParts ca.toNat) → u.tile t' = s.tile t') ∧
        (0x2000 ≤ (caParts ca.toNat).off → (caParts ca.toNat).off < 0x3000 →
          (u.eng (tileOfCa (caParts ca.toNat)) (Fin.ofNat 3 (((caParts ca.toNat).off - 0x2000) / 64)) (Fin.ofNat 4 ((caParts ca.toNat).off % 64 / 16))).gen = v.setWidth 8)) ∧
      (s.scanOk (tileOfCa (caParts ca.toNat)) (caParts ca.toNat).off = false → Gives (.scanWrite ca v) s fun u => Rejected s u ca.toNat))

/-- While the sideband answers (standby power, RESET# high, no firmware restart: R419, R433), every MCTP control command and PLDM command sends its one answer and changes nothing else but the endpoint ID or the event receiver that it sets: GETPDR the n-th of 109 records and the number of the next, GETSENSORREADING the latest sample or UNSUPPORTED, GETSTATESENSORREADINGS the state of a power domain (Table 18-5). A sensor event is sent once as a PLATFORMEVENTMESSAGE and, unacknowledged, again up to three times (R420). While it is silent nothing changes. The codes in the type and command lists are the model's (notes/assumptions/63). -/
def Obligations.TheSidebandAnswers : Prop :=
  ∀ s : State,
    (s.sideOn = true →
      (∀ e, Gives (.setEndpointId e) s fun u => Says s u (.eid e) ∧ u.rind.side.eid = e ∧ u.rind.side.receiver = s.rind.side.receiver) ∧
      (Gives .getEndpointId s fun u => Says s u (.eid s.rind.side.eid) ∧ SideKept s u) ∧
      (Gives .getEndpointUuid s fun u => Says s u (.uuid Config.uuid) ∧ SideKept s u) ∧
      (Gives .getMctpVersionSupport s fun u => Says s u (.version Config.mctpVersion) ∧ SideKept s u) ∧
      (Gives .getMessageTypeSupport s fun u => Says s u (.types [0, 1]) ∧ SideKept s u) ∧
      (Gives .gettid s fun u => Says s u (.tid Config.terminusId) ∧ SideKept s u) ∧
      (∀ ty, Gives (.getpldmversion ty) s fun u => Says s u (if ty = 0 ∨ ty = 2 then .version Config.pldmVersion else .unsupported) ∧ SideKept s u) ∧
      (Gives .getpldmtypes s fun u => Says s u (.types [0, 2]) ∧ SideKept s u) ∧
      (∀ ty, Gives (.getpldmcommands ty) s fun u => SideKept s u ∧ (ty ≠ 0 → ty ≠ 2 → Says s u .unsupported) ∧
        (ty = 0 ∨ ty = 2 → ∃ l, Says s u (.commands l))) ∧
      (∀ n, Gives (.getpdr n) s fun u => SideKept s u ∧
        (n.toNat < 11 → Says s u (.pdr (([1, 2, 3, 4, 5, 6, 0x10, 0x11, 0x12, 0x13, 0x14] : List Nat).getD n.toNat 0) 0 (n.toNat + 1))) ∧
        (11 ≤ n.toNat → n.toNat < 59 → Says s u (.pdr (0x100 + (n.toNat - 11)) 0 (n.toNat + 1))) ∧
        (59 ≤ n.toNat → n.toNat < 108 → Says s u (.pdr (0x200 + (n.toNat - 59)) 1 (n.toNat + 1))) ∧
        (n.toNat = 108 → Says s u (.pdr 0x231 1 0)) ∧ (108 < n.toNat → Says s u .unsupported)) ∧
      (∀ id : BitVec 16,
        (1 ≤ id.toNat → id.toNat ≤ 6 → Gives (.getsensorreading id) s fun u => Says s u (.reading (s.fld (sensCa none (id.toNat - 1)) 15 0)) ∧ SideKept s u) ∧
        (0x100 ≤ id.toNat → id.toNat < 0x130 → Gives (.getsensorreading id) s fun u => Says s u (.reading (s.fld (domCa (id.toNat - 0x100 + 1)) 47 40)) ∧ SideKept s u) ∧
        (id = 0x10 → Gives (.getsensorreading id) s fun u => Says s u (.reading (s.fld pwrMeasCa 63 48)) ∧ SideKept s u) ∧
        (id = 0x13 → Gives (.getsensorreading id) s fun u => Says s u (.reading ((s.reg energyCa).toNat / 1000000000 % 2 ^ 32)) ∧ SideKept s u) ∧
        (id = 0x11 → Gives (.getsensorreading id) s fun u => Says s u (.reading (s.fld pwrMeasCa 47 32)) ∧ SideKept s u) ∧
        (id = 0x12 → Gives (.getsensorreading id) s fun u => Says s u (.reading (s.fld pwrMeasCa 31 16)) ∧ SideKept s u) ∧
        (id = 0x14 → Gives (.getsensorreading id) s fun u => Says s u (.reading s.capLevel) ∧ SideKept s u) ∧
        (id = 0 ∨ (6 < id.toNat ∧ id.toNat < 0x10) ∨ (0x14 < id.toNat ∧ id.toNat < 0x100) ∨ 0x130 ≤ id.toNat → Gives (.getsensorreading id) s fun u => Says s u .unsupported ∧ SideKept s u) ∧
        (0x200 ≤ id.toNat → id.toNat < 0x232 → Gives (.getstatesensorreadings id) s fun u => Says s u (.states [s.domState (id.toNat - 0x200)]) ∧ SideKept s u) ∧
        (id.toNat < 0x200 ∨ 0x232 ≤ id.toNat → Gives (.getstatesensorreadings id) s fun u => Says s u .unsupported ∧ SideKept s u)) ∧
      (∀ e, Gives (.seteventreceiver e) s fun u => Says s u .done ∧ u.rind.side.receiver = some e ∧ u.rind.side.eid = s.rind.side.eid) ∧
      (∀ a b rest, s.rind.side.events = (a, b, 0) :: rest →
        (Gives (.platformeventmessage true) s fun u => u.rind.side.sent = s.rind.side.sent ++ [.event a b] ∧ u.rind.side.events = rest ∧ u.regs = s.regs) ∧
        (Gives (.platformeventmessage false) s fun u => u.rind.side.sent = s.rind.side.sent ++ [.event a b] ∧ u.rind.side.events = (a, b, 1) :: rest ∧ u.regs = s.regs)) ∧
      (∀ a b n rest, s.rind.side.events = (a, b, n + 1) :: rest →
        (Gives (.eventMessageRetry true) s fun u => u.rind.side.sent = s.rind.side.sent ++ [.event a b] ∧ u.rind.side.events = rest ∧ u.regs = s.regs) ∧
        (n < 2 → Gives (.eventMessageRetry false) s fun u => u.rind.side.sent = s.rind.side.sent ++ [.event a b] ∧ u.rind.side.events = (a, b, n + 2) :: rest ∧ u.regs = s.regs) ∧
        (2 ≤ n → Gives (.eventMessageRetry false) s fun u => u.rind.side.sent = s.rind.side.sent ++ [.event a b] ∧ u.rind.side.events = rest ∧ u.regs = s.regs))) ∧
    (s.sideOn = false → ∀ (e : Byte) (id : BitVec 16) (ack : Bool),
      ∀ c ∈ [Instr.setEndpointId e, .getEndpointId, .getEndpointUuid, .getMctpVersionSupport, .getMessageTypeSupport, .gettid, .getpldmversion e, .getpldmtypes,
        .getpldmcommands e, .getpdr e, .getsensorreading id, .getstatesensorreadings id, .seteventreceiver e, .platformeventmessage ack, .eventMessageRetry ack],
        exec c s = .next s)

/-- With its engine on, a half-port moves from SIGNAL to LOCK at light, to ALIGN when at least MINLANES lanes lock, to IDENT once aligned with three intact control slots received, and no earlier, and to UP where the identities agree as R327 says, and only then; a step that exceeds its limit returns it to SIGNAL and counts (R326, R327, R329). A write of ROLE restarts training at SIGNAL or, with off, stops it, and a module whose time parent this is is not locked any more (R331, notes/assumptions/83). A lane that loses lock leaves the lane set; below MINLANES a half-port in UP is FAILED (R329). Lanes due for recalibration, by their errors or by the time since their last, wait in order; one takes 23 units, each granted by the lane-time arbiter (R303), repeats at most twice when more than 16 symbol errors are counted, and then fails with an event (R328). An engine tells every other engine that is on the states and credits of its half-ports (R330). No memory changes. -/
def Obligations.HalfPortsTrainAndRecalibrate : Prop :=
  ∀ (s : State) (h : Fin 96), s.engineOn (hpField h) = true →
    (s.hpState h = 1 → Gives (.signalDetect h) s fun u => u.hpState h = 2 ∧ TrainKept s u (hpstatCa h)) ∧
    (s.hpState h = 2 → ∀ locked : BitVec 16,
      (s.minLanes h ≤ laneCount locked → Gives (.laneLock h locked) s fun u => u.hpState h = 3 ∧ u.fld (hpstatCa h) 47 32 = locked.toNat ∧
        (u.hport h).rxBad = ~~~locked ∧ (u.hport h).intact = 0 ∧ PortsKept s u h ∧ OthersKept s u (hpstatCa h)) ∧
      (laneCount locked < s.minLanes h → exec (.laneLock h locked) s = .next s)) ∧
    (s.hpState h = 3 → ((s.hport h).intact = 3 → Gives (.alignComplete h) s fun u => u.hpState h = 4 ∧ TrainKept s u (hpstatCa h)) ∧
      ((s.hport h).intact < 3 → exec (.alignComplete h) s = .next s)) ∧
    (s.hpState h = 4 →
      (s.identOk h = true → Gives (.identToUp h) s fun u => u.hpState h = 5 ∧ (u.hport h).replay = [] ∧ (u.hport h).rxSeq = 0 ∧ (u.hport h).txSeq = 0 ∧
        PortsKept s u h ∧ OthersKept s u (hpstatCa h)) ∧
      (s.identOk h = false → exec (.identToUp h) s = .next s)) ∧
    (s.hpState h = 2 ∨ s.hpState h = 3 → Gives (.trainingTimeout h) s fun u => u.hpState h = 1 ∧
      u.fld (hpCa h 0x20) 19 16 = min 15 (s.fld (hpCa h 0x20) 19 16 + 1) ∧ (∀ ca, ca ≠ hpstatCa h → ca ≠ hpCa h 0x20 → u.reg ca = s.reg ca) ∧
      u.mem = s.mem ∧ u.hports = s.hports) ∧
    (s.answers (hpCa h 0) = true → s.claims (hpCa h 0) = false → ∀ v : Word, Gives (.roleWrite (caOf (hpCa h 0)) v) s fun u =>
      u.hpRole h = bits v 1 0 ∧ u.hpState h = (if bits v 1 0 = 0 then 0 else 1) ∧ (u.hport h).replay = [] ∧ PortsKept s u h ∧
      (u.bit (fabricCa 0x28) 63 = (s.bit (fabricCa 0x28) 63 && (s.bit (fabricCa 0x20) 8 || s.fld (fabricCa 0x20) 6 0 != h.val))) ∧
      (∀ ca, ca ≠ hpstatCa h → ca ≠ hpCa h 0 → ca ≠ fabricCa 0x28 → u.reg ca = s.reg ca) ∧ u.mem = s.mem) ∧
    (∀ lane : Fin 16, s.bit (hpstatCa h) (32 + lane.val) = true → Gives (.lockedLaneLoss h lane) s fun u =>
      u.bit (hpstatCa h) (32 + lane.val) = false ∧ u.mem = s.mem ∧
      (s.hpState h ≠ 5 → u.hpState h = s.hpState h ∧ TrainKept s u (hpstatCa h)) ∧
      (s.hpState h = 5 → s.minLanes h < laneCount (BitVec.ofNat 16 (s.fld (hpstatCa h) 47 32)) → u.hpState h = 5 ∧ TrainKept s u (hpstatCa h)) ∧
      (s.hpState h = 5 → laneCount (BitVec.ofNat 16 (s.fld (hpstatCa h) 47 32)) ≤ s.minLanes h → u.hpState h = 6 ∧ u.bit (engFlagsCa (hpField h)) 5 = true ∧
        ∃ ev ∈ u.events, ev.code = 0x0E)) ∧
    (∀ lane : Fin 16, s.bit (hpstatCa h) (32 + lane.val) = true → s.laneDue h lane = true → lane ∉ (s.hport h).recalQ → (∀ l n a, (s.hport h).recal = some (l, n, a) → l ≠ lane) →
      Gives (.recalibrationStart h lane) s fun u => (u.hport h).recalQ = (s.hport h).recalQ ++ [lane] ∧ PortsKept s u h ∧ u.regs = s.regs ∧ u.mem = s.mem) ∧
    (∀ (errs : Nat) (l : Fin 16) (r : List (Fin 16)), LaneGrant s h → (s.hport h).recal = none → (s.hport h).recalQ = l :: r → Gives (.recalibration h errs) s fun u =>
      (u.hport h).recal = some (l, 1, 0) ∧ (u.hport h).recalQ = r ∧ u.fld (hpstatCa h) 12 8 = l.val ∧ PortsKept s u h ∧ OthersKept s u (hpstatCa h)) ∧
    (∀ (errs n a : Nat) (l : Fin 16), LaneGrant s h → (s.hport h).recal = some (l, n, a) →
      (n < 23 → Gives (.recalibration h errs) s fun u => (u.hport h).recal = some (l, n + 1, a) ∧ PortsKept s u h ∧ u.regs = s.regs ∧ u.mem = s.mem) ∧
      (23 ≤ n → errs ≤ 16 → Gives (.recalibration h errs) s fun u => (u.hport h).recal = none ∧ u.fld (hpstatCa h) 12 8 = 31 ∧ PortsKept s u h ∧ OthersKept s u (hpstatCa h)) ∧
      (23 ≤ n → 16 < errs → a < 2 → Gives (.recalibration h errs) s fun u => (u.hport h).recal = some (l, 1, a + 1) ∧ PortsKept s u h ∧ u.regs = s.regs ∧ u.mem = s.mem) ∧
      (23 ≤ n → 16 < errs → 2 ≤ a → Gives (.recalibration h errs) s fun u => (u.hport h).recal = none ∧ u.bit (hpstatCa h) (32 + l.val) = false ∧
        (u.hport h).rxBad.getLsbD l.val = true ∧ PortsKept s u h ∧ u.mem = s.mem ∧ ∃ ev ∈ u.events, ev.code = 0x0D)) ∧
    (Gives (.statusNotice (hpField h)) s fun u => u.regs = s.regs ∧ u.mem = s.mem ∧ u.hports = s.hports ∧
      ∀ g : FieldNo, g ≠ hpField h → s.engineOn g.val = true → tget {} (u.engine g).view h.val = ⟨s.hpState h == 5, (s.hport h).used⟩ ∧ (u.engine g).inbox = (s.engine g).inbox)

/-- The codewords received on a half-port make up frames: up to 15 wrong symbols of one are corrected and counted, with more all its symbols are lost (R305, R306). A frame whose control slot is sound releases the acknowledged flits, copies the credits and takes an intact flit in sequence into its packet's buffer, one hop on; a flit that is not brings a NAK (R307–R309). A frame whose control slot fails asks for a resend, and the fourth in a row fails the half-port (R329). A due resend sends the replay buffer again, and RETRYMAX of one flit fail the half-port. The head flit of a packet for a member of the own group with one UP candidate settles its way there; one that has made five hops is discarded with event 0x18 (R317, R319). A flit that its output grants goes to its half-port's replay buffer under the next sequence number, with a credit of its channel (R308–R310). The flits of a packet for this module are collected; with the last the packet reaches its field, or with a failed ECRC is discarded with event 0x17 (R314, R316). A RED packet, of the field or of a child module, fills or joins its slot; with none matching it is an error, and a complete slot goes to the parent or waits at the root (R321, R322); a handled result frees its slot and advances NEXTC (R323). -/
def Obligations.FramesRoutesAndModuleTrees : Prop :=
  ∀ (s : State),
    (∀ (h : Fin 96) (c : Codeword), s.engineOn (hpField h) = true → 3 ≤ s.hpState h → s.hpState h ≤ 5 → (s.hport h).rxLen + 514 < 4736 →
      Gives (.frame h [c]) s fun u => u.mem = s.mem ∧ u.engines = s.engines ∧ PortsKept s u h ∧
        u.hport h = { (if c.bad ≠ [] ∧ c.bad.eraseDups.length ≤ 15 then HpSt.note (s.hport h) s.rind.ticks c.bad.eraseDups else s.hport h) with
                                     rxLen := (s.hport h).rxLen + 514, rxBits := (s.hport h).rxBits + c.msg.toNat <<< (10 * (s.hport h).rxLen)
                                     rxLost := (s.hport h).rxLost + lostBits c <<< (s.hport h).rxLen } ∧
        (15 < c.bad.eraseDups.length → u.fld (hpCa h 0x20) 31 20 = min 4095 (s.fld (hpCa h 0x20) 31 20 + 1) ∧ OthersKept s u (hpCa h 0x20)) ∧
        (c.bad = [] → u.regs = s.regs) ∧
        (c.bad ≠ [] → c.bad.eraseDups.length ≤ 15 → u.fld (hpCa h 0x20) 63 32 = min (2 ^ 32 - 1) (s.fld (hpCa h 0x20) 63 32 + 1))) ∧
    (∀ (h : Fin 96) (c : Codeword), s.engineOn (hpField h) = true → s.hpState h = 5 → 4736 ≤ (s.hport h).rxLen + 514 →
      let f := frameWith s h c
      let k := ctlOf (slotBits f.1 0)
      (slotLost f.2 0 = true ∨ ctlGood (slotBits f.1 0) = false →
        ((s.hport h).failed < 3 → Gives (.frame h [c]) s fun u => u.hpState h = 5 ∧ (u.hport h).nak = true ∧
          (u.hport h).failed = (s.hport h).failed + 1 ∧ PortsKept s u h ∧ u.mem = s.mem ∧ u.engines = s.engines) ∧
        (3 ≤ (s.hport h).failed → Gives (.frame h [c]) s fun u => u.hpState h = 6 ∧ (u.hport h).replay = [] ∧ u.mem = s.mem ∧ ∃ ev ∈ u.events, ev.code = 0x0E)) ∧
      (slotLost f.2 0 = false → ctlGood (slotBits f.1 0) = true → s.reg (hpCa h 0x10) = k.serial → s.fld (hpCa h 0x18) 47 32 = k.modid.toNat →
        (frameFlits k f.1 f.2 = [] → Gives (.frame h [c]) s fun u => u.hpState h = 5 ∧ (u.hport h).failed = 0 ∧ PortsKept s u h ∧ u.mem = s.mem ∧ u.engines = s.engines ∧
          (k.ackv = true → ∀ e, e ∈ (u.hport h).replay ↔ e ∈ (s.hport h).replay ∧ 32768 ≤ (k.ackseq - e.1).toNat) ∧
          (k.ackv = false → (u.hport h).replay = (s.hport h).replay) ∧ (k.nak = true → (u.hport h).resend = some k.ackseq) ∧
          (∀ i < 20, (u.hport h).used.getD i 0 = (s.hport h).used.getD i 0 - (k.cred.getD i 0 - (s.hport h).cred.getD i 0).toNat)) ∧
        (∀ w : FabFlit, frameFlits k f.1 f.2 = [(w, true)] → k.fseq = (s.hport h).rxSeq → Gives (.frame h [c]) s fun u =>
          (u.hport h).rxSeq = (s.hport h).rxSeq + 1 ∧ u.mem = s.mem ∧ ((∀ x ∈ (s.engine (hpField h)).inbox, Arriving h w x = false) →
            ∃ x, (u.engine (hpField h)).inbox = (s.engine (hpField h)).inbox ++ [x] ∧ x.from_ = .port h.val ∧ x.got = 1 ∧ x.out = .open_ ∧
              x.flits = [flitHop w (flitGet w 143 141 + 1)] ∧ x.n = flitCount (flitHop w (flitGet w 143 141 + 1))) ∧
          (∀ (l r : List FabIn) (x : FabIn), (s.engine (hpField h)).inbox = l ++ x :: r → Arriving h w x = true → (∀ y ∈ l ++ r, Arriving h w y = false) →
            (u.engine (hpField h)).inbox = l ++ { x with got := x.got + 1, flits := x.flits ++ [w] } :: r)) ∧
        (∀ (w : FabFlit) (good : Bool), frameFlits k f.1 f.2 = [(w, good)] → k.fseq ≠ (s.hport h).rxSeq ∨ good = false →
          (k.fseq - (s.hport h).rxSeq).toNat < 32768 → Gives (.frame h [c]) s fun u => (u.hport h).rxSeq = (s.hport h).rxSeq ∧
            (u.hport h).nak = true ∧ u.engines = s.engines ∧ u.mem = s.mem))) ∧
    (∀ (h : Fin 96) (q : BitVec 16) (e : BitVec 16 × FabFlit) (r : List (BitVec 16 × FabFlit)), s.engineOn (hpField h) = true → s.hpState h = 5 →
      (s.hport h).resend = some q → (s.hport h).replay = e :: r →
      let again := if e.1 = q + 1 then (s.hport h).again + 1 else 1
      (again < s.fld (engineCa (hpField h) 0 0) 55 48 → Gives (.flitResend h) s fun u => (u.hport h).resend = none ∧ (u.hport h).again = again ∧
        (u.hport h).replay = (s.hport h).replay ∧ u.hpState h = 5 ∧ PortsKept s u h ∧ OthersKept s u (hpCa h 0x20)) ∧
      (s.fld (engineCa (hpField h) 0 0) 55 48 ≤ again → Gives (.flitResend h) s fun u => u.hpState h = 6 ∧ PortsKept s u h ∧ u.mem = s.mem)) ∧
    (∀ (e : FieldNo) (n : Nat) (p : Packet), s.engineOn e.val = true → s.moduleValid = true → s.atSpine e n = some p → p.head.xm = true → p.head.mcg = none →
      fabKind p.body = true → Gives (.fabricRoute e (.spine n)) s fun u => u.net = s.net.eraseIdx n ∧ u.regs = s.regs ∧ u.mem = s.mem ∧
        ∃ x, (u.engine e).inbox = (s.engine e).inbox ++ [x] ∧ x.from_ = .here ∧ x.out = .open_ ∧
          x.flits = fabFlits (fabForm { p.head with xm := false } p.body)) ∧
    (∀ (e : FieldNo) (n : Nat) (x : FabIn), s.engineOn e.val = true → (s.engine e).inbox[n]? = some x → EngSt.preceded (s.engine e) n x = false →
      (x.out = .open_ → FabIn.hasHead x = true → s.moduleValid = true → fabKind (FabIn.pkt x).body = true → (FabIn.pkt x).head.dmod ≠ s.moduleId →
        (5 ≤ (FabIn.pkt x).hop → Gives (.fabricRoute e (.inbox n)) s fun u => u.net = s.net ∧ u.mem = s.mem ∧ ∃ ev ∈ u.events, ev.code = 0x18) ∧
        (∀ h, (FabIn.pkt x).hop < 5 → (FabIn.pkt x).val = false → (FabIn.pkt x).head.dmod / 64 = s.ownGroup →
          s.memberCand e ((FabIn.pkt x).head.dmod % 64) = [h] → Gives (.fabricRoute e (.inbox n)) s fun u =>
            (u.engine e).inbox = (s.engine e).inbox.set n { x with head := flitRoute x.head false (FabIn.pkt x).igrp, out := .port (hpNo h) } ∧
            u.net = s.net ∧ u.hports = s.hports ∧ u.regs = s.regs ∧ u.mem = s.mem ∧ u.events = s.events)) ∧
      (∀ h : Fin 96, x.out = .port h → x.flits ≠ [] → (FabIn.hasHead x = true → s.hpUp e h.val = true) → s.fabFree e h (FabIn.chan x) = true →
        s.fabGrants h ⟨e, n, FabIn.chan x, FabIn.input x e (hpField h), FabIn.begun x⟩ = true → Gives (.fabricRoute e (.inbox n)) s fun u =>
          (u.hport h).replay = (s.hport h).replay ++ [((s.hport h).txSeq, flitSeal (if FabIn.hasHead x = true then x.head else x.flits.headD 0))] ∧
          (u.hport h).txSeq = (s.hport h).txSeq + 1 ∧ (∀ g, g ≠ h → (u.hport g).replay = (s.hport g).replay ∧ (u.hport g).used = (s.hport g).used) ∧
          (FabIn.pop x 1 = none → (u.engine e).inbox = (s.engine e).inbox.eraseIdx n) ∧
          (∀ y, FabIn.pop x 1 = some y → (u.engine e).inbox = (s.engine e).inbox.set n y) ∧ u.net = s.net ∧ u.mem = s.mem ∧ u.events = s.events)) ∧
    (∀ (e : FieldNo) (n : Nat) (x : FabIn) (f : FieldNo), s.forHere e n = some (x, f) → flitKind x.head ≠ 10 →
      let y := collected x
      (FabIn.whole y = false → Gives (.fabricDelivery e n) s fun u => (u.engine e).inbox = (s.engine e).inbox.set n y ∧ u.net = s.net ∧ u.mem = s.mem ∧
        u.events = s.events) ∧
      (FabIn.whole y = true → FabIn.ecrc y = true → s.serves f.val = true → Gives (.fabricDelivery e n) s fun u =>
        Sent u s.net (FabIn.pkt y).head (FabIn.pkt y).body ∧ (u.engine e).inbox = (s.engine e).inbox.eraseIdx n ∧ u.mem = s.mem ∧ u.events = s.events) ∧
      (FabIn.whole y = true → FabIn.ecrc y = false → Gives (.fabricDelivery e n) s fun u => u.net = s.net ∧ (u.engine e).inbox = (s.engine e).inbox.eraseIdx n ∧
        u.mem = s.mem ∧ u.bit (engFlagsCa f) 0 = true ∧ ∃ ev : Event, u.events = s.events ++ [ev] ∧ ev.code = 0x17)) ∧
    (∀ (e : FieldNo) (n : Nat) (p : Packet) (r : RedBody) (resid : List (Fin 10)), s.engineOn e.val = true → s.atSpine e n = some p → p.body = .red r → p.head.xm = false →
      (s.xtreeFind e r.tree p.head.job.val = none → Gives (.xtreeCombine e (.spine n) resid) s fun u => u.net = s.net.eraseIdx n ∧ u.engines = s.engines ∧ u.mem = s.mem ∧
        u.bit (engFlagsCa e) 3 = true ∧ ∃ ev : Event, u.events = s.events ++ [ev] ∧ ev.code = 0x17) ∧
      (∀ k, s.xtreeFind e r.tree p.head.job.val = some k → s.xslot e (s.xkey e k r.chunk) = none → 1 < s.fld (xtreeCa e k 0) 55 50 →
        Gives (.xtreeCombine e (.spine n) resid) s fun u => u.net = s.net.eraseIdx n ∧ u.mem = s.mem ∧ u.events = s.events ∧
          u.xslot e (s.xkey e k r.chunk) = some ⟨r.chunk, 1, { r with cnt := 0 }, 1, p.head.job, .gather⟩) ∧
      (∀ k (x : XSlot), s.xtreeFind e r.tree p.head.job.val = some k → s.xslot e (s.xkey e k r.chunk) = some x → x.chunk = r.chunk → x.stage = .gather →
        Gives (.xtreeCombine e (.spine n) resid) s fun u => u.net = s.net.eraseIdx n ∧ u.mem = s.mem ∧
          ∃ y, u.xslot e (s.xkey e k r.chunk) = some y ∧ y.mcnt = x.mcnt + 1 ∧ y.got = x.got + 1 ∧
            (x.got + 1 < s.fld (xtreeCa e k 0) 55 50 → y.stage = .gather ∧ (u.engine e).inbox = (s.engine e).inbox) ∧
            (s.fld (xtreeCa e k 0) 55 50 ≤ x.got + 1 → s.bit (xtreeCa e k 0) 60 = true → y.stage = .result ∧ (u.engine e).inbox = (s.engine e).inbox) ∧
            (s.fld (xtreeCa e k 0) 55 50 ≤ x.got + 1 → s.bit (xtreeCa e k 0) 60 = false → y.stage = .sent ∧
              (u.engine e).inbox.length = (s.engine e).inbox.length + 1)) ∧
      (∀ k (x : XSlot), s.xtreeFind e r.tree p.head.job.val = some k → s.xslot e (s.xkey e k r.chunk) = some x → x.chunk ≠ r.chunk ∨ x.stage ≠ .gather →
        exec (.xtreeCombine e (.spine n) resid) s = .next s)) ∧
    (∀ (e f : FieldNo) (n k : Nat) (x : FabIn) (r : RedBody) (resid : List (Fin 10)), s.forHere e n = some (x, f) → (FabIn.pkt x).body = .red r →
      (FabIn.pkt x).down = false → FabIn.ecrc (collected x) = true → s.xtreeFind f r.tree (FabIn.pkt x).head.job.val = some k →
      s.xslot f (s.xkey f k r.chunk) = none → 1 < s.fld (xtreeCa f k 0) 55 50 → Gives (.xtreeCombine e (.inbox n) resid) s fun u =>
        (u.engine e).inbox = (s.engine e).inbox.eraseIdx n ∧ u.mem = s.mem ∧ u.events = s.events ∧
        u.xslot f (s.xkey f k r.chunk) = some ⟨r.chunk, 1, r, (FabIn.pkt x).mcnt, (FabIn.pkt x).head.job, .gather⟩) ∧
    (∀ (e : FieldNo) (k : Fin 512) (x : XSlot), s.engineOn e.val = true → s.bit (xtreeCa e k.val 0) 63 = true →
      s.xslot e (s.xkey e k.val (s.fld (xtreeCa e k.val 3) 63 40)) = some x → x.chunk = s.fld (xtreeCa e k.val 3) 63 40 → x.stage = .result →
      Gives (.xtreeResult e k none) s fun u => u.xslot e (s.xkey e k.val x.chunk) = none ∧ u.fld (xtreeCa e k.val 3) 63 40 = (x.chunk + 1) % 2 ^ 24) ∧
    (∀ (e : FieldNo) (k : Fin 512) (n : Nat) (x : FabIn) (f : FieldNo) (r : RedBody) (j : Nat) (y : XSlot), s.forHere e n = some (x, f) →
      (FabIn.pkt x).body = .red r → (FabIn.pkt x).down = true → FabIn.ecrc (collected x) = true → s.xtreeFind f r.tree (FabIn.pkt x).head.job.val = some j →
      s.xslot f (s.xkey f j r.chunk) = some y → y.chunk = r.chunk → y.stage = .sent →
      Gives (.xtreeResult e k (some n)) s fun u => u.mem = s.mem ∧ (u.engine e).inbox = (s.engine e).inbox.eraseIdx n ∧
        u.xslot f (s.xkey f j r.chunk) = some { y with body := r, mcnt := (FabIn.pkt x).mcnt, stage := .result })

/-- A write of ISO_TIMESET at the time root sets fabric time; elsewhere it is rejected (R333). A write of ISO_TIMECTL that changes it clears LOCKED and the interval's sums; one that does not leaves them. At the end of an interval a module that is not the root takes the mean of its samples as the offset: locked, it slews by it; unlocked, it steps fabric time by it and is locked (R332). The rounding of the mean is free (notes/assumptions/31). The root and an interval without samples do nothing. -/
def Obligations.FabricTimeIsSetAndSlewed : Prop :=
  ∀ s : State,
    (∀ (ca : Ca) (v : Word) k g is, Lands s ca.toNat k g is → g.tag = .isoTimeset →
      (s.bit (fabricCa 0x20) 8 = true → Gives (.timeset ca v) s fun u => u.now = v ∧ OthersKept s u (fabricCa 0x10)) ∧
      (s.bit (fabricCa 0x20) 8 = false → Gives (.timeset ca v) s fun u => Rejected s u ca.toNat)) ∧
    (∀ (ca : Ca) (v : Word) k g is, Lands s ca.toNat k g is → g.tag = .isoTimectl →
      (storeFields g.fields (s.reg ca.toNat) v = s.reg ca.toNat → Gives (.timectlWrite ca v) s fun u => u.sync = s.sync ∧ u.now = s.now ∧
        u.reg ca.toNat = s.reg ca.toNat ∧ OthersKept s u ca.toNat) ∧
      (storeFields g.fields (s.reg ca.toNat) v ≠ s.reg ca.toNat → Gives (.timectlWrite ca v) s fun u => u.sync = {} ∧ u.now = s.now ∧ u.bit (fabricCa 0x28) 63 = false ∧
        u.reg ca.toNat = storeFields g.fields (s.reg ca.toNat) v ∧ u.mem = s.mem)) ∧
    (s.bit (fabricCa 0x20) 8 = false → s.sync.count ≠ 0 → Gives .timeAdjust s fun u => u.mem = s.mem ∧ u.bit (fabricCa 0x28) 63 = true ∧ u.sync.sum = 0 ∧ u.sync.count = 0 ∧
      ∃ m : Int, (m * (2 * s.sync.count) ≤ s.sync.sum + 2 * s.sync.count ∧ s.sync.sum < (m + 1) * (2 * s.sync.count)) ∧
        (((2 * s.sync.count : Nat) : Int) ∣ s.sync.sum → m = s.sync.sum / ((2 * s.sync.count : Nat) : Int)) ∧
        (s.bit (fabricCa 0x28) 63 = true → u.sync.slew = m ∧ u.now = s.now) ∧
        (s.bit (fabricCa 0x28) 63 = false → u.sync.slew = 0 ∧ u.now = s.now + BitVec.ofInt 64 m)) ∧
    (s.bit (fabricCa 0x20) 8 = true ∨ s.sync.count = 0 → exec .timeAdjust s = .next s)

/-- A running queue with descriptors to fetch reads the next one at its base plus 64 times SQHEAD and advances SQHEAD; with both links down it ends with HOSTERR (R348, R355). The next startable descriptor runs: NOP completes with OK; REGWR writes its register, REGRD reads one into RESULT, a misaligned address gives the event of R341; RESET asks for the reset that VALUE names, or ends with BADDESC where the code is reserved (R349, R365). A completed oldest descriptor's 32-byte entry is written at CQTAIL while the CQ has room (R348). A draining queue with nothing left is disabled (R346). A good doorbell moves SQTAIL or CQHEAD, a bad one puts the queue in error (R347). A due message of an unmasked vector is sent, of a masked one is pending (R354). The oldest event gets its LOGSEQ and log entry (R417). -/
def Obligations.DescriptorsAreFetchedRunAndCompleted : Prop :=
  ∀ (s : State) (q : QueueNo),
    (s.queueState q.val = 1 → s.fld (queueCa q.val 3) 63 48 ≠ (s.queue q.val).tail → QueueSt.incomplete (s.queue q.val) < 32 →
      (∀ p, s.livePort 0 = some p → Gives (.descriptorFetch q) s fun u => u.fld (queueCa q.val 3) 63 48 = (s.fld (queueCa q.val 3) 63 48 + 1) % s.sqSize q.val ∧
        (u.queue q.val).descs = (s.queue q.val).descs ++ [⟨s.rind.nextId, [], (s.fld (queueCa q.val 3) 63 48 + 1) % s.sqSize q.val, .fetch⟩] ∧ u.mem = s.mem ∧
        ∃ tag, u.rind.tlps = s.rind.tlps ++ [(p, .read (requesterOn p (s.queueFunc q.val)) tag ((s.reg (queueCa q.val 1)).toNat + 64 * s.fld (queueCa q.val 3) 63 48) 64)] ∧
          (∃ op, u.agent.reads = s.agent.reads ++ [(tag, p, op)] ∧ op.use = .desc q.val s.rind.nextId)) ∧
      (s.livePort 0 = none → Gives (.descriptorFetch q) s fun u => DescAt u q.val s.rind.nextId (.done 4 0 0) ∧ u.rind.tlps = s.rind.tlps ∧ u.mem = s.mem)) ∧
    (∀ d, s.startOp q.val 0 = some d → Gives (.descNop q) s fun u => DescAt u q.val d.id (.done 0 0 0) ∧ QueueOnly s u q.val) ∧
    (∀ d k g is, s.startOp q.val 3 = some d → Desc.daddr d % 8 = 0 → Lands s (Desc.daddr d) k g is → g.tag = .plain → woReserved g.fields (Desc.word d 4) = false →
      Gives (.descRegwr q) s fun u => DescAt u q.val d.id (.done 0 0 0) ∧ Stored s u (Desc.daddr d) g (Desc.word d 4)) ∧
    (∀ d, s.startOp q.val 3 = some d → Desc.daddr d % 8 ≠ 0 → Gives (.descRegwr q) s fun u => DescAt u q.val d.id (.done 0 0 0) ∧ u.regs = s.regs ∧ u.mem = s.mem ∧
      ∃ ev : Event, u.events = s.events ++ [ev] ∧ ev.code = 0x04) ∧
    (∀ d, s.startOp q.val 4 = some d →
      (Desc.daddr d % 8 = 0 → Gives (.descRegrd q) s fun u => DescAt u q.val d.id (.done 0 (s.controlRead (Desc.daddr d) true).2.1 0) ∧ u.mem = s.mem) ∧
      (Desc.daddr d % 8 ≠ 0 → Gives (.descRegrd q) s fun u => DescAt u q.val d.id (.done 0 (BitVec.allOnes 64) 0) ∧ u.regs = s.regs ∧ u.mem = s.mem)) ∧
    (∀ d, s.startOp q.val 7 = some d → s.rind.fw.restart = false →
      (bits (Desc.word d 4) 55 53 = 0 → Gives (.descReset q) s fun u => DescAt u q.val d.id (.done 0 0 0) ∧ QueueOnly s u q.val) ∧
      (bits (Desc.word d 4) 55 53 ≠ 0 → resetOk (Desc.word d 4) = false → Gives (.descReset q) s fun u =>
        DescAt u q.val d.id (.done 1 0 0) ∧ QueueOnly s u q.val) ∧
      (resetOk (Desc.word d 4) = true → s.rind.resets = [] → Gives (.descReset q) s fun u => DescAt u q.val d.id .reset ∧
        u.rind.resets = [{ word := Desc.word d 4, q := some q.val }] ∧ QueueOnly s u q.val)) ∧
    (∀ d rest st result detail p, (s.queue q.val).descs = d :: rest → d.st = .done st result detail → s.livePort 0 = some p →
      (s.cqFull q.val = false → Gives (.completionWrite q) s fun u => (u.queue q.val).descs = rest ∧ u.mem = s.mem ∧
        u.fld (queueCa q.val 3) 47 32 = (s.fld (queueCa q.val 3) 47 32 + 1) % s.cqSize q.val ∧
        (u.queue q.val).since = (s.queue q.val).since + 1 ∧
        u.rind.tlps = s.rind.tlps ++ [(p, .write (requesterOn p (s.queueFunc q.val)) ((s.reg (queueCa q.val 2)).toNat + 32 * s.fld (queueCa q.val 3) 47 32)
          (toBytes 8 (st <<< 48 + d.head <<< 32 + bits (Desc.word d 0) 47 32 <<< 16 + Desc.op d <<< 8 + s.fld (queueCa q.val 3) 15 15 <<< 63) ++
            toBytes 8 result.toNat ++ toBytes 8 detail.toNat ++ toBytes 8 s.now.toNat))]) ∧
      (s.cqFull q.val = true → exec (.completionWrite q) s = .next s)) ∧
    (s.queueState q.val = 2 → (s.queue q.val).descs = [] → Gives (.queueDrained q) s fun u => u.queueState q.val = 0 ∧ OthersKept s u (queueCa q.val 3)) ∧
    (∀ (func : Func) (size : Fin 9) (v : BitVec 16), s.linkOf 0 = true → s.queueFunc q.val = func.val → s.queueState q.val = 1 → size.val = 4 ∨ size.val = 8 →
      (v.toNat < s.sqSize q.val → Gives (.sqDoorbell q func size v) s fun u => (u.queue q.val).tail = v.toNat ∧ u.queueState q.val = 1 ∧ u.events = s.events ∧ u.mem = s.mem) ∧
      (s.sqSize q.val ≤ v.toNat → Gives (.sqDoorbell q func size v) s fun u => u.queueState q.val = 3 ∧ (u.queue q.val) = s.queue q.val ∧ u.mem = s.mem ∧
        ∃ ev : Event, u.events = s.events ++ [ev] ∧ ev.code = 0x04) ∧
      (let n := s.cqSize q.val
       let old := s.fld (queueCa q.val 3) 31 16
       let ok := v.toNat < n ∧ (v.toNat + n - old) % n ≤ (s.fld (queueCa q.val 3) 47 32 + n - old) % n
       (ok → Gives (.cqDoorbell q func size v) s fun u => u.fld (queueCa q.val 3) 31 16 = v.toNat ∧ u.queueState q.val = 1 ∧ u.events = s.events ∧ u.mem = s.mem) ∧
       (¬ ok → Gives (.cqDoorbell q func size v) s fun u => u.queueState q.val = 3 ∧ u.fld (queueCa q.val 3) 31 16 = old ∧ u.mem = s.mem))) ∧
    (∀ (func : Func) (size : Fin 9) (v : BitVec 16), s.linkOf 0 = true → s.queueFunc q.val ≠ func.val ∨ s.queueState q.val ≠ 1 → Gives (.sqDoorbell q func size v) s fun u =>
      u.queueState q.val = s.queueState q.val ∧ u.queue q.val = s.queue q.val ∧ u.mem = s.mem ∧ ∃ ev : Event, u.events = s.events ++ [ev] ∧ ev.code = 0x04) ∧
    (s.msixDue q.val = true →
      let k := msixKey (s.queueFunc q.val) (s.fld (queueCa q.val 0) 51 41) 0
      ((s.msixWord (k + 3)).getLsbD 0 = false → ∀ p, s.livePort 0 = some p → Gives (.msixMessage q) s fun u => u.mem = s.mem ∧ (u.queue q.val).since = 0 ∧ ∃ addr data,
        u.rind.tlps = s.rind.tlps ++ [(p, .msix (s.queueFunc q.val) (s.fld (queueCa q.val 0) 51 41) addr data)] ∧ data.toNat = (s.msixWord (k + 2)).toNat) ∧
      ((s.msixWord (k + 3)).getLsbD 0 = true → Gives (.msixMessage q) s fun u => OnlyRind s u ∧ (u.queue q.val).since = 0 ∧ u.rind.tlps = s.rind.tlps ∧
        1024 * s.queueFunc q.val + s.fld (queueCa q.val 0) 51 41 ∈ u.rind.pcie.pba)) ∧
    (∀ e rest, s.events = e :: rest → s.rind.pins.standby = true → Gives .eventRecord s fun u => u.events = rest ∧ u.mem = s.mem ∧ u.reg logNextCa = s.reg logNextCa + 1 ∧
      (let i := (s.reg logNextCa).toNat % 4096
       u.reg (logCa i 0) = BitVec.ofNat 64 (eventWord e) ∧ u.reg (logCa i 1) = e.detail ∧ u.reg (logCa i 2) = s.reg logNextCa ∧ u.reg (logCa i 3) = e.time) ∧
      (s.eventQueue e = none → u.rind.tlps = s.rind.tlps))

/-- While the Rind has a tag left, a copy whose addresses or length R350 does not admit ends with BADDESC; another starts with its first line, which ends at the next 512-byte boundary at either end: H2D asks the host for it, D2H asks its data address, or ends with ADDRERR where the function may not name it (R350). An operation goes with grants of the host-DMA arbiter for its TLPs, behind an earlier one that touches the same bytes (R216, R221): a read is sent on the port that R355 chooses, or the other while that one's link is down, under a tag of its own; a write is posted in TLPs of the port's payload (R338); with both links down a posted write is a host error (R220, R355). A completion ends its read: a descriptor's words arrive and are judged (R349), a line of H2D goes on to its data address; an error or a timeout ends a fetch or a line of a copy with HOSTERR (R338, R350). A completion for no read outstanding changes nothing. -/
def Obligations.CopiesMoveLinesBetweenHostAndModule : Prop :=
  ∀ s : State,
    (∀ (q : QueueNo) (d : Desc), s.rindRoom 1 = true →
      let bad := Desc.haddr d % 8 ≠ 0 ∨ Desc.daddr d % 8 ≠ 0 ∨ Desc.len d % 8 ≠ 0 ∨ Desc.len d < 8 ∨ 2 ^ 30 < Desc.len d
      (s.startOp q.val 1 = some d →
        (bad → Gives (.h2d q) s fun u => DescAt u q.val d.id (.done 1 0 0) ∧ QueueOnly s u q.val) ∧
        (¬ bad → Gives (.h2d q) s fun u => DescAt u q.val d.id (.copy { line := copyLine d 0 }) ∧ u.regs = s.regs ∧ u.mem = s.mem ∧
          u.agent.ops = s.agent.ops ++ [⟨Desc.haddr d, copyLine d 0, none, .h2d q.val d.id, s.funcJob (s.queueFunc q.val)⟩])) ∧
      (s.startOp q.val 2 = some d →
        (bad → Gives (.d2h q) s fun u => DescAt u q.val d.id (.done 1 0 0) ∧ QueueOnly s u q.val) ∧
        (¬ bad → decodeAddr (Desc.daddr d) = .unmapped → Gives (.d2h q) s fun u => DescAt u q.val d.id (.done 3 0 0) ∧ u.regs = s.regs ∧ u.mem = s.mem ∧
          ∃ ev : Event, u.events = s.events ++ [ev] ∧ ev.code = 0x05) ∧
        (∀ f n o, ¬ bad → decodeAddr (Desc.daddr d) = .padLogical f n o → Gives (.d2h q) s fun u => DescAt u q.val d.id (.copy { line := copyLine d 0 }) ∧
          u.mem = s.mem ∧ u.events = s.events ∧ ∃ p : Packet, u.net = s.net ++ [p] ∧ p.body = .rd (Desc.daddr d) (copyLine d 0) ∧ p.head.dfield = f.val ∧ p.head.dsite = n ∧
            p.head.dlog = true ∧ p.head.job = s.funcJob (s.queueFunc q.val)))) ∧
    (∀ (n : Nat) (op : HostOp), s.agent.ops[n]? = some op → (s.agent.ops.take n).any (HostOp.clash op) = false →
      (s.opTlps op).length ≤ (s.arb (arbBase .host)).grants.getD op.job.val 0 →
      (∀ p, s.livePort (s.opPort op) = some p → op.write = none → Gives (.hostMemoryOperation n) s fun u => u.agent.ops = s.agent.ops.eraseIdx n ∧ u.mem = s.mem ∧
        u.events = s.events ∧ ∃ tag, (∀ r ∈ s.agent.reads, r.1 = tag → r.2.1 ≠ p) ∧ u.agent.reads = s.agent.reads ++ [(tag, p, op)] ∧
          u.rind.tlps = s.rind.tlps ++ [(p, .read (requesterOn p (s.opFunc op)) tag op.iova op.len)]) ∧
      (∀ p b, s.livePort (s.opPort op) = some p → op.write = some b → op.use = .posted → Gives (.hostMemoryOperation n) s fun u =>
        u.agent.ops = s.agent.ops.eraseIdx n ∧ u.mem = s.mem ∧ u.events = s.events ∧
        u.rind.tlps = s.rind.tlps ++ (List.range ((b.length + payloadOf p - 1) / payloadOf p)).map fun i =>
          (p, .write (requesterOn p (s.opFunc op)) (op.iova + payloadOf p * i) ((b.drop (payloadOf p * i)).take (payloadOf p)))) ∧
      (∀ b, s.livePort (s.opPort op) = none → op.write = some b → op.use = .posted → Gives (.hostMemoryOperation n) s fun u =>
        u.agent.ops = s.agent.ops.eraseIdx n ∧ u.regs = s.regs ∧ u.mem = s.mem ∧ ∃ ev : Event, u.events = s.events ++ [ev] ∧ ev.code = 0x0C)) ∧
    (∀ (port : Fin 2) (tag : Nat) (op : HostOp), s.readOf port tag = some op →
      let left (u : State) : Prop := u.agent.reads = s.agent.reads.filter fun r => !(r.1 == tag && r.2.1 == port.val)
      (s.linkOf port.val = true → ∀ (q id : Nat) (d : Desc) (b : List Byte), op.use = .desc q id → s.desc q id = some d → op.len = 64 → b.length = 64 →
        let ws := (List.range 8).map fun i => BitVec.ofNat 64 (ofBytes ((b.drop (8 * i)).take 8))
        Gives (.pcieCompletion port tag (some b)) s fun u => left u ∧ u.mem = s.mem ∧ DescAt u q id
          (if Desc.malformed { d with words := ws } then .done 1 0 0 else if opAllowed (Desc.op { d with words := ws }) (s.queueFunc q) then .wait else .done 2 0 0)) ∧
      (s.linkOf port.val = true → ∀ (q id : Nat) (d : Desc) (c : Copy) (b : List Byte) f n o, op.use = .h2d q id → s.copyOf q id = some (d, c) → b.length = op.len →
        decodeAddr (Desc.daddr d + c.moved) = .padLogical f n o → Gives (.pcieCompletion port tag (some b)) s fun u => left u ∧ u.mem = s.mem ∧
          ∃ p : Packet, u.net = s.net ++ [p] ∧ p.body = .wr (Desc.daddr d + c.moved) b ∧ p.head.dfield = f.val ∧ p.head.dsite = n) ∧
      (∀ (q id : Nat) (d : Desc), op.use = .desc q id → s.desc q id = some d →
        (s.linkOf port.val = true → Gives (.pcieCompletion port tag none) s fun u => left u ∧ DescAt u q id (.done 4 0 0) ∧ u.mem = s.mem) ∧
        Gives (.completionTimeout port tag) s fun u => left u ∧ DescAt u q id (.done 4 0 0) ∧ u.regs = s.regs ∧ u.mem = s.mem ∧ u.events = s.events) ∧
      (∀ (q id : Nat) (d : Desc) (c : Copy), op.use = .h2d q id → s.copyOf q id = some (d, c) → c.port1 = false → d.id = id → Gives (.completionTimeout port tag) s fun u =>
        left u ∧ DescAt u q id (.done 4 (BitVec.ofNat 64 c.moved) 0) ∧ u.mem = s.mem)) ∧
    (∀ (port : Fin 2) (tag : Nat) b, s.readOf port tag = none → exec (.pcieCompletion port tag b) s = .next s ∧ exec (.completionTimeout port tag) s = .next s)

/-- With its port up and its function in D0, an aligned 8-byte BAR0 write writes the register that the offset selects, another is discarded with an event; a read of 1, 2, 4 or 8 aligned bytes returns the register's bytes, any other Completer Abort, an offset that selects nothing all ones, and a function not in D0 Unsupported Request (R339-R342). A BAR2 read or write of one line through a valid window sends its request to the data address the window gives, as the function's job domain; through none a read is answered Unsupported Request and a write is dropped (R343, R344). An access waits while the Rind lacks tags for it (notes/assumptions/84). A function reset disables the queues of its function and clears its windows; a VF's also asks for the reset of its domain, the PF's clears VF Enable (R366). PERST# drops its link. VF Enable cleared resets every VF. A function with Power Management goes to D3hot unless one of its queues is enabled (R337). Links go down and up (R355, R388). -/
def Obligations.HostFunctionsAccessAndReset : Prop :=
  ∀ (s : State) (func : Func),
    (s.linkOf (portOf func).val = true → s.funcOn func = true →
      (∀ (off : BitVec 26) (a : Nat) (b : List Byte) k g is, s.barSpot func off.toNat = .ca a → b.length = 8 → a % 8 = 0 → a ≠ tlpCountCa func →
        Lands s a k g is → g.tag = .plain → woReserved g.fields (BitVec.ofNat 64 (ofBytes b)) = false → Gives (.bar0Write func off b) s fun u =>
          u.reg a = storeFields g.fields (s.reg a) (BitVec.ofNat 64 (ofBytes b)) ∧ (∀ ca, ca ≠ a → ca ≠ tlpCountCa func → u.reg ca = s.reg ca) ∧ u.mem = s.mem) ∧
      (∀ (off : BitVec 26) (a : Nat) (b : List Byte), s.barSpot func off.toNat = .ca a → b ≠ [] → b.length ≠ 8 ∨ a % 8 ≠ 0 → Gives (.bar0Write func off b) s fun u =>
        (∀ ca, ca ≠ tlpCountCa func → u.reg ca = s.reg ca) ∧ u.mem = s.mem ∧ ∃ ev : Event, u.events = s.events ++ [ev] ∧ ev.code = 0x04 ∧ ev.detail = BitVec.ofNat 64 a) ∧
      (∀ (off : BitVec 26) (a tag : Nat), s.barSpot func off.toNat = .ca a →
        ∀ len : Fin 4097, let good := (len.val = 1 ∨ len.val = 2 ∨ len.val = 4 ∨ len.val = 8) ∧ off.toNat % len.val = 0
        (good → Gives (.bar0Read func tag off len) s fun u => u.mem = s.mem ∧ Returned s u func tag
          (((toBytes 8 ((s.telRind (4 + (portOf func).val) 1).controlRead (a - a % 8) (decide (len.val = 8))).2.1.toNat).drop (off.toNat % 8)).take len.val)) ∧
        (¬ good → Gives (.bar0Read func tag off len) s fun u => u.mem = s.mem ∧ u.rind.tlps = s.rind.tlps ++ [((portOf func).val, .cplCa func.val tag)] ∧
          ∃ ev : Event, u.events = s.events ++ [ev] ∧ ev.code = 0x04)) ∧
      (∀ (off : BitVec 26) (tag : Nat) (len : Fin 4097), s.barSpot func off.toNat = .none → Gives (.bar0Read func tag off len) s fun u => u.mem = s.mem ∧
        u.events = s.events ∧ Returned s u func tag (List.replicate len.val 0xFF)) ∧
      (∀ (off : BitVec 36) (tag : Nat) (len : Fin 4097) f n o, s.rindRoom 9 = true → func ≠ 5 → (func ≠ 0 → off.toNat / 2 ^ 32 < 4) →
        let w := s.reg (dwinCa func.val (off.toNat / 2 ^ 32))
        let addr := bits w 55 32 <<< 32 + off.toNat % 2 ^ 32
        w.getLsbD 63 = true → decodeAddr addr = .padLogical f n o →
          (∀ b : List Byte, b ≠ [] → addr % 512 + b.length ≤ 512 → Gives (.bar2Access func tag off (some b) len) s fun u => u.mem = s.mem ∧ u.events = s.events ∧
            u.rind.bars = s.rind.bars ∧ ∃ p : Packet, u.net = s.net ++ [p] ∧ p.body = .wr addr b ∧ p.head.dfield = f.val ∧ p.head.dsite = n ∧ p.head.job = s.funcJob func.val) ∧
          (0 < len.val → addr % 512 + len.val ≤ 512 → Gives (.bar2Access func tag off none len) s fun u => u.mem = s.mem ∧ u.events = s.events ∧
            (∃ p : Packet, u.net = s.net ++ [p] ∧ p.body = .rd addr len.val ∧ p.head.dfield = f.val ∧ p.head.dsite = n ∧ p.head.job = s.funcJob func.val) ∧
            u.rind.bars = s.rind.bars ++ [⟨s.rind.nextId, func.val, tag, len.val, 1, [], false⟩])) ∧
      (∀ (off : BitVec 36) (tag : Nat) (len : Fin 4097), s.rindRoom 9 = true → (s.reg (dwinCa func.val (off.toNat / 2 ^ 32))).getLsbD 63 = false →
        (Gives (.bar2Access func tag off none len) s fun u => u.mem = s.mem ∧ u.net = s.net ∧ u.rind.tlps = s.rind.tlps ++ [((portOf func).val, .cplUr func.val tag)]) ∧
        ∀ b, Gives (.bar2Access func tag off (some b) len) s fun u => u.mem = s.mem ∧ u.net = s.net ∧ u.rind.tlps = s.rind.tlps ∧ u.events = s.events)) ∧
    (∀ off tag w len, s.rindRoom 9 = false → exec (.bar2Access func tag off w len) s = .next s) ∧
    (s.linkOf (portOf func).val = true → s.funcOn func = false → (∀ off tag len, Gives (.bar0Read func tag off len) s fun u =>
      u.rind.tlps = s.rind.tlps ++ [((portOf func).val, .cplUr func.val tag)] ∧ u.mem = s.mem) ∧
      ∀ off b, Gives (.bar0Write func off b) s fun u => (∀ ca, ca ≠ tlpCountCa func → u.reg ca = s.reg ca) ∧ u.mem = s.mem ∧ u.rind.tlps = s.rind.tlps) ∧
    (s.linkOf (portOf func).val = true →
      (func = 0 → Gives (.functionLevelReset func) s fun u => u.rind.pcie.vfEnable = false ∧ u.mem = s.mem ∧ (∀ q < 256, s.queueFunc q < 5 → QueueOff u q) ∧
        ∀ f < 5, ∀ i < 16, u.reg (dwinCa f i) = 0) ∧
      (1 ≤ func.val → func.val ≤ 4 → s.rind.pcie.vfEnable = true → Gives (.functionLevelReset func) s fun u => u.mem = s.mem ∧ func.val ∉ u.rind.pcie.d3hot ∧
        (∀ q < 256, s.queueFunc q = func.val → QueueOff u q) ∧ (∀ i < 16, u.reg (dwinCa func.val i) = 0) ∧
        ∃ l r, u.rind.resets = l ++ [r] ∧ l.length = s.rind.resets.length ∧ bits r.word 55 53 = 5 ∧ bits r.word 29 28 = (s.funcJob func.val).val) ∧
      (func = 5 → Gives (.functionLevelReset func) s fun u => u.rind.pcie.d3hot = s.rind.pcie.d3hot.filter (· ≠ 5) ∧ OnlyRind s u)) ∧
    (Gives (.perst 0) s fun u => u.rind.pins.link0 = false ∧ u.rind.pcie.vfEnable = false ∧ u.rind.pcie.msix = [] ∧ u.mem = s.mem ∧ ∀ q < 256, s.queueFunc q < 5 → QueueOff u q) ∧
    (Gives (.perst 1) s fun u => u.rind.pins.link1 = false ∧ OnlyRind s u) ∧
    (s.linkOf 0 = true → Gives (.vfEnableClear true) s (fun u => u.rind.pcie.vfEnable = true ∧ OnlyRind s u) ∧
      (s.rind.pcie.vfEnable = true → Gives (.vfEnableClear false) s fun u => u.rind.pcie.vfEnable = false ∧ u.mem = s.mem ∧
        u.rind.resets.length = s.rind.resets.length + 4 ∧ ∀ q < 256, 1 ≤ s.queueFunc q → s.queueFunc q ≤ 4 → QueueOff u q)) ∧
    (func = 0 ∨ func = 5 →
      (s.queuesOn func.val = false → Gives (.d3hotTransition func true) s fun u => func.val ∈ u.rind.pcie.d3hot ∧ OnlyRind s u) ∧
      (s.queuesOn func.val = true → exec (.d3hotTransition func true) s = .next s) ∧
      Gives (.d3hotTransition func false) s fun u => func.val ∉ u.rind.pcie.d3hot ∧ OnlyRind s u) ∧
    (func ≠ 0 → func ≠ 5 → ∀ hot, exec (.d3hotTransition func hot) s = .next s) ∧
    (∀ port : Fin 2, Gives (.pcieLinkDown port) s (fun u => u.linkOf port.val = false ∧ u.linkOf (1 - port.val) = s.linkOf (1 - port.val) ∧ OnlyRind s u) ∧
      (s.domState 49 = 7 → Gives (.pcieLinkUp port) s fun u => u.linkOf port.val = true ∧ u.linkOf (1 - port.val) = s.linkOf (1 - port.val) ∧ OnlyRind s u) ∧
      (s.domState 49 ≠ 7 → exec (.pcieLinkUp port) s = .next s))

/-- A LOAD whose read fails ends with HOSTERR at the byte; one that pass 1 refuses ends with the refusal's status, section and offset, having changed nothing else; one it accepts claims its records and contexts and sets BUSY (R362). Pass 2 keeps the digest of what it read. At the finish, equal digests leave every context written STOPPED and status OK; others leave them EMPTY with status CHANGED (R362, R363). An FWLOAD during a trial ends with BUSY; else it marks the inactive slot invalid and, with a well-formed, accepted package not below SVNFLOOR, valid with its version; a refusal leaves it invalid (R368). SWITCH starts the other valid slot on trial and locks debug, or is rejected; CONFIRM ends the trial for good; a trial not ready within 2 s, or not confirmed within 60 s of ready, reverts (R369). Signatures and digests are opaque, so the verdicts are the hypotheses. -/
def Obligations.ImagesAndFirmwareAreLoaded : Prop :=
  ∀ (s : State),
    (∀ (q : QueueNo) (d : Desc) (img : List Byte), s.rind.load = none → s.startOp q.val 5 = some d → s.rind.fw.restart = false →
      (∀ n e, Gives (.load q img (some (n, e))) s fun u => SomeDone u q.val 4 ∧ u.rind.load = none ∧ u.fld loadstatCa 39 0 = n % 2 ^ 40 ∧ OthersKept s u loadstatCa ∧ u.tiles = s.tiles) ∧
      (let s1 := s.putDesc q.val d.id .load
       (∀ st i p, s1.passOne (s.queueFunc q.val) (given d img) = .error (st, i, p) → Gives (.load q img none) s fun u => SomeDone u q.val st ∧ u.rind.load = none ∧
          u.reg loadstatCa = BitVec.ofNat 64 (st <<< 48 + (i % 16) <<< 40 + p % 2 ^ 40) ∧ OthersKept s u loadstatCa ∧ u.tiles = s.tiles) ∧
       (∀ rs, s1.passOne (s.queueFunc q.val) (given d img) = .ok rs → Gives (.load q img none) s fun u => DescAt u q.val d.id .load ∧ u.bit loadstatCa 63 = true ∧
          (∃ l, u.rind.load = some l ∧ l.q = q.val ∧ l.recs = rs ∧ l.again = none ∧ l.digest = Config.sha384 ((given d img).take (imgHead (given d img)).total)) ∧
          OthersKept s u loadstatCa ∧ u.tiles = s.tiles))) ∧
    (∀ (q : QueueNo) (l : LoadSt) (img : List Byte), s.rind.load = some l → l.q = q.val → l.again = none →
      (Gives (.load q img none) s fun u => ∃ l', u.rind.load = some l' ∧ l'.again = some (Config.sha384 (img.take (imgHead img).total)) ∧ l'.ctxs = l.ctxs ∧ l'.recs = l.recs) ∧
      (∀ n e, Gives (.load q img (some (n, e))) s fun u => u.rind.load = none ∧ u.fld loadstatCa 55 48 = (if e then 0x0A else 4) ∧
        ∀ k ∈ l.ctxs, (u.ctx (tileOfKey (k / 4)) (Fin.ofNat 4 k)).state = .empty)) ∧
    (∀ (q : QueueNo) (l : LoadSt) (x : List Byte), s.rind.load = some l → l.q = q.val → l.again = some x → ∀ img fail,
      (x = l.digest → Gives (.load q img fail) s fun u => u.rind.load = none ∧ u.reg loadstatCa = 0 ∧
        ∀ k ∈ l.ctxs, (u.ctx (tileOfKey (k / 4)) (Fin.ofNat 4 k)).state = .stopped ∧ (u.ctx (tileOfKey (k / 4)) (Fin.ofNat 4 k)).tokens = []) ∧
      (x ≠ l.digest → Gives (.load q img fail) s fun u => u.rind.load = none ∧ u.fld loadstatCa 55 48 = 8 ∧
        ∀ k ∈ l.ctxs, (u.ctx (tileOfKey (k / 4)) (Fin.ofNat 4 k)).state = .empty)) ∧
    (∀ (q : QueueNo) (d : Desc) (pkg : List Byte) (fail : Option Nat), (∀ x ∈ (s.queue q.val).descs, x.st ≠ .fwload) → s.startOp q.val 6 = some d → s.rind.fw.restart = false →
      (s.fwStat.getLsbD 63 = true → Gives (.fwload q pkg fail) s fun u => SomeDone u q.val 7 ∧ u.fwStat = s.fwStat ∧ OthersKept s u loadstatCa) ∧
      (s.fwStat.getLsbD 63 = false → Gives (.fwload q pkg fail) s fun u => DescAt u q.val d.id .fwload ∧ u.fwStat.getLsbD (spareBit s) = false ∧
        (∀ i, i ≠ spareBit s → u.fwStat.getLsbD i = s.fwStat.getLsbD i) ∧ u.bit loadstatCa 63 = true ∧ OthersKept s u loadstatCa)) ∧
    (∀ (q : QueueNo) (d : Desc) (pkg : List Byte), (s.queue q.val).descs.find? (fun d => d.st == .fwload) = some d →
      let p := given d pkg
      let n := 64 + imgNum p 12 4
      (∀ i, Gives (.fwload q pkg (some i)) s fun u => SomeDone u q.val 4 ∧ u.fwStat = s.fwStat ∧ OthersKept s u loadstatCa) ∧
      (packageOk p = false ∨ s.sigOk 61 (p.drop n) (p.take n) = true ∧ imgNum p 10 1 < bits s.fwStat 47 40 → Gives (.fwload q pkg none) s fun u => SomeDone u q.val 6 ∧
        u.fwStat = s.fwStat ∧ OthersKept s u loadstatCa) ∧
      (packageOk p = true → s.sigOk 61 (p.drop n) (p.take n) = false → Gives (.fwload q pkg none) s fun u => SomeDone u q.val 5 ∧ u.fwStat = s.fwStat ∧ OthersKept s u loadstatCa) ∧
      (packageOk p = true → s.sigOk 61 (p.drop n) (p.take n) = true → bits s.fwStat 47 40 ≤ imgNum p 10 1 → Gives (.fwload q pkg none) s fun u => SomeDone u q.val 0 ∧
        u.fwStat.getLsbD (spareBit s) = true ∧ bits u.fwStat (16 * (spareBit s - 60) + 15) (16 * (spareBit s - 60)) = imgNum p 8 2 ∧
        u.slotSvn (spareBit s - 60) = imgNum p 10 1 ∧ OthersKept s u loadstatCa)) ∧
    (s.rind.pins.standby = true →
      (s.fwStat.getLsbD (spareBit s) = true → s.fwStat.getLsbD 63 = false → s.coreBusy = false → Gives .switch s fun u => u.fwStat.getLsbD 63 = true ∧
        u.fwStat.getLsbD 62 = !s.fwStat.getLsbD 62 ∧ u.rind.fw.restart = true ∧ u.level = 0 ∧ OthersKept s u dbgUnlockCa ∧
        ∃ ev : Event, u.events = s.events ++ [ev] ∧ ev.code = 0x1C ∧ ev.detail = 1) ∧
      (s.fwStat.getLsbD (spareBit s) = false ∨ s.fwStat.getLsbD 63 = true ∨ s.coreBusy = true → Gives .switch s fun u => Rejected s u fwctlCa ∧ u.rind = s.rind) ∧
      (s.fwStat.getLsbD 63 = true → Gives .confirm s fun u => u.fwStat.getLsbD 63 = false ∧ u.fwStat.getLsbD 62 = s.fwStat.getLsbD 62 ∧
        u.rind.fw.back = s.fwStat.getLsbD 62 ∧ u.regs = s.regs ∧ u.mem = s.mem ∧ ∃ ev : Event, u.events = s.events ++ [ev] ∧ ev.code = 0x1C ∧ ev.detail = 2) ∧
      (s.fwStat.getLsbD 63 = false → exec .confirm s = .next s)) ∧
    (s.rind.fw.restart = true → Gives .firmwareReady s fun u => u.rind.fw.restart = false ∧ u.rind.fw.ready = true ∧ OnlyRind s u) ∧
    (s.fwStat.getLsbD 63 = true → (if s.rind.fw.ready = true then 60000000000 else 2000000000) ≤ s.rind.ticks - s.rind.fw.since → Gives .firmwareRevert s fun u => u.fwStat.getLsbD 63 = false ∧ u.fwStat.getLsbD 62 = s.rind.fw.back ∧ u.rind.fw.restart = true ∧
      u.level = 0 ∧ OthersKept s u dbgUnlockCa ∧ ∃ ev : Event, u.events = s.events ++ [ev] ∧ ev.code = 0x1C ∧ ev.detail = 3) ∧
    (s.fwStat.getLsbD 63 = false ∨ s.rind.ticks - s.rind.fw.since < (if s.rind.fw.ready = true then 60000000000 else 2000000000) → exec .firmwareRevert s = .next s)

/-- In a tile whose clock runs and that is not halted: a poll of an idle valid source entry whose ready word is 0 leaves it; with the anchor word of its step it starts the round at that anchor, with another it waits and sets MISMATCH, and an entry that waits is judged by its anchor word alone (R259). A chunk that its tree takes advances the round, and the last one ends it; one it does not take waits (R257, R259). A sink takes the due chunk of its tree: with one round its lanes join the reduced gradient, in an earlier round of several they are stored in the sum region (R260). A result of a tree that no valid shard names is returned lane by lane as S96 records (R251; where they stand is the model's, notes/assumptions/139). A block whose elements and tensors are present is updated by its rule and the next follows; a bad one keeps its master (R261, R268-R270). The matrix work of families 1 and 2 is done once the array is free, and writes no byte outside the work area (R269-R271). A finished shard is settled: digest, next anchor, anchor word; then STEP and ANCHOR advance (R267, R274). -/
def Obligations.LeavesAndSinksUpdateTheirShards : Prop :=
  ∀ (s : State) (t : Tile) (k : Fin 16), s.unitRuns t = true →
    (let w0 := s.reg (srcCa t k 0)
     let ready := s.fld (srcCa t k 1) 56 32
     let anchor := s.fld (srcCa t k 2) 56 32
     w0.getLsbD 63 = true → s.fld (srcCa t k 3) 63 62 = 0 → PadFor s t (bits w0 62 61) ready 8 → PadFor s t (bits w0 62 61) anchor 8 →
      (bits (s.padWordAt t ready) 31 0 = 0 → Gives (.sourcePoll t k) s fun u => u.fld (srcCa t k 3) 63 62 = 0 ∧ u.src t k = s.src t k ∧ u.mem = s.mem) ∧
      (bits (s.padWordAt t ready) 31 0 ≠ 0 → bits (s.padWordAt t anchor) 31 0 = s.fld (srcCa t k 2) 31 0 → Gives (.sourcePoll t k) s fun u =>
        u.fld (srcCa t k 3) 63 62 = 2 ∧ u.src t k = { anchor := signed 16 (bits (s.padWordAt t anchor) 63 48) } ∧ u.mem = s.mem) ∧
      (bits (s.padWordAt t ready) 31 0 ≠ 0 → bits (s.padWordAt t anchor) 31 0 ≠ s.fld (srcCa t k 2) 31 0 → Gives (.sourcePoll t k) s fun u =>
        u.fld (srcCa t k 3) 63 62 = 1 ∧ u.bit (srcCa t k 3) 58 = true ∧ u.src t k = s.src t k ∧ u.mem = s.mem)) ∧
    (let w0 := s.reg (srcCa t k 0)
     let anchor := s.fld (srcCa t k 2) 56 32
     w0.getLsbD 63 = true → s.fld (srcCa t k 3) 63 62 = 1 → PadFor s t (bits w0 62 61) anchor 8 →
      (bits (s.padWordAt t anchor) 31 0 = s.fld (srcCa t k 2) 31 0 → Gives (.sourcePoll t k) s fun u =>
        u.fld (srcCa t k 3) 63 62 = 2 ∧ u.src t k = { anchor := signed 16 (bits (s.padWordAt t anchor) 63 48) } ∧ u.mem = s.mem) ∧
      (bits (s.padWordAt t anchor) 31 0 ≠ s.fld (srcCa t k 2) 31 0 → Gives (.sourcePoll t k) s fun u =>
        u.fld (srcCa t k 3) 63 62 = 1 ∧ u.bit (srcCa t k 3) 58 = true ∧ u.src t k = s.src t k ∧ u.mem = s.mem)) ∧
    (s.bit (srcCa t k 0) 63 = true → s.fld (srcCa t k 3) 63 62 = 2 → ∀ r fl y s1 resid, s.nextChunk t k = (r, fl, y, s1) →
      (s1.inject t (s.fld (srcCa t k 0) 56 51) r resid = none → exec (.chunkInject t k resid) s = .next s) ∧
      (∀ s2, s1.inject t (s.fld (srcCa t k 0) 56 51) r resid = some s2 →
        (y.pos < roundChunks (s.fld (srcCa t k 0) 16 0) (s.bit (srcCa t k 0) 60) → Gives (.chunkInject t k resid) s fun u =>
          u.src t k = y ∧ y.pos = (s.src t k).pos + 1 ∧ u.fld (srcCa t k 3) 23 0 = (r.chunk + 1) % 2 ^ 24 ∧ u.fld (srcCa t k 3) 63 62 = 2 ∧ u.mem = s.mem) ∧
        (roundChunks (s.fld (srcCa t k 0) 16 0) (s.bit (srcCa t k 0) 60) ≤ y.pos → Gives (.chunkInject t k resid) s fun u =>
          u.src t k = {} ∧ u.fld (srcCa t k 3) 23 0 = (r.chunk + 1) % 2 ^ 24 ∧ u.fld (srcCa t k 3) 63 62 = 0))) ∧
    (∀ job (r : RedBody) rest resid, s.bit (shardCa t k 0) 63 = true → (s.tile t).sinkIn = (job, r) :: rest → r.tree = (s.shard t k).tree → r.chunk = tget 0 (s.tile t).sinkNext r.tree →
      (s.sink t k).round = 0 →
      ((s.shard t k).rounds = 1 → (s.sink t k).pos < dataChunks (s.shard t k).nel → Gives (.sinkChunk t k resid) s fun u => (u.tile t).sinkIn = rest ∧
        (u.sink t k).lanes = (s.sink t k).lanes ++ (r.lanes.take ((s.shard t k).nel - 10 * (s.sink t k).pos)).map narrow ∧ u.fld (shardCa t k 3) 63 62 = 1 ∧ u.mem = s.mem) ∧
      (1 < (s.shard t k).rounds → PadFor s t (s.shard t k).job (s.fld (shardCa t k 2) 24 0 + 128 * (s.sink t k).pos) 128 → Gives (.sinkChunk t k resid) s fun u =>
        (u.tile t).sinkIn = rest ∧ (u.sink t k).lanes = (s.sink t k).lanes ∧ Written s u (padAddr t (s.fld (shardCa t k 2) 24 0 + 128 * (s.sink t k).pos)) (redPayload r))) ∧
    (∀ resid, (s.tile t).sinkIn = [] → exec (.sinkChunk t k resid) s = .next s) ∧
    (∀ job (r : RedBody) rest resid, s.bit (shardCa t k 0) 63 = false → (s.tile t).sinkIn = (job, r) :: rest →
      (∀ k' : Fin 16, s.bit (shardCa t k' 0) 63 = true → s.fld (shardCa t k' 0) 51 40 ≠ r.tree) → Gives (.sinkChunk t k resid) s fun u =>
        (u.tile t).sinkIn = rest ∧ u.mem = s.mem ∧ (u.tile t).returned = (s.tile t).returned ++ r.lanes.map fun l => ⟨l.n, r.q, l.flags⟩) ∧
    ((s.sink t k).phase = .blocks → 32 * ((s.sink t k).block + 1) ≤ (s.sink t k).lanes.length →
      ((s.shard t k).fam = 0 → SinkSt.badBlock (s.sink t k) (s.sink t k).block = true → BlockDue s t k [0] → Gives (.blockUpdate t k) s fun u =>
        (u.sink t k).block = (s.sink t k).block + 1 ∧ (u.sink t k).master = (s.sink t k).master ++ [SinkSt.block16 (s.sink t k) 0] ∧ u.mem = s.mem ∧ u.regs = s.regs) ∧
      ((s.shard t k).fam = 0 → SinkSt.badBlock (s.sink t k) (s.sink t k).block = false → BlockDue s t k [0, 1, 2] → Gives (.blockUpdate t k) s fun u =>
        (u.sink t k).block = (s.sink t k).block + 1 ∧ (u.sink t k).master.length = (s.sink t k).master.length + 1) ∧
      ((s.shard t k).fam = 1 → (s.shard t k).nel ≤ (s.sink t k).lanes.length → SinkSt.badShard (s.sink t k) = false → (s.sink t k).block + 1 < (s.shard t k).blocks →
        BlockDue s t k [1] → Gives (.blockUpdate t k) s fun u => (u.sink t k).block = (s.sink t k).block + 1 ∧ (u.sink t k).held.length = (s.sink t k).held.length + 1) ∧
      ((s.shard t k).fam = 2 → SinkSt.badBlock (s.sink t k) (s.sink t k).block = false → (s.sink t k).block + 1 < (s.shard t k).blocks → BlockDue s t k [] →
        PadFor s t (s.shard t k).job (s.fld (shardCa t k 3) 24 0 + 256 * (s.sink t k).block) 256 → (SinkSt.grads (s.sink t k) (s.shard t k).anchor (s.sink t k).block).length = 32 →
        Gives (.blockUpdate t k) s fun u => (u.sink t k).block = (s.sink t k).block + 1 ∧ Written s u (padAddr t (s.fld (shardCa t k 3) 24 0 + 256 * (s.sink t k).block))
          (((SinkSt.grads (s.sink t k) (s.shard t k).anchor (s.sink t k).block).map fun g => w48Word (canonW48 (fMul g.1 (s.rule t (s.shard t k).rule 7)).1) 0).flatMap fun w => toBytes 8 w.toNat))) ∧
    (s.bit (shardCa t k 0) 63 = true → SinkSt.badShard (s.sink t k) = false → (s.sink t k).result = none →
      let area := padAddr t (s.fld (shardCa t k 3) 24 0)
      ((s.shard t k).fam = 1 → (s.sink t k).phase = .apply →
        (s.arrayFree t = false → exec (.orthogonalise t k) s = .next s) ∧
        (s.arrayFree t = true → Gives (.orthogonalise t k) s fun u => (u.sink t k).held = [] ∧
          (u.sink t k).result = some (orthogonalise (s.shard t k).rows (s.shard t k).cols (s.rule t (s.shard t k).rule 6) (toRows (s.shard t k).rows (s.shard t k).cols (s.sink t k).held)).1 ∧
          ∀ a, (a < area ∨ area + 2097152 ≤ a) → u.byte a = s.byte a)) ∧
      ((s.shard t k).fam = 2 → (s.sink t k).phase = .factors →
        (BlockDue s t k [1, 2] → Gives (.precondition t k) s fun u => (u.sink t k).block = (s.sink t k).block + 1 ∧ u.mem = s.mem ∧ u.regs = s.regs ∧
          (u.sink t k).held = (s.sink t k).held ++ [SinkSt.block16 (s.sink t k) 1] ∧ (u.sink t k).held2 = (s.sink t k).held2 ++ [SinkSt.block16 (s.sink t k) 2]) ∧
        ((s.shard t k).blocks ≤ (s.sink t k).block → s.arrayFree t = true → Gives (.precondition t k) s fun u => (u.sink t k).phase = .apply ∧ (u.sink t k).block = 0 ∧
          (u.sink t k).result.isSome = true ∧ ∀ a, (a < area ∨ area + 2097152 ≤ a) → u.byte a = s.byte a))) ∧
    (s.bit (shardCa t k 0) 63 = true → SinkSt.badShard (s.sink t k) = false → (s.sink t k).result.isSome = true → (s.sink t k).phase = .apply → BlockDue s t k [0] →
      ((s.shard t k).fam = 1 → Gives (.orthogonalise t k) s fun u => (u.sink t k).block = (s.sink t k).block + 1 ∧ (u.sink t k).master.length = (s.sink t k).master.length + 1) ∧
      ((s.shard t k).fam = 2 → Gives (.precondition t k) s fun u => (u.sink t k).block = (s.sink t k).block + 1 ∧ (u.sink t k).master.length = (s.sink t k).master.length + 1)) ∧
    (s.bit (shardCa t k 0) 63 = true → s.tagsFree t 2 = true →
      ((s.sink t k).tag = none → (s.shard t k).rounds ≤ (s.sink t k).round → (s.shard t k).blocks ≤ (s.sink t k).master.length → (∀ e ∈ (s.tile t).txns, e.2 ≠ some (.updWrite k.val)) →
        Gives (.shardSettle t k) s fun u => u.reg (shardCa t k 17) = shardDigest (s.sink t k).master ∧ u.fld (shardCa t k 3) 63 62 = 3 ∧ (u.sink t k).phase = .anchor ∧
          (u.sink t k).tag.isSome = true ∧ u.mem = s.mem ∧ ∃ p ∈ u.net, (∃ g, p.head.mcg = some g ∧ g.group = s.fld (shardCa t k 14) 51 40) ∧
            p.body = .wr (s.fld (shardCa t k 14) 24 0) (toBytes 8 (((u.sink t k).next % 2 ^ 16).toNat <<< 48 + ((s.shard t k).step + 1) % 2 ^ 32))) ∧
      (∀ tag, (s.sink t k).tag = some tag →
        (tget none (s.tile t).txns tag = none → Gives (.shardSettle t k) s fun u => u.fld (shardCa t k 12) 31 0 = ((s.shard t k).step + 1) % 2 ^ 32 ∧
          u.fld (shardCa t k 12) 63 48 = ((s.sink t k).next % 2 ^ 16).toNat ∧ u.fld (shardCa t k 3) 63 62 = 0 ∧ u.sink t k = { fresh := false }) ∧
        ((tget none (s.tile t).txns tag).isSome = true → exec (.shardSettle t k) s = .next s)))

/-- In a tile whose clock runs and that is not halted, with sound head records: the engine, free, takes the first record that is not empty of the rings polled, in cyclic order after the context last served; one that is not well formed, or whose regions overlap, is ready to complete at once (R282, R284, R293). With all empty, or while a command is in progress, a poll takes none. SELECT, its source read, puts out the columns over the threshold, at most OMAX (R287). GATHER, its source read, is ready (R288). INTERSECT, UNION and ANDNOT put out the indices kept in both lists, in either, or in A alone (R290). BUCKET refuses a descriptor that breaks its layout, tries the free word of one that keeps it, waits on a free word that missed, and after a bucket counts its done word and takes the next (R291, R292). A ready command leaves the engine free and advances HEAD; its data, the result word, a cleared word 0 of its record and the count on its done word stand in the scratchpad (R285). A command not of the row's OP and mode, or already ready, and a free engine are left alone. -/
def Obligations.TheSparseEngineRunsItsCommands : Prop :=
  ∀ (s : State) (t : Tile),
    (s.unitRuns t = true → HeadsSound s t →
      (∀ i : CtxNo, (s.spx t).cmd = none →
       let c : CtxNo := (s.spx t).last + 1 + i
       let k : SpxCmd := { ctx := c, words := wordsAt s t (headAt s t c) 16, rec_ := headAt s t c }
       let n := bits (SpxCmd.word k 2) 23 0
       let tab := bits (SpxCmd.word k 2) 56 32
       let lap := s.recordOverlaps t k (if SpxCmd.op k = 4 then bucketsReached (wordsAt s t tab n) else [])
       s.ringLive t c = true → SpxCmd.op k ≠ 0 → (∀ j < i, HeadEmpty s t ((s.spx t).last + 1 + j)) →
        (recordOk k = true → (SpxCmd.op k = 4 → PadFor s t (s.jobOf t c).val tab (8 * n)) → Gives (.ringPoll t) s fun u =>
          (u.spx t).cmd = some { k with overlap := lap, ready := lap } ∧ (u.spx t).last = c ∧ u.mem = s.mem ∧
          u.bit (spxStatusCa t) 63 = true ∧ u.fld (spxStatusCa t) 62 61 = c.val ∧ u.fld (spxStatusCa t) 60 57 = SpxCmd.op k) ∧
        (recordOk k = false → Gives (.ringPoll t) s fun u =>
          (u.spx t).cmd = some { k with cmdErr := true, ready := true } ∧ (u.spx t).last = c ∧ u.mem = s.mem ∧
          u.bit (spxStatusCa t) 63 = true ∧ u.fld (spxStatusCa t) 62 61 = c.val ∧ u.fld (spxStatusCa t) 60 57 = SpxCmd.op k)) ∧
      ((∀ c, HeadEmpty s t c) ∨ (s.spx t).cmd ≠ none → Gives (.ringPoll t) s fun u => u.spx t = s.spx t ∧ u.mem = s.mem) ∧
      ((∀ c, s.ringLive t c = false) → exec (.ringPoll t) s = .next s)) ∧
    (∀ c f loc xm mb so rs ss, SpxAt s t c 1 → SpxCmd.srcD c = some ⟨some f, loc, xm, mb, so, rs, ss⟩ → c.planned = true → c.pieces = [] → c.waiting = [] →
      let rows := bits (SpxCmd.word c 11) 23 0
      let len := bits (SpxCmd.word c 12) 23 0
      Gives (.select t) s fun u => u.regs = s.regs ∧ u.mem = s.mem ∧ PutOut u t c (selectCols f (w48Value (SpxCmd.word c 5)) rows len
        ((c.out ++ c.lost).foldl (fun b p => overwrite b p.1 p.2) (List.replicate (rows * rowBytes f len) 0))).1) ∧
    (∀ c d e, SpxAt s t c 2 → SpxCmd.srcD c = some d → SpxCmd.dstD c = some e → c.planned = true → c.pieces = [] → c.waiting = [] →
      (SpxCmd.mode c = 0 → Gives (.gatherRows t) s fun u => (u.spx t).cmd = some { c with ready := true } ∧ u.regs = s.regs ∧ u.mem = s.mem) ∧
      (SpxCmd.mode c = 1 → d.fmt.isSome = true → Gives (.gatherBlocks t) s fun u => (u.spx t).cmd = some { c with ready := true } ∧ u.regs = s.regs ∧ u.mem = s.mem)) ∧
    (∀ c, SpxAt s t c 3 →
      let ra := s.readList t c (bits (SpxCmd.word c 2) 56 32) (bits (SpxCmd.word c 2) 23 0)
      let rb := ra.2.2.readList t ra.2.1 (bits (SpxCmd.word c 3) 56 32) (bits (SpxCmd.word c 3) 23 0)
      (SpxCmd.mode c = 0 → Gives (.intersect t) s fun u => u.mem = s.mem ∧ ∃ xs, PutOut u t c xs ∧ xs.Sublist ra.1 ∧ ∀ x, x ∈ xs ↔ x ∈ ra.1 ∧ x ∈ rb.1) ∧
      (SpxCmd.mode c = 1 → Gives (.union t) s fun u => u.mem = s.mem ∧ ∃ xs, PutOut u t c xs ∧ xs.Pairwise (· ≤ ·) ∧ ∀ x, x ∈ xs ↔ x ∈ ra.1 ∨ x ∈ rb.1) ∧
      (SpxCmd.mode c = 2 → Gives (.andnot t) s fun u => u.mem = s.mem ∧ ∃ xs, PutOut u t c xs ∧ xs.Sublist ra.1 ∧ ∀ x, x ∈ xs ↔ x ∈ ra.1 ∧ x ∉ rb.1)) ∧
    (∀ c, SpxAt s t c 4 →
      let job := (s.jobOf t c.ctx).val
      let free (u : State) : Prop := let r := (s.padCac t job (bits (SpxCmd.word c 10) 56 32) .semdn 1 (s.requester t c.ctx)).1
        ∃ k, (u.spx t).cmd = some k ∧ k.ready = false ∧ (k.missed = true ↔ r.cst = cstMiss) ∧ (k.owned = true ↔ r.cst ≠ cstMiss)
      (c.missed = true → exec (.bucket t) s = .next s ∧ Gives (.bucketFreeRetry t) s free) ∧
      (c.missed = false → exec (.bucketFreeRetry t) s = .next s) ∧
      (let off := bits (SpxCmd.word c 2) 56 32 + 8 * c.bucket
       c.missed = false → c.owned = false → off % 8 = 0 → PadFor s t job off 8 →
        (bucketOk (s.padWordAt t off) = false → Gives (.bucket t) s fun u => (u.spx t).cmd = some { c with cmdErr := true, ready := true } ∧ u.mem = s.mem) ∧
        (bucketOk (s.padWordAt t off) = true → Gives (.bucket t) s free)) ∧
      (∀ d e, c.missed = false → c.owned = true → SpxCmd.srcD c = some d → d.fmt.isSome = true → SpxCmd.dstD c = some e → c.planned = true → c.pieces = [] → c.waiting = [] →
        c.out = [] → c.lost = [] →
        let dn := bits (SpxCmd.word c 1) 56 32
        (c.bucket + 1 < bits (SpxCmd.word c 2) 23 0 → dn % 8 = 0 → PadFor s t job dn 8 → Gives (.bucket t) s fun u =>
          (u.spx t).cmd = some { c with bucket := c.bucket + 1, owned := false, planned := false } ∧ u.padWordAt t dn = doneWord s t c ∧
          ∀ a, (a < padAddr t dn ∨ padAddr t dn + 8 ≤ a) → u.byte a = s.byte a) ∧
        (bits (SpxCmd.word c 2) 23 0 ≤ c.bucket + 1 → Gives (.bucket t) s fun u => (u.spx t).cmd = some { c with ready := true } ∧ u.mem = s.mem ∧ u.regs = s.regs))) ∧
    (∀ c, s.unitRuns t = true → (s.spx t).cmd = some c →
      (c.ready = false → exec (.commandComplete t) s = .next s) ∧
      (c.ready = true → Gives (.commandComplete t) s fun u => (u.spx t).cmd = none ∧ u.bit (spxStatusCa t) 63 = false ∧
        u.fld (spxStatusCa t) 31 0 = (s.fld (spxStatusCa t) 31 0 + 1) % 2 ^ 32 ∧
        u.fld (spxRingCa t c.ctx) 7 0 = (s.fld (spxRingCa t c.ctx) 7 0 + 1) % (s.fld (spxRingCa t c.ctx) 23 16 + 1)) ∧
      (∀ off d, let res := bits (SpxCmd.word c 0) 24 0
       let dn := bits (SpxCmd.word c 1) 56 32
       let rs := [(off, d.length), (res, 8), (dn, 8), (c.rec_, 8)]
       c.ready = true → c.lost = [] → c.out = (if d = [] then [] else [(off, d)]) → res % 8 = 0 → dn % 8 = 0 → c.rec_ % 8 = 0 →
         (∀ r ∈ rs, PadFor s t (s.jobOf t c.ctx).val r.1 r.2) → rs.Pairwise (fun x y => regionsMeet x y = false) →
         Gives (.commandComplete t) s fun u => u.padWordAt t res = resultWord c ∧ u.padWordAt t c.rec_ = 0 ∧ u.padWordAt t dn = doneWord s t c ∧
           (∀ i < d.length, u.byte (padAddr t off + i) = d.getD i 0) ∧
           ∀ a, (∀ r ∈ rs, a < padAddr t r.1 ∨ padAddr t r.1 + r.2 ≤ a) → u.byte a = s.byte a)) ∧
    ((s.spx t).cmd = none → ∀ i ∈ [Instr.select t, .gatherRows t, .gatherBlocks t, .intersect t, .union t, .andnot t, .bucket t, .bucketFreeRetry t,
      .commandComplete t], exec i s = .next s) ∧
    (∀ c, (s.spx t).cmd = some c → ∀ e ∈ [(Instr.select t, 1, none), (.gatherRows t, 2, some 0), (.gatherBlocks t, 2, some 1), (.intersect t, 3, some 0),
      (.union t, 3, some 1), (.andnot t, 3, some 2), (.bucket t, 4, none), (.bucketFreeRetry t, 4, none)],
      c.ready = true ∨ SpxCmd.op c ≠ e.2.1 ∨ (∃ m, e.2.2 = some m ∧ SpxCmd.mode c ≠ m) → exec e.1 s = .next s)

/-- In a period of a running instance with no window due, whose grant, if held, is held by a requester that still asks: the width is handed to the requesters in rank, each up to what it asks (what a requester asks is the model's reading of Table 13-1, notes/assumptions/78); each one's credit falls by its units' cost to no less than 0 and its count rises by its units, RAISED shows whether it still asks, and units that a later command uses are kept for it; the window's position advances by the period, and the window is due when the position reaches WINDOW; the grant of a requester that no longer asks ends, and one with no BURST limit that is not pre-empted stays (R295, R296, R297, R298, R299). A due window starts with every credit at its live weight and the position at 0 (R296). A commit copies every shadow into the live settings; one whose WINDOW is no whole number of periods is refused with CFGERR; a refill makes the window due (R300). An instance without power gives address errors. -/
def Obligations.ArbitersServeCommitAndRefill : Prop :=
  ∀ (s : State) (i : ArbInst),
    let base := arbBase i
    let n := (arbDims base).2.1
    (s.runs base = true → (s.arb base).due = false → ∀ asks : List ArbAsk,
      let ask (m : Nat) : ArbAsk := s.asks i m (asks.getD m noAsk)
      let rank := s.arbRank base fun m => (ask m).raised
      let share (m : Nat) : Nat := shareOf (handOut ask (arbDims base).1 rank) m
      let kept (m : Nat) : Bool := ArbAsk.kept (ask m) (share m)
      (∀ o, s.arbOwner base = some o → o < n ∧ (ask o).raised = true) →
      Gives (.arbiterPeriod i asks) s fun u => u.mem = s.mem ∧
        (∀ m < n, u.arbCredit base m = s.arbCredit base m - share m * arbCost base (ask m) ∧
          u.fld (arbReqCa base m 3) 47 0 = min (2 ^ 48 - 1) (s.fld (arbReqCa base m 3) 47 0 + share m) ∧ u.bit (arbReqCa base m 1) 63 = (kept m || (ask m).again) ∧
          (u.arb base).grants.getD m 0 = (if keepsUnits base m then (s.arb base).grants.getD m 0 + share m else 0)) ∧
        u.fld (base + 0x18) 15 0 = (s.fld (base + 0x18) 15 0 + (arbDims base).2.2) % 2 ^ 16 ∧
        ((u.arb base).due = true ↔ s.arbWindow base ≤ (s.fld (base + 0x18) 15 0 + (arbDims base).2.2) % 2 ^ 16) ∧
        (rank = [] → u.arbOwner base = none) ∧
        (∀ j rest, rank = j :: rest → (kept j = false → u.arbOwner base = none) ∧
          (kept j = true → s.arbBurst base j = 0 → s.arbPre base j = true → u.arbOwner base = some j))) ∧
    (s.runs base = false → ∀ asks, exec (.arbiterPeriod i asks) s = .next s) ∧
    (s.runs base = true → (s.arb base).due = true → Gives (.windowStart i) s fun u => (∀ m < n, u.arbCredit base m = s.arbWeight base m) ∧
      u.fld (base + 0x18) 15 0 = 0 ∧ (u.arb base).due = false ∧ u.live = s.live ∧ u.mem = s.mem) ∧
    ((s.arb base).due = false → exec (.windowStart i) s = .next s) ∧
    (s.answers base = true → ∀ refill,
      (s.fld base 15 0 ≠ 0 → s.fld base 15 0 % (arbDims base).2.2 = 0 → Gives (.commit i refill) s fun u => u.liveReg base = s.reg base ∧
        (∀ m < n, u.liveReg (arbReqCa base m 0) = s.reg (arbReqCa base m 0)) ∧ u.regs = s.regs ∧ u.mem = s.mem ∧ (u.arb base).due = ((s.arb base).due || refill)) ∧
      (s.fld base 15 0 = 0 ∨ s.fld base 15 0 % (arbDims base).2.2 ≠ 0 → Gives (.commit i refill) s fun u => u.live = s.live ∧ u.arbs = s.arbs ∧ u.bit (base + 0x10) 16 = true ∧
        OthersKept s u (base + 0x10) ∧ ∃ ev : Event, u.events = s.events ++ [ev] ∧ ev.code = 0x04 ∧ ev.detail = BitVec.ofNat 64 (base + 8))) ∧
    (s.answers base = true → Gives (.refill i) s fun u => (u.arb base).due = true ∧ u.live = s.live ∧ u.regs = s.regs ∧ u.mem = s.mem ∧ u.events = s.events) ∧
    (s.answers base = false → ∀ c ∈ [Instr.commit i false, .refill i], Gives c s fun u => u.regs = s.regs ∧ u.live = s.live ∧ u.mem = s.mem ∧
      ∃ ev : Event, u.events = s.events ++ [ev] ∧ ev.code = 0x05)

/-- A sequencer instruction, a matrix, chain or stream command that stores nothing, a sparse command without data to write, a press or a debug command of a tile changes, where it answers a next state, at most control registers, that tile, its SFU arbiter, residue marks, packets sent with the numbers and ages they take, and events: every byte of scratchpad and cellar, every other tile and arbiter, every shared block, the links, the Rind and the fabric stay as they are. -/
def Obligations.TileCommandsStayOnTheTile : Prop :=
  ∀ (i : Instr) (t : Tile) (s u : State), OfTile i t → exec i s = .next u →
    u = { s with regs := u.regs, resBad := u.resBad, tiles := u.tiles, arbs := u.arbs, net := u.net, netSeq := u.netSeq, vcb := u.vcb, events := u.events } ∧
    (∀ x, x ≠ t → u.tile x = s.tile x) ∧ ∀ b, b ≠ arbBase (.sfu t) → u.arb b = s.arb b

/-- A packet that moves, a reduction or a multicast, an access, message or flush of a Vat, a notice, a touch or a decay of counters changes, where it answers a next state, at most control registers, tiles, the shared blocks, the host agent, the epochs, arbiters, packets and links, events and the model's count of free values: no byte of scratchpad or cellar, no error mark, nothing of the Rind beside its host agent, nothing of the fabric. -/
def Obligations.NetworkCommandsStoreNothing : Prop :=
  ∀ (i : Instr) (s u : State), OfNetwork i → exec i s = .next u → u =
    { s with regs := u.regs, tiles := u.tiles, fields := u.fields, epochs := u.epochs, agent := u.agent, arbs := u.arbs, net := u.net, netSeq := u.netSeq,
             links := u.links, vcb := u.vcb, events := u.events, free := u.free }

/-- A doorbell, a completion entry, a message, a sideband or test-port command, a firmware, power or debug command of the Rind changes, where it answers a next state, at most control registers, the Rind's own state, arbiters (a sensor's report takes its cellar's grant) and events: no byte of scratchpad or cellar, no tile, no shared block, no packet, nothing of the fabric. -/
def Obligations.RindCommandsStayInTheRind : Prop :=
  ∀ (i : Instr) (s u : State), OfRind i → exec i s = .next u → u = { s with regs := u.regs, rind := u.rind, arbs := u.arbs, events := u.events }

/-- A command of a half-port, an engine, fabric time or an arbiter changes, where it answers a next state, at most control registers, live settings, arbiters, engines, half-ports, fabric time, packets with the numbers and ages they take, events and the model's count of free values: no memory, no tile, no shared block, nothing of the Rind. Of the other commands, resets but for power and RESET#, link and field bookkeeping, reads of registers, presses of jobs and scrubbing store no byte either. -/
def Obligations.FabricAndArbitersStoreNothing : Prop :=
  ∀ (i : Instr) (s u : State), exec i s = .next u →
    (OfFabric i → u = { s with regs := u.regs, live := u.live, arbs := u.arbs, engines := u.engines, hports := u.hports, sync := u.sync, net := u.net, netSeq := u.netSeq, vcb := u.vcb, events := u.events, free := u.free }) ∧ (StoresNothing i → u.mem = s.mem)
end

