-- ==== Sys2Proof/Laws/Table.lean ====
section
/-! SUPPORT. The laws of the sparse tables: a read after a write, and the canonical form that every write keeps. -/

namespace Sys2Proof.Machine

variable {α : Type}

@[simp] theorem tget_nil (d : α) (k : Nat) : tget d [] k = d := rfl

theorem tget_terase_self (d : α) (t : Table α) (k : Nat) : tget d (terase t k) k = d := by
  induction t with
  | nil => rfl
  | cons p t ih =>
    obtain ⟨k', v⟩ := p
    by_cases h : k' = k <;> simp [terase, tget, h, ih]

theorem tget_terase_ne (d : α) (t : Table α) {k j : Nat} (h : j ≠ k) : tget d (terase t k) j = tget d t j := by
  induction t with
  | nil => rfl
  | cons p t ih =>
    obtain ⟨k', v⟩ := p
    by_cases h' : k' = k
    · subst h'
      simp [terase, tget, ih, Ne.symm h]
    · simp [terase, tget, ih, h']

theorem tget_tinsert_ne (d : α) (t : Table α) (v : α) {k j : Nat} (h : j ≠ k) : tget d (tinsert k v t) j = tget d t j := by
  induction t with
  | nil => simp [tinsert, tget, Ne.symm h]
  | cons p t ih =>
    obtain ⟨k', v'⟩ := p
    by_cases h' : k < k'
    · simp [tinsert, tget, h', Ne.symm h]
    · simp [tinsert, tget, h', ih]

theorem tget_tinsert_self (d : α) (t : Table α) (k : Nat) (v : α) :
    tget d (tinsert k v (terase t k)) k = v := by
  induction t with
  | nil => simp [terase, tinsert, tget]
  | cons p t ih =>
    obtain ⟨k', v'⟩ := p
    by_cases h : k' = k
    · simp [terase, h, ih]
    · by_cases h' : k < k'
      · simp [terase, h, tinsert, tget, h']
      · simp [terase, h, tinsert, tget, h', ih]

/-- Clearing a set of keys puts them at their defaults and leaves the others alone. -/
theorem tget_tclear (p : Nat → Bool) (d : α) (t : Table α) (k : Nat) :
    tget d (tclear p t) k = if p k then d else tget d t k := by
  induction t with
  | nil => simp [tclear]
  | cons q t ih =>
    obtain ⟨k', v⟩ := q
    by_cases h : p k' = true
    · by_cases hk : k' = k
      · subst hk
        simp [tclear, h, ih]
      · simp [tclear, h, ih, tget, hk]
    · by_cases hk : k' = k
      · subst hk
        simp [tclear, h, tget]
      · simp [tclear, h, tget, ih, hk]

theorem ne_of_mem_terase {t : Table α} {k : Nat} {p : Nat × α} (h : p ∈ terase t k) : p.1 ≠ k := by
  induction t with
  | nil => simp [terase] at h
  | cons q t ih =>
    obtain ⟨k', v⟩ := q
    by_cases hk : k' = k
    · simp only [terase, hk, if_true] at h
      exact ih h
    · simp only [terase, hk, if_false, List.mem_cons] at h
      rcases h with rfl | h
      · exact hk
      · exact ih h

variable [DecidableEq α]

/-- A read after a write of the same key gives the value written. -/
@[simp] theorem tget_tset_self (d : α) (t : Table α) (k : Nat) (v : α) : tget d (tset d t k v) k = v := by
  unfold tset
  split
  · next h => rw [h, tget_terase_self]
  · exact tget_tinsert_self d t k v

/-- A write leaves every other key alone, whatever its own default was. -/
theorem tget_tset_ne (d e : α) (t : Table α) (v : α) {k j : Nat} (h : j ≠ k) : tget e (tset d t k v) j = tget e t j := by
  unfold tset
  split
  · exact tget_terase_ne e t h
  · rw [tget_tinsert_ne e _ v h, tget_terase_ne e t h]

/-! ### The canonical form -/

variable (d : Nat → α)

theorem twfFrom_mono {b c : Nat} {t : Table α} (h : twfFrom d b t = true) (hb : c ≤ b) : twfFrom d c t = true := by
  cases t with
  | nil => rfl
  | cons p t =>
    obtain ⟨k, v⟩ := p
    simp only [twfFrom, Bool.and_eq_true, decide_eq_true_eq] at h ⊢
    exact ⟨⟨Nat.le_trans hb h.1.1, h.1.2⟩, h.2⟩

theorem twfFrom_terase {b : Nat} {t : Table α} (h : twfFrom d b t = true) (k : Nat) : twfFrom d b (terase t k) = true := by
  induction t generalizing b with
  | nil => rfl
  | cons p t ih =>
    obtain ⟨k', v⟩ := p
    simp only [twfFrom, Bool.and_eq_true, decide_eq_true_eq] at h
    by_cases hk : k' = k
    · simp only [terase, hk, if_true]
      exact twfFrom_mono d (ih h.2) (by omega)
    · simp only [terase, hk, if_false, twfFrom, Bool.and_eq_true, decide_eq_true_eq]
      exact ⟨h.1, ih h.2⟩

theorem twfFrom_tinsert {b k : Nat} {v : α} {t : Table α} (h : twfFrom d b t = true) (hb : b ≤ k) (hv : v ≠ d k)
    (hk : ∀ p ∈ t, p.1 ≠ k) : twfFrom d b (tinsert k v t) = true := by
  induction t generalizing b with
  | nil => simp [tinsert, twfFrom, hb, hv]
  | cons p t ih =>
    obtain ⟨k', v'⟩ := p
    simp only [twfFrom, Bool.and_eq_true, decide_eq_true_eq] at h
    have hne : k' ≠ k := hk (k', v') (List.mem_cons_self ..)
    by_cases hlt : k < k'
    · simp only [tinsert, hlt, if_true, twfFrom, Bool.and_eq_true, decide_eq_true_eq]
      exact ⟨⟨hb, hv⟩, ⟨by omega, h.1.2⟩, h.2⟩
    · simp only [tinsert, hlt, if_false, twfFrom, Bool.and_eq_true, decide_eq_true_eq]
      exact ⟨h.1, ih h.2 (by omega) fun q hq => hk q (by simp [hq])⟩

/-- A write keeps the canonical form. -/
theorem twf_tset {t : Table α} (h : twf d t = true) (k : Nat) (v : α) : twf d (tset (d k) t k v) = true := by
  unfold tset twf at *
  split
  · exact twfFrom_terase d h k
  · next hv => exact twfFrom_tinsert d (twfFrom_terase d h k) (Nat.zero_le k) hv fun p hp => ne_of_mem_terase hp

/-- Clearing keys keeps the canonical form. -/
theorem twf_tclear (p : Nat → Bool) {t : Table α} (h : twf d t = true) : twf d (tclear p t) = true := by
  have go : ∀ (t : Table α) (b : Nat), twfFrom d b t = true → twfFrom d b (tclear p t) = true := by
    intro t
    induction t with
    | nil => intro b _; rfl
    | cons q t ih =>
      intro b h
      obtain ⟨k, v⟩ := q
      simp only [twfFrom, Bool.and_eq_true, decide_eq_true_eq] at h
      by_cases hp : p k = true
      · simp only [tclear, hp, if_true]
        exact twfFrom_mono d (ih _ h.2) (by omega)
      · simp only [tclear, hp, if_false, twfFrom, Bool.and_eq_true, decide_eq_true_eq, Bool.false_eq_true]
        exact ⟨h.1, ih _ h.2⟩
  exact go t 0 h

end Sys2Proof.Machine
end

