-- ==== Sys2Proof/Laws/State.lean ====
section
/-! SUPPORT. What each primitive update of the state leaves alone, field by field, and what is read back after it. -/

namespace Sys2Proof.Machine

@[simp] theorem State.setReg_pending (s : State) (ca : Nat) (v : Word) : (s.setReg ca v).pending = s.pending := rfl
@[simp] theorem State.setReg_live (s : State) (ca : Nat) (v : Word) : (s.setReg ca v).live = s.live := rfl
@[simp] theorem State.setReg_mem (s : State) (ca : Nat) (v : Word) : (s.setReg ca v).mem = s.mem := rfl
@[simp] theorem State.setReg_ecc (s : State) (ca : Nat) (v : Word) : (s.setReg ca v).ecc = s.ecc := rfl
@[simp] theorem State.setReg_resBad (s : State) (ca : Nat) (v : Word) : (s.setReg ca v).resBad = s.resBad := rfl
@[simp] theorem State.setReg_times (s : State) (ca : Nat) (v : Word) : (s.setReg ca v).times = s.times := rfl
@[simp] theorem State.setReg_tiles (s : State) (ca : Nat) (v : Word) : (s.setReg ca v).tiles = s.tiles := rfl
@[simp] theorem State.setReg_fields (s : State) (ca : Nat) (v : Word) : (s.setReg ca v).fields = s.fields := rfl
@[simp] theorem State.setReg_epochs (s : State) (ca : Nat) (v : Word) : (s.setReg ca v).epochs = s.epochs := rfl
@[simp] theorem State.setReg_agent (s : State) (ca : Nat) (v : Word) : (s.setReg ca v).agent = s.agent := rfl
@[simp] theorem State.setReg_rind (s : State) (ca : Nat) (v : Word) : (s.setReg ca v).rind = s.rind := rfl
@[simp] theorem State.setReg_arbs (s : State) (ca : Nat) (v : Word) : (s.setReg ca v).arbs = s.arbs := rfl
@[simp] theorem State.setReg_engines (s : State) (ca : Nat) (v : Word) : (s.setReg ca v).engines = s.engines := rfl
@[simp] theorem State.setReg_hports (s : State) (ca : Nat) (v : Word) : (s.setReg ca v).hports = s.hports := rfl
@[simp] theorem State.setReg_sync (s : State) (ca : Nat) (v : Word) : (s.setReg ca v).sync = s.sync := rfl
@[simp] theorem State.setReg_net (s : State) (ca : Nat) (v : Word) : (s.setReg ca v).net = s.net := rfl
@[simp] theorem State.setReg_events (s : State) (ca : Nat) (v : Word) : (s.setReg ca v).events = s.events := rfl
@[simp] theorem State.setReg_free (s : State) (ca : Nat) (v : Word) : (s.setReg ca v).free = s.free := rfl
@[simp] theorem State.setReg_netSeq (s : State) (ca : Nat) (v : Word) : (s.setReg ca v).netSeq = s.netSeq := rfl
@[simp] theorem State.setReg_links (s : State) (ca : Nat) (v : Word) : (s.setReg ca v).links = s.links := rfl
@[simp] theorem State.setReg_vcb (s : State) (ca : Nat) (v : Word) : (s.setReg ca v).vcb = s.vcb := rfl

@[simp] theorem State.setFld_pending (s : State) (ca hi lo v : Nat) : (s.setFld ca hi lo v).pending = s.pending := rfl
@[simp] theorem State.setFld_live (s : State) (ca hi lo v : Nat) : (s.setFld ca hi lo v).live = s.live := rfl
@[simp] theorem State.setFld_mem (s : State) (ca hi lo v : Nat) : (s.setFld ca hi lo v).mem = s.mem := rfl
@[simp] theorem State.setFld_ecc (s : State) (ca hi lo v : Nat) : (s.setFld ca hi lo v).ecc = s.ecc := rfl
@[simp] theorem State.setFld_resBad (s : State) (ca hi lo v : Nat) : (s.setFld ca hi lo v).resBad = s.resBad := rfl
@[simp] theorem State.setFld_times (s : State) (ca hi lo v : Nat) : (s.setFld ca hi lo v).times = s.times := rfl
@[simp] theorem State.setFld_tiles (s : State) (ca hi lo v : Nat) : (s.setFld ca hi lo v).tiles = s.tiles := rfl
@[simp] theorem State.setFld_fields (s : State) (ca hi lo v : Nat) : (s.setFld ca hi lo v).fields = s.fields := rfl
@[simp] theorem State.setFld_epochs (s : State) (ca hi lo v : Nat) : (s.setFld ca hi lo v).epochs = s.epochs := rfl
@[simp] theorem State.setFld_agent (s : State) (ca hi lo v : Nat) : (s.setFld ca hi lo v).agent = s.agent := rfl
@[simp] theorem State.setFld_rind (s : State) (ca hi lo v : Nat) : (s.setFld ca hi lo v).rind = s.rind := rfl
@[simp] theorem State.setFld_arbs (s : State) (ca hi lo v : Nat) : (s.setFld ca hi lo v).arbs = s.arbs := rfl
@[simp] theorem State.setFld_engines (s : State) (ca hi lo v : Nat) : (s.setFld ca hi lo v).engines = s.engines := rfl
@[simp] theorem State.setFld_hports (s : State) (ca hi lo v : Nat) : (s.setFld ca hi lo v).hports = s.hports := rfl
@[simp] theorem State.setFld_sync (s : State) (ca hi lo v : Nat) : (s.setFld ca hi lo v).sync = s.sync := rfl
@[simp] theorem State.setFld_net (s : State) (ca hi lo v : Nat) : (s.setFld ca hi lo v).net = s.net := rfl
@[simp] theorem State.setFld_events (s : State) (ca hi lo v : Nat) : (s.setFld ca hi lo v).events = s.events := rfl
@[simp] theorem State.setFld_free (s : State) (ca hi lo v : Nat) : (s.setFld ca hi lo v).free = s.free := rfl
@[simp] theorem State.setFld_netSeq (s : State) (ca hi lo v : Nat) : (s.setFld ca hi lo v).netSeq = s.netSeq := rfl
@[simp] theorem State.setFld_links (s : State) (ca hi lo v : Nat) : (s.setFld ca hi lo v).links = s.links := rfl
@[simp] theorem State.setFld_vcb (s : State) (ca hi lo v : Nat) : (s.setFld ca hi lo v).vcb = s.vcb := rfl

@[simp] theorem State.orReg_pending (s : State) (ca : Nat) (m : Word) : (s.orReg ca m).pending = s.pending := rfl
@[simp] theorem State.orReg_live (s : State) (ca : Nat) (m : Word) : (s.orReg ca m).live = s.live := rfl
@[simp] theorem State.orReg_mem (s : State) (ca : Nat) (m : Word) : (s.orReg ca m).mem = s.mem := rfl
@[simp] theorem State.orReg_ecc (s : State) (ca : Nat) (m : Word) : (s.orReg ca m).ecc = s.ecc := rfl
@[simp] theorem State.orReg_resBad (s : State) (ca : Nat) (m : Word) : (s.orReg ca m).resBad = s.resBad := rfl
@[simp] theorem State.orReg_times (s : State) (ca : Nat) (m : Word) : (s.orReg ca m).times = s.times := rfl
@[simp] theorem State.orReg_tiles (s : State) (ca : Nat) (m : Word) : (s.orReg ca m).tiles = s.tiles := rfl
@[simp] theorem State.orReg_fields (s : State) (ca : Nat) (m : Word) : (s.orReg ca m).fields = s.fields := rfl
@[simp] theorem State.orReg_epochs (s : State) (ca : Nat) (m : Word) : (s.orReg ca m).epochs = s.epochs := rfl
@[simp] theorem State.orReg_agent (s : State) (ca : Nat) (m : Word) : (s.orReg ca m).agent = s.agent := rfl
@[simp] theorem State.orReg_rind (s : State) (ca : Nat) (m : Word) : (s.orReg ca m).rind = s.rind := rfl
@[simp] theorem State.orReg_arbs (s : State) (ca : Nat) (m : Word) : (s.orReg ca m).arbs = s.arbs := rfl
@[simp] theorem State.orReg_engines (s : State) (ca : Nat) (m : Word) : (s.orReg ca m).engines = s.engines := rfl
@[simp] theorem State.orReg_hports (s : State) (ca : Nat) (m : Word) : (s.orReg ca m).hports = s.hports := rfl
@[simp] theorem State.orReg_sync (s : State) (ca : Nat) (m : Word) : (s.orReg ca m).sync = s.sync := rfl
@[simp] theorem State.orReg_net (s : State) (ca : Nat) (m : Word) : (s.orReg ca m).net = s.net := rfl
@[simp] theorem State.orReg_events (s : State) (ca : Nat) (m : Word) : (s.orReg ca m).events = s.events := rfl
@[simp] theorem State.orReg_free (s : State) (ca : Nat) (m : Word) : (s.orReg ca m).free = s.free := rfl
@[simp] theorem State.orReg_netSeq (s : State) (ca : Nat) (m : Word) : (s.orReg ca m).netSeq = s.netSeq := rfl
@[simp] theorem State.orReg_links (s : State) (ca : Nat) (m : Word) : (s.orReg ca m).links = s.links := rfl
@[simp] theorem State.orReg_vcb (s : State) (ca : Nat) (m : Word) : (s.orReg ca m).vcb = s.vcb := rfl

@[simp] theorem State.raise_pending (s : State) (ca n : Nat) : (s.raise ca n).pending = s.pending := rfl
@[simp] theorem State.raise_live (s : State) (ca n : Nat) : (s.raise ca n).live = s.live := rfl
@[simp] theorem State.raise_mem (s : State) (ca n : Nat) : (s.raise ca n).mem = s.mem := rfl
@[simp] theorem State.raise_ecc (s : State) (ca n : Nat) : (s.raise ca n).ecc = s.ecc := rfl
@[simp] theorem State.raise_resBad (s : State) (ca n : Nat) : (s.raise ca n).resBad = s.resBad := rfl
@[simp] theorem State.raise_times (s : State) (ca n : Nat) : (s.raise ca n).times = s.times := rfl
@[simp] theorem State.raise_tiles (s : State) (ca n : Nat) : (s.raise ca n).tiles = s.tiles := rfl
@[simp] theorem State.raise_fields (s : State) (ca n : Nat) : (s.raise ca n).fields = s.fields := rfl
@[simp] theorem State.raise_epochs (s : State) (ca n : Nat) : (s.raise ca n).epochs = s.epochs := rfl
@[simp] theorem State.raise_agent (s : State) (ca n : Nat) : (s.raise ca n).agent = s.agent := rfl
@[simp] theorem State.raise_rind (s : State) (ca n : Nat) : (s.raise ca n).rind = s.rind := rfl
@[simp] theorem State.raise_arbs (s : State) (ca n : Nat) : (s.raise ca n).arbs = s.arbs := rfl
@[simp] theorem State.raise_engines (s : State) (ca n : Nat) : (s.raise ca n).engines = s.engines := rfl
@[simp] theorem State.raise_hports (s : State) (ca n : Nat) : (s.raise ca n).hports = s.hports := rfl
@[simp] theorem State.raise_sync (s : State) (ca n : Nat) : (s.raise ca n).sync = s.sync := rfl
@[simp] theorem State.raise_net (s : State) (ca n : Nat) : (s.raise ca n).net = s.net := rfl
@[simp] theorem State.raise_events (s : State) (ca n : Nat) : (s.raise ca n).events = s.events := rfl
@[simp] theorem State.raise_free (s : State) (ca n : Nat) : (s.raise ca n).free = s.free := rfl
@[simp] theorem State.raise_netSeq (s : State) (ca n : Nat) : (s.raise ca n).netSeq = s.netSeq := rfl
@[simp] theorem State.raise_links (s : State) (ca n : Nat) : (s.raise ca n).links = s.links := rfl
@[simp] theorem State.raise_vcb (s : State) (ca n : Nat) : (s.raise ca n).vcb = s.vcb := rfl

@[simp] theorem State.setLive_pending (s : State) (ca : Nat) (v : Word) : (s.setLive ca v).pending = s.pending := rfl
@[simp] theorem State.setLive_regs (s : State) (ca : Nat) (v : Word) : (s.setLive ca v).regs = s.regs := rfl
@[simp] theorem State.setLive_mem (s : State) (ca : Nat) (v : Word) : (s.setLive ca v).mem = s.mem := rfl
@[simp] theorem State.setLive_ecc (s : State) (ca : Nat) (v : Word) : (s.setLive ca v).ecc = s.ecc := rfl
@[simp] theorem State.setLive_resBad (s : State) (ca : Nat) (v : Word) : (s.setLive ca v).resBad = s.resBad := rfl
@[simp] theorem State.setLive_times (s : State) (ca : Nat) (v : Word) : (s.setLive ca v).times = s.times := rfl
@[simp] theorem State.setLive_tiles (s : State) (ca : Nat) (v : Word) : (s.setLive ca v).tiles = s.tiles := rfl
@[simp] theorem State.setLive_fields (s : State) (ca : Nat) (v : Word) : (s.setLive ca v).fields = s.fields := rfl
@[simp] theorem State.setLive_epochs (s : State) (ca : Nat) (v : Word) : (s.setLive ca v).epochs = s.epochs := rfl
@[simp] theorem State.setLive_agent (s : State) (ca : Nat) (v : Word) : (s.setLive ca v).agent = s.agent := rfl
@[simp] theorem State.setLive_rind (s : State) (ca : Nat) (v : Word) : (s.setLive ca v).rind = s.rind := rfl
@[simp] theorem State.setLive_arbs (s : State) (ca : Nat) (v : Word) : (s.setLive ca v).arbs = s.arbs := rfl
@[simp] theorem State.setLive_engines (s : State) (ca : Nat) (v : Word) : (s.setLive ca v).engines = s.engines := rfl
@[simp] theorem State.setLive_hports (s : State) (ca : Nat) (v : Word) : (s.setLive ca v).hports = s.hports := rfl
@[simp] theorem State.setLive_sync (s : State) (ca : Nat) (v : Word) : (s.setLive ca v).sync = s.sync := rfl
@[simp] theorem State.setLive_net (s : State) (ca : Nat) (v : Word) : (s.setLive ca v).net = s.net := rfl
@[simp] theorem State.setLive_events (s : State) (ca : Nat) (v : Word) : (s.setLive ca v).events = s.events := rfl
@[simp] theorem State.setLive_free (s : State) (ca : Nat) (v : Word) : (s.setLive ca v).free = s.free := rfl
@[simp] theorem State.setLive_netSeq (s : State) (ca : Nat) (v : Word) : (s.setLive ca v).netSeq = s.netSeq := rfl
@[simp] theorem State.setLive_links (s : State) (ca : Nat) (v : Word) : (s.setLive ca v).links = s.links := rfl
@[simp] theorem State.setLive_vcb (s : State) (ca : Nat) (v : Word) : (s.setLive ca v).vcb = s.vcb := rfl

@[simp] theorem State.post_pending (s : State) (code : Nat) (job ctx : Option Nat) (field site : Nat) (detail : Word) : (s.post code job ctx field site detail).pending = s.pending := rfl
@[simp] theorem State.post_regs (s : State) (code : Nat) (job ctx : Option Nat) (field site : Nat) (detail : Word) : (s.post code job ctx field site detail).regs = s.regs := rfl
@[simp] theorem State.post_live (s : State) (code : Nat) (job ctx : Option Nat) (field site : Nat) (detail : Word) : (s.post code job ctx field site detail).live = s.live := rfl
@[simp] theorem State.post_mem (s : State) (code : Nat) (job ctx : Option Nat) (field site : Nat) (detail : Word) : (s.post code job ctx field site detail).mem = s.mem := rfl
@[simp] theorem State.post_ecc (s : State) (code : Nat) (job ctx : Option Nat) (field site : Nat) (detail : Word) : (s.post code job ctx field site detail).ecc = s.ecc := rfl
@[simp] theorem State.post_resBad (s : State) (code : Nat) (job ctx : Option Nat) (field site : Nat) (detail : Word) : (s.post code job ctx field site detail).resBad = s.resBad := rfl
@[simp] theorem State.post_times (s : State) (code : Nat) (job ctx : Option Nat) (field site : Nat) (detail : Word) : (s.post code job ctx field site detail).times = s.times := rfl
@[simp] theorem State.post_tiles (s : State) (code : Nat) (job ctx : Option Nat) (field site : Nat) (detail : Word) : (s.post code job ctx field site detail).tiles = s.tiles := rfl
@[simp] theorem State.post_fields (s : State) (code : Nat) (job ctx : Option Nat) (field site : Nat) (detail : Word) : (s.post code job ctx field site detail).fields = s.fields := rfl
@[simp] theorem State.post_epochs (s : State) (code : Nat) (job ctx : Option Nat) (field site : Nat) (detail : Word) : (s.post code job ctx field site detail).epochs = s.epochs := rfl
@[simp] theorem State.post_agent (s : State) (code : Nat) (job ctx : Option Nat) (field site : Nat) (detail : Word) : (s.post code job ctx field site detail).agent = s.agent := rfl
@[simp] theorem State.post_rind (s : State) (code : Nat) (job ctx : Option Nat) (field site : Nat) (detail : Word) : (s.post code job ctx field site detail).rind = s.rind := rfl
@[simp] theorem State.post_arbs (s : State) (code : Nat) (job ctx : Option Nat) (field site : Nat) (detail : Word) : (s.post code job ctx field site detail).arbs = s.arbs := rfl
@[simp] theorem State.post_engines (s : State) (code : Nat) (job ctx : Option Nat) (field site : Nat) (detail : Word) : (s.post code job ctx field site detail).engines = s.engines := rfl
@[simp] theorem State.post_hports (s : State) (code : Nat) (job ctx : Option Nat) (field site : Nat) (detail : Word) : (s.post code job ctx field site detail).hports = s.hports := rfl
@[simp] theorem State.post_sync (s : State) (code : Nat) (job ctx : Option Nat) (field site : Nat) (detail : Word) : (s.post code job ctx field site detail).sync = s.sync := rfl
@[simp] theorem State.post_net (s : State) (code : Nat) (job ctx : Option Nat) (field site : Nat) (detail : Word) : (s.post code job ctx field site detail).net = s.net := rfl
@[simp] theorem State.post_free (s : State) (code : Nat) (job ctx : Option Nat) (field site : Nat) (detail : Word) : (s.post code job ctx field site detail).free = s.free := rfl
@[simp] theorem State.post_netSeq (s : State) (code : Nat) (job ctx : Option Nat) (field site : Nat) (detail : Word) : (s.post code job ctx field site detail).netSeq = s.netSeq := rfl
@[simp] theorem State.post_links (s : State) (code : Nat) (job ctx : Option Nat) (field site : Nat) (detail : Word) : (s.post code job ctx field site detail).links = s.links := rfl
@[simp] theorem State.post_vcb (s : State) (code : Nat) (job ctx : Option Nat) (field site : Nat) (detail : Word) : (s.post code job ctx field site detail).vcb = s.vcb := rfl

@[simp] theorem State.configError_pending (s : State) (ca : Nat) : (s.configError ca).pending = s.pending := rfl
@[simp] theorem State.configError_regs (s : State) (ca : Nat) : (s.configError ca).regs = s.regs := rfl
@[simp] theorem State.configError_live (s : State) (ca : Nat) : (s.configError ca).live = s.live := rfl
@[simp] theorem State.configError_mem (s : State) (ca : Nat) : (s.configError ca).mem = s.mem := rfl
@[simp] theorem State.configError_ecc (s : State) (ca : Nat) : (s.configError ca).ecc = s.ecc := rfl
@[simp] theorem State.configError_resBad (s : State) (ca : Nat) : (s.configError ca).resBad = s.resBad := rfl
@[simp] theorem State.configError_times (s : State) (ca : Nat) : (s.configError ca).times = s.times := rfl
@[simp] theorem State.configError_tiles (s : State) (ca : Nat) : (s.configError ca).tiles = s.tiles := rfl
@[simp] theorem State.configError_fields (s : State) (ca : Nat) : (s.configError ca).fields = s.fields := rfl
@[simp] theorem State.configError_epochs (s : State) (ca : Nat) : (s.configError ca).epochs = s.epochs := rfl
@[simp] theorem State.configError_agent (s : State) (ca : Nat) : (s.configError ca).agent = s.agent := rfl
@[simp] theorem State.configError_rind (s : State) (ca : Nat) : (s.configError ca).rind = s.rind := rfl
@[simp] theorem State.configError_arbs (s : State) (ca : Nat) : (s.configError ca).arbs = s.arbs := rfl
@[simp] theorem State.configError_engines (s : State) (ca : Nat) : (s.configError ca).engines = s.engines := rfl
@[simp] theorem State.configError_hports (s : State) (ca : Nat) : (s.configError ca).hports = s.hports := rfl
@[simp] theorem State.configError_sync (s : State) (ca : Nat) : (s.configError ca).sync = s.sync := rfl
@[simp] theorem State.configError_net (s : State) (ca : Nat) : (s.configError ca).net = s.net := rfl
@[simp] theorem State.configError_free (s : State) (ca : Nat) : (s.configError ca).free = s.free := rfl
@[simp] theorem State.configError_netSeq (s : State) (ca : Nat) : (s.configError ca).netSeq = s.netSeq := rfl
@[simp] theorem State.configError_links (s : State) (ca : Nat) : (s.configError ca).links = s.links := rfl
@[simp] theorem State.configError_vcb (s : State) (ca : Nat) : (s.configError ca).vcb = s.vcb := rfl

@[simp] theorem State.caError_pending (s : State) (ca : Nat) : (s.caError ca).pending = s.pending := rfl
@[simp] theorem State.caError_regs (s : State) (ca : Nat) : (s.caError ca).regs = s.regs := rfl
@[simp] theorem State.caError_live (s : State) (ca : Nat) : (s.caError ca).live = s.live := rfl
@[simp] theorem State.caError_mem (s : State) (ca : Nat) : (s.caError ca).mem = s.mem := rfl
@[simp] theorem State.caError_ecc (s : State) (ca : Nat) : (s.caError ca).ecc = s.ecc := rfl
@[simp] theorem State.caError_resBad (s : State) (ca : Nat) : (s.caError ca).resBad = s.resBad := rfl
@[simp] theorem State.caError_times (s : State) (ca : Nat) : (s.caError ca).times = s.times := rfl
@[simp] theorem State.caError_tiles (s : State) (ca : Nat) : (s.caError ca).tiles = s.tiles := rfl
@[simp] theorem State.caError_fields (s : State) (ca : Nat) : (s.caError ca).fields = s.fields := rfl
@[simp] theorem State.caError_epochs (s : State) (ca : Nat) : (s.caError ca).epochs = s.epochs := rfl
@[simp] theorem State.caError_agent (s : State) (ca : Nat) : (s.caError ca).agent = s.agent := rfl
@[simp] theorem State.caError_rind (s : State) (ca : Nat) : (s.caError ca).rind = s.rind := rfl
@[simp] theorem State.caError_arbs (s : State) (ca : Nat) : (s.caError ca).arbs = s.arbs := rfl
@[simp] theorem State.caError_engines (s : State) (ca : Nat) : (s.caError ca).engines = s.engines := rfl
@[simp] theorem State.caError_hports (s : State) (ca : Nat) : (s.caError ca).hports = s.hports := rfl
@[simp] theorem State.caError_sync (s : State) (ca : Nat) : (s.caError ca).sync = s.sync := rfl
@[simp] theorem State.caError_net (s : State) (ca : Nat) : (s.caError ca).net = s.net := rfl
@[simp] theorem State.caError_free (s : State) (ca : Nat) : (s.caError ca).free = s.free := rfl
@[simp] theorem State.caError_netSeq (s : State) (ca : Nat) : (s.caError ca).netSeq = s.netSeq := rfl
@[simp] theorem State.caError_links (s : State) (ca : Nat) : (s.caError ca).links = s.links := rfl
@[simp] theorem State.caError_vcb (s : State) (ca : Nat) : (s.caError ca).vcb = s.vcb := rfl

@[simp] theorem State.postCtx_pending (s : State) (code : Nat) (t : Tile) (c : CtxNo) (detail : Word) : (s.postCtx code t c detail).pending = s.pending := rfl
@[simp] theorem State.postCtx_regs (s : State) (code : Nat) (t : Tile) (c : CtxNo) (detail : Word) : (s.postCtx code t c detail).regs = s.regs := rfl
@[simp] theorem State.postCtx_live (s : State) (code : Nat) (t : Tile) (c : CtxNo) (detail : Word) : (s.postCtx code t c detail).live = s.live := rfl
@[simp] theorem State.postCtx_mem (s : State) (code : Nat) (t : Tile) (c : CtxNo) (detail : Word) : (s.postCtx code t c detail).mem = s.mem := rfl
@[simp] theorem State.postCtx_ecc (s : State) (code : Nat) (t : Tile) (c : CtxNo) (detail : Word) : (s.postCtx code t c detail).ecc = s.ecc := rfl
@[simp] theorem State.postCtx_resBad (s : State) (code : Nat) (t : Tile) (c : CtxNo) (detail : Word) : (s.postCtx code t c detail).resBad = s.resBad := rfl
@[simp] theorem State.postCtx_times (s : State) (code : Nat) (t : Tile) (c : CtxNo) (detail : Word) : (s.postCtx code t c detail).times = s.times := rfl
@[simp] theorem State.postCtx_tiles (s : State) (code : Nat) (t : Tile) (c : CtxNo) (detail : Word) : (s.postCtx code t c detail).tiles = s.tiles := rfl
@[simp] theorem State.postCtx_fields (s : State) (code : Nat) (t : Tile) (c : CtxNo) (detail : Word) : (s.postCtx code t c detail).fields = s.fields := rfl
@[simp] theorem State.postCtx_epochs (s : State) (code : Nat) (t : Tile) (c : CtxNo) (detail : Word) : (s.postCtx code t c detail).epochs = s.epochs := rfl
@[simp] theorem State.postCtx_agent (s : State) (code : Nat) (t : Tile) (c : CtxNo) (detail : Word) : (s.postCtx code t c detail).agent = s.agent := rfl
@[simp] theorem State.postCtx_rind (s : State) (code : Nat) (t : Tile) (c : CtxNo) (detail : Word) : (s.postCtx code t c detail).rind = s.rind := rfl
@[simp] theorem State.postCtx_arbs (s : State) (code : Nat) (t : Tile) (c : CtxNo) (detail : Word) : (s.postCtx code t c detail).arbs = s.arbs := rfl
@[simp] theorem State.postCtx_engines (s : State) (code : Nat) (t : Tile) (c : CtxNo) (detail : Word) : (s.postCtx code t c detail).engines = s.engines := rfl
@[simp] theorem State.postCtx_hports (s : State) (code : Nat) (t : Tile) (c : CtxNo) (detail : Word) : (s.postCtx code t c detail).hports = s.hports := rfl
@[simp] theorem State.postCtx_sync (s : State) (code : Nat) (t : Tile) (c : CtxNo) (detail : Word) : (s.postCtx code t c detail).sync = s.sync := rfl
@[simp] theorem State.postCtx_net (s : State) (code : Nat) (t : Tile) (c : CtxNo) (detail : Word) : (s.postCtx code t c detail).net = s.net := rfl
@[simp] theorem State.postCtx_free (s : State) (code : Nat) (t : Tile) (c : CtxNo) (detail : Word) : (s.postCtx code t c detail).free = s.free := rfl
@[simp] theorem State.postCtx_netSeq (s : State) (code : Nat) (t : Tile) (c : CtxNo) (detail : Word) : (s.postCtx code t c detail).netSeq = s.netSeq := rfl
@[simp] theorem State.postCtx_links (s : State) (code : Nat) (t : Tile) (c : CtxNo) (detail : Word) : (s.postCtx code t c detail).links = s.links := rfl
@[simp] theorem State.postCtx_vcb (s : State) (code : Nat) (t : Tile) (c : CtxNo) (detail : Word) : (s.postCtx code t c detail).vcb = s.vcb := rfl

@[simp] theorem State.postTile_pending (s : State) (code : Nat) (t : Tile) (detail : Word) : (s.postTile code t detail).pending = s.pending := rfl
@[simp] theorem State.postTile_regs (s : State) (code : Nat) (t : Tile) (detail : Word) : (s.postTile code t detail).regs = s.regs := rfl
@[simp] theorem State.postTile_live (s : State) (code : Nat) (t : Tile) (detail : Word) : (s.postTile code t detail).live = s.live := rfl
@[simp] theorem State.postTile_mem (s : State) (code : Nat) (t : Tile) (detail : Word) : (s.postTile code t detail).mem = s.mem := rfl
@[simp] theorem State.postTile_ecc (s : State) (code : Nat) (t : Tile) (detail : Word) : (s.postTile code t detail).ecc = s.ecc := rfl
@[simp] theorem State.postTile_resBad (s : State) (code : Nat) (t : Tile) (detail : Word) : (s.postTile code t detail).resBad = s.resBad := rfl
@[simp] theorem State.postTile_times (s : State) (code : Nat) (t : Tile) (detail : Word) : (s.postTile code t detail).times = s.times := rfl
@[simp] theorem State.postTile_tiles (s : State) (code : Nat) (t : Tile) (detail : Word) : (s.postTile code t detail).tiles = s.tiles := rfl
@[simp] theorem State.postTile_fields (s : State) (code : Nat) (t : Tile) (detail : Word) : (s.postTile code t detail).fields = s.fields := rfl
@[simp] theorem State.postTile_epochs (s : State) (code : Nat) (t : Tile) (detail : Word) : (s.postTile code t detail).epochs = s.epochs := rfl
@[simp] theorem State.postTile_agent (s : State) (code : Nat) (t : Tile) (detail : Word) : (s.postTile code t detail).agent = s.agent := rfl
@[simp] theorem State.postTile_rind (s : State) (code : Nat) (t : Tile) (detail : Word) : (s.postTile code t detail).rind = s.rind := rfl
@[simp] theorem State.postTile_arbs (s : State) (code : Nat) (t : Tile) (detail : Word) : (s.postTile code t detail).arbs = s.arbs := rfl
@[simp] theorem State.postTile_engines (s : State) (code : Nat) (t : Tile) (detail : Word) : (s.postTile code t detail).engines = s.engines := rfl
@[simp] theorem State.postTile_hports (s : State) (code : Nat) (t : Tile) (detail : Word) : (s.postTile code t detail).hports = s.hports := rfl
@[simp] theorem State.postTile_sync (s : State) (code : Nat) (t : Tile) (detail : Word) : (s.postTile code t detail).sync = s.sync := rfl
@[simp] theorem State.postTile_net (s : State) (code : Nat) (t : Tile) (detail : Word) : (s.postTile code t detail).net = s.net := rfl
@[simp] theorem State.postTile_free (s : State) (code : Nat) (t : Tile) (detail : Word) : (s.postTile code t detail).free = s.free := rfl
@[simp] theorem State.postTile_netSeq (s : State) (code : Nat) (t : Tile) (detail : Word) : (s.postTile code t detail).netSeq = s.netSeq := rfl
@[simp] theorem State.postTile_links (s : State) (code : Nat) (t : Tile) (detail : Word) : (s.postTile code t detail).links = s.links := rfl
@[simp] theorem State.postTile_vcb (s : State) (code : Nat) (t : Tile) (detail : Word) : (s.postTile code t detail).vcb = s.vcb := rfl

@[simp] theorem State.setByte_pending (s : State) (a : Nat) (b : Byte) : (s.setByte a b).pending = s.pending := rfl
@[simp] theorem State.setByte_regs (s : State) (a : Nat) (b : Byte) : (s.setByte a b).regs = s.regs := rfl
@[simp] theorem State.setByte_live (s : State) (a : Nat) (b : Byte) : (s.setByte a b).live = s.live := rfl
@[simp] theorem State.setByte_ecc (s : State) (a : Nat) (b : Byte) : (s.setByte a b).ecc = s.ecc := rfl
@[simp] theorem State.setByte_resBad (s : State) (a : Nat) (b : Byte) : (s.setByte a b).resBad = s.resBad := rfl
@[simp] theorem State.setByte_times (s : State) (a : Nat) (b : Byte) : (s.setByte a b).times = s.times := rfl
@[simp] theorem State.setByte_tiles (s : State) (a : Nat) (b : Byte) : (s.setByte a b).tiles = s.tiles := rfl
@[simp] theorem State.setByte_fields (s : State) (a : Nat) (b : Byte) : (s.setByte a b).fields = s.fields := rfl
@[simp] theorem State.setByte_epochs (s : State) (a : Nat) (b : Byte) : (s.setByte a b).epochs = s.epochs := rfl
@[simp] theorem State.setByte_agent (s : State) (a : Nat) (b : Byte) : (s.setByte a b).agent = s.agent := rfl
@[simp] theorem State.setByte_rind (s : State) (a : Nat) (b : Byte) : (s.setByte a b).rind = s.rind := rfl
@[simp] theorem State.setByte_arbs (s : State) (a : Nat) (b : Byte) : (s.setByte a b).arbs = s.arbs := rfl
@[simp] theorem State.setByte_engines (s : State) (a : Nat) (b : Byte) : (s.setByte a b).engines = s.engines := rfl
@[simp] theorem State.setByte_hports (s : State) (a : Nat) (b : Byte) : (s.setByte a b).hports = s.hports := rfl
@[simp] theorem State.setByte_sync (s : State) (a : Nat) (b : Byte) : (s.setByte a b).sync = s.sync := rfl
@[simp] theorem State.setByte_net (s : State) (a : Nat) (b : Byte) : (s.setByte a b).net = s.net := rfl
@[simp] theorem State.setByte_events (s : State) (a : Nat) (b : Byte) : (s.setByte a b).events = s.events := rfl
@[simp] theorem State.setByte_free (s : State) (a : Nat) (b : Byte) : (s.setByte a b).free = s.free := rfl
@[simp] theorem State.setByte_netSeq (s : State) (a : Nat) (b : Byte) : (s.setByte a b).netSeq = s.netSeq := rfl
@[simp] theorem State.setByte_links (s : State) (a : Nat) (b : Byte) : (s.setByte a b).links = s.links := rfl
@[simp] theorem State.setByte_vcb (s : State) (a : Nat) (b : Byte) : (s.setByte a b).vcb = s.vcb := rfl

@[simp] theorem State.clearRange_pending (s : State) (a n : Nat) : (s.clearRange a n).pending = s.pending := rfl
@[simp] theorem State.clearRange_regs (s : State) (a n : Nat) : (s.clearRange a n).regs = s.regs := rfl
@[simp] theorem State.clearRange_live (s : State) (a n : Nat) : (s.clearRange a n).live = s.live := rfl
@[simp] theorem State.clearRange_resBad (s : State) (a n : Nat) : (s.clearRange a n).resBad = s.resBad := rfl
@[simp] theorem State.clearRange_times (s : State) (a n : Nat) : (s.clearRange a n).times = s.times := rfl
@[simp] theorem State.clearRange_tiles (s : State) (a n : Nat) : (s.clearRange a n).tiles = s.tiles := rfl
@[simp] theorem State.clearRange_fields (s : State) (a n : Nat) : (s.clearRange a n).fields = s.fields := rfl
@[simp] theorem State.clearRange_epochs (s : State) (a n : Nat) : (s.clearRange a n).epochs = s.epochs := rfl
@[simp] theorem State.clearRange_agent (s : State) (a n : Nat) : (s.clearRange a n).agent = s.agent := rfl
@[simp] theorem State.clearRange_rind (s : State) (a n : Nat) : (s.clearRange a n).rind = s.rind := rfl
@[simp] theorem State.clearRange_arbs (s : State) (a n : Nat) : (s.clearRange a n).arbs = s.arbs := rfl
@[simp] theorem State.clearRange_engines (s : State) (a n : Nat) : (s.clearRange a n).engines = s.engines := rfl
@[simp] theorem State.clearRange_hports (s : State) (a n : Nat) : (s.clearRange a n).hports = s.hports := rfl
@[simp] theorem State.clearRange_sync (s : State) (a n : Nat) : (s.clearRange a n).sync = s.sync := rfl
@[simp] theorem State.clearRange_net (s : State) (a n : Nat) : (s.clearRange a n).net = s.net := rfl
@[simp] theorem State.clearRange_events (s : State) (a n : Nat) : (s.clearRange a n).events = s.events := rfl
@[simp] theorem State.clearRange_free (s : State) (a n : Nat) : (s.clearRange a n).free = s.free := rfl
@[simp] theorem State.clearRange_netSeq (s : State) (a n : Nat) : (s.clearRange a n).netSeq = s.netSeq := rfl
@[simp] theorem State.clearRange_links (s : State) (a n : Nat) : (s.clearRange a n).links = s.links := rfl
@[simp] theorem State.clearRange_vcb (s : State) (a n : Nat) : (s.clearRange a n).vcb = s.vcb := rfl

@[simp] theorem State.setErr_pending (s : State) (a e : Nat) : (s.setErr a e).pending = s.pending := rfl
@[simp] theorem State.setErr_regs (s : State) (a e : Nat) : (s.setErr a e).regs = s.regs := rfl
@[simp] theorem State.setErr_live (s : State) (a e : Nat) : (s.setErr a e).live = s.live := rfl
@[simp] theorem State.setErr_mem (s : State) (a e : Nat) : (s.setErr a e).mem = s.mem := rfl
@[simp] theorem State.setErr_resBad (s : State) (a e : Nat) : (s.setErr a e).resBad = s.resBad := rfl
@[simp] theorem State.setErr_times (s : State) (a e : Nat) : (s.setErr a e).times = s.times := rfl
@[simp] theorem State.setErr_tiles (s : State) (a e : Nat) : (s.setErr a e).tiles = s.tiles := rfl
@[simp] theorem State.setErr_fields (s : State) (a e : Nat) : (s.setErr a e).fields = s.fields := rfl
@[simp] theorem State.setErr_epochs (s : State) (a e : Nat) : (s.setErr a e).epochs = s.epochs := rfl
@[simp] theorem State.setErr_agent (s : State) (a e : Nat) : (s.setErr a e).agent = s.agent := rfl
@[simp] theorem State.setErr_rind (s : State) (a e : Nat) : (s.setErr a e).rind = s.rind := rfl
@[simp] theorem State.setErr_arbs (s : State) (a e : Nat) : (s.setErr a e).arbs = s.arbs := rfl
@[simp] theorem State.setErr_engines (s : State) (a e : Nat) : (s.setErr a e).engines = s.engines := rfl
@[simp] theorem State.setErr_hports (s : State) (a e : Nat) : (s.setErr a e).hports = s.hports := rfl
@[simp] theorem State.setErr_sync (s : State) (a e : Nat) : (s.setErr a e).sync = s.sync := rfl
@[simp] theorem State.setErr_net (s : State) (a e : Nat) : (s.setErr a e).net = s.net := rfl
@[simp] theorem State.setErr_events (s : State) (a e : Nat) : (s.setErr a e).events = s.events := rfl
@[simp] theorem State.setErr_free (s : State) (a e : Nat) : (s.setErr a e).free = s.free := rfl
@[simp] theorem State.setErr_netSeq (s : State) (a e : Nat) : (s.setErr a e).netSeq = s.netSeq := rfl
@[simp] theorem State.setErr_links (s : State) (a e : Nat) : (s.setErr a e).links = s.links := rfl
@[simp] theorem State.setErr_vcb (s : State) (a e : Nat) : (s.setErr a e).vcb = s.vcb := rfl

@[simp] theorem State.modTile_pending (s : State) (t : Tile) (f : TileSt → TileSt) : (s.modTile t f).pending = s.pending := rfl
@[simp] theorem State.modTile_regs (s : State) (t : Tile) (f : TileSt → TileSt) : (s.modTile t f).regs = s.regs := rfl
@[simp] theorem State.modTile_live (s : State) (t : Tile) (f : TileSt → TileSt) : (s.modTile t f).live = s.live := rfl
@[simp] theorem State.modTile_mem (s : State) (t : Tile) (f : TileSt → TileSt) : (s.modTile t f).mem = s.mem := rfl
@[simp] theorem State.modTile_ecc (s : State) (t : Tile) (f : TileSt → TileSt) : (s.modTile t f).ecc = s.ecc := rfl
@[simp] theorem State.modTile_resBad (s : State) (t : Tile) (f : TileSt → TileSt) : (s.modTile t f).resBad = s.resBad := rfl
@[simp] theorem State.modTile_times (s : State) (t : Tile) (f : TileSt → TileSt) : (s.modTile t f).times = s.times := rfl
@[simp] theorem State.modTile_fields (s : State) (t : Tile) (f : TileSt → TileSt) : (s.modTile t f).fields = s.fields := rfl
@[simp] theorem State.modTile_epochs (s : State) (t : Tile) (f : TileSt → TileSt) : (s.modTile t f).epochs = s.epochs := rfl
@[simp] theorem State.modTile_agent (s : State) (t : Tile) (f : TileSt → TileSt) : (s.modTile t f).agent = s.agent := rfl
@[simp] theorem State.modTile_rind (s : State) (t : Tile) (f : TileSt → TileSt) : (s.modTile t f).rind = s.rind := rfl
@[simp] theorem State.modTile_arbs (s : State) (t : Tile) (f : TileSt → TileSt) : (s.modTile t f).arbs = s.arbs := rfl
@[simp] theorem State.modTile_engines (s : State) (t : Tile) (f : TileSt → TileSt) : (s.modTile t f).engines = s.engines := rfl
@[simp] theorem State.modTile_hports (s : State) (t : Tile) (f : TileSt → TileSt) : (s.modTile t f).hports = s.hports := rfl
@[simp] theorem State.modTile_sync (s : State) (t : Tile) (f : TileSt → TileSt) : (s.modTile t f).sync = s.sync := rfl
@[simp] theorem State.modTile_net (s : State) (t : Tile) (f : TileSt → TileSt) : (s.modTile t f).net = s.net := rfl
@[simp] theorem State.modTile_events (s : State) (t : Tile) (f : TileSt → TileSt) : (s.modTile t f).events = s.events := rfl
@[simp] theorem State.modTile_free (s : State) (t : Tile) (f : TileSt → TileSt) : (s.modTile t f).free = s.free := rfl
@[simp] theorem State.modTile_netSeq (s : State) (t : Tile) (f : TileSt → TileSt) : (s.modTile t f).netSeq = s.netSeq := rfl
@[simp] theorem State.modTile_links (s : State) (t : Tile) (f : TileSt → TileSt) : (s.modTile t f).links = s.links := rfl
@[simp] theorem State.modTile_vcb (s : State) (t : Tile) (f : TileSt → TileSt) : (s.modTile t f).vcb = s.vcb := rfl

@[simp] theorem State.modField_pending (s : State) (f : Nat) (g : FieldSt → FieldSt) : (s.modField f g).pending = s.pending := rfl
@[simp] theorem State.modField_regs (s : State) (f : Nat) (g : FieldSt → FieldSt) : (s.modField f g).regs = s.regs := rfl
@[simp] theorem State.modField_live (s : State) (f : Nat) (g : FieldSt → FieldSt) : (s.modField f g).live = s.live := rfl
@[simp] theorem State.modField_mem (s : State) (f : Nat) (g : FieldSt → FieldSt) : (s.modField f g).mem = s.mem := rfl
@[simp] theorem State.modField_ecc (s : State) (f : Nat) (g : FieldSt → FieldSt) : (s.modField f g).ecc = s.ecc := rfl
@[simp] theorem State.modField_resBad (s : State) (f : Nat) (g : FieldSt → FieldSt) : (s.modField f g).resBad = s.resBad := rfl
@[simp] theorem State.modField_times (s : State) (f : Nat) (g : FieldSt → FieldSt) : (s.modField f g).times = s.times := rfl
@[simp] theorem State.modField_tiles (s : State) (f : Nat) (g : FieldSt → FieldSt) : (s.modField f g).tiles = s.tiles := rfl
@[simp] theorem State.modField_epochs (s : State) (f : Nat) (g : FieldSt → FieldSt) : (s.modField f g).epochs = s.epochs := rfl
@[simp] theorem State.modField_agent (s : State) (f : Nat) (g : FieldSt → FieldSt) : (s.modField f g).agent = s.agent := rfl
@[simp] theorem State.modField_rind (s : State) (f : Nat) (g : FieldSt → FieldSt) : (s.modField f g).rind = s.rind := rfl
@[simp] theorem State.modField_arbs (s : State) (f : Nat) (g : FieldSt → FieldSt) : (s.modField f g).arbs = s.arbs := rfl
@[simp] theorem State.modField_engines (s : State) (f : Nat) (g : FieldSt → FieldSt) : (s.modField f g).engines = s.engines := rfl
@[simp] theorem State.modField_hports (s : State) (f : Nat) (g : FieldSt → FieldSt) : (s.modField f g).hports = s.hports := rfl
@[simp] theorem State.modField_sync (s : State) (f : Nat) (g : FieldSt → FieldSt) : (s.modField f g).sync = s.sync := rfl
@[simp] theorem State.modField_net (s : State) (f : Nat) (g : FieldSt → FieldSt) : (s.modField f g).net = s.net := rfl
@[simp] theorem State.modField_events (s : State) (f : Nat) (g : FieldSt → FieldSt) : (s.modField f g).events = s.events := rfl
@[simp] theorem State.modField_free (s : State) (f : Nat) (g : FieldSt → FieldSt) : (s.modField f g).free = s.free := rfl
@[simp] theorem State.modField_netSeq (s : State) (f : Nat) (g : FieldSt → FieldSt) : (s.modField f g).netSeq = s.netSeq := rfl
@[simp] theorem State.modField_links (s : State) (f : Nat) (g : FieldSt → FieldSt) : (s.modField f g).links = s.links := rfl
@[simp] theorem State.modField_vcb (s : State) (f : Nat) (g : FieldSt → FieldSt) : (s.modField f g).vcb = s.vcb := rfl

@[simp] theorem State.modCtx_pending (s : State) (t : Tile) (c : CtxNo) (f : Ctx → Ctx) : (s.modCtx t c f).pending = s.pending := rfl
@[simp] theorem State.modCtx_regs (s : State) (t : Tile) (c : CtxNo) (f : Ctx → Ctx) : (s.modCtx t c f).regs = s.regs := rfl
@[simp] theorem State.modCtx_live (s : State) (t : Tile) (c : CtxNo) (f : Ctx → Ctx) : (s.modCtx t c f).live = s.live := rfl
@[simp] theorem State.modCtx_mem (s : State) (t : Tile) (c : CtxNo) (f : Ctx → Ctx) : (s.modCtx t c f).mem = s.mem := rfl
@[simp] theorem State.modCtx_ecc (s : State) (t : Tile) (c : CtxNo) (f : Ctx → Ctx) : (s.modCtx t c f).ecc = s.ecc := rfl
@[simp] theorem State.modCtx_resBad (s : State) (t : Tile) (c : CtxNo) (f : Ctx → Ctx) : (s.modCtx t c f).resBad = s.resBad := rfl
@[simp] theorem State.modCtx_times (s : State) (t : Tile) (c : CtxNo) (f : Ctx → Ctx) : (s.modCtx t c f).times = s.times := rfl
@[simp] theorem State.modCtx_fields (s : State) (t : Tile) (c : CtxNo) (f : Ctx → Ctx) : (s.modCtx t c f).fields = s.fields := rfl
@[simp] theorem State.modCtx_epochs (s : State) (t : Tile) (c : CtxNo) (f : Ctx → Ctx) : (s.modCtx t c f).epochs = s.epochs := rfl
@[simp] theorem State.modCtx_agent (s : State) (t : Tile) (c : CtxNo) (f : Ctx → Ctx) : (s.modCtx t c f).agent = s.agent := rfl
@[simp] theorem State.modCtx_rind (s : State) (t : Tile) (c : CtxNo) (f : Ctx → Ctx) : (s.modCtx t c f).rind = s.rind := rfl
@[simp] theorem State.modCtx_arbs (s : State) (t : Tile) (c : CtxNo) (f : Ctx → Ctx) : (s.modCtx t c f).arbs = s.arbs := rfl
@[simp] theorem State.modCtx_engines (s : State) (t : Tile) (c : CtxNo) (f : Ctx → Ctx) : (s.modCtx t c f).engines = s.engines := rfl
@[simp] theorem State.modCtx_hports (s : State) (t : Tile) (c : CtxNo) (f : Ctx → Ctx) : (s.modCtx t c f).hports = s.hports := rfl
@[simp] theorem State.modCtx_sync (s : State) (t : Tile) (c : CtxNo) (f : Ctx → Ctx) : (s.modCtx t c f).sync = s.sync := rfl
@[simp] theorem State.modCtx_net (s : State) (t : Tile) (c : CtxNo) (f : Ctx → Ctx) : (s.modCtx t c f).net = s.net := rfl
@[simp] theorem State.modCtx_events (s : State) (t : Tile) (c : CtxNo) (f : Ctx → Ctx) : (s.modCtx t c f).events = s.events := rfl
@[simp] theorem State.modCtx_free (s : State) (t : Tile) (c : CtxNo) (f : Ctx → Ctx) : (s.modCtx t c f).free = s.free := rfl
@[simp] theorem State.modCtx_netSeq (s : State) (t : Tile) (c : CtxNo) (f : Ctx → Ctx) : (s.modCtx t c f).netSeq = s.netSeq := rfl
@[simp] theorem State.modCtx_links (s : State) (t : Tile) (c : CtxNo) (f : Ctx → Ctx) : (s.modCtx t c f).links = s.links := rfl
@[simp] theorem State.modCtx_vcb (s : State) (t : Tile) (c : CtxNo) (f : Ctx → Ctx) : (s.modCtx t c f).vcb = s.vcb := rfl

@[simp] theorem State.modEng_pending (s : State) (t : Tile) (e : Fin 3) (c : CtxNo) (f : StreamCtx → StreamCtx) : (s.modEng t e c f).pending = s.pending := rfl
@[simp] theorem State.modEng_regs (s : State) (t : Tile) (e : Fin 3) (c : CtxNo) (f : StreamCtx → StreamCtx) : (s.modEng t e c f).regs = s.regs := rfl
@[simp] theorem State.modEng_live (s : State) (t : Tile) (e : Fin 3) (c : CtxNo) (f : StreamCtx → StreamCtx) : (s.modEng t e c f).live = s.live := rfl
@[simp] theorem State.modEng_mem (s : State) (t : Tile) (e : Fin 3) (c : CtxNo) (f : StreamCtx → StreamCtx) : (s.modEng t e c f).mem = s.mem := rfl
@[simp] theorem State.modEng_ecc (s : State) (t : Tile) (e : Fin 3) (c : CtxNo) (f : StreamCtx → StreamCtx) : (s.modEng t e c f).ecc = s.ecc := rfl
@[simp] theorem State.modEng_resBad (s : State) (t : Tile) (e : Fin 3) (c : CtxNo) (f : StreamCtx → StreamCtx) : (s.modEng t e c f).resBad = s.resBad := rfl
@[simp] theorem State.modEng_times (s : State) (t : Tile) (e : Fin 3) (c : CtxNo) (f : StreamCtx → StreamCtx) : (s.modEng t e c f).times = s.times := rfl
@[simp] theorem State.modEng_fields (s : State) (t : Tile) (e : Fin 3) (c : CtxNo) (f : StreamCtx → StreamCtx) : (s.modEng t e c f).fields = s.fields := rfl
@[simp] theorem State.modEng_epochs (s : State) (t : Tile) (e : Fin 3) (c : CtxNo) (f : StreamCtx → StreamCtx) : (s.modEng t e c f).epochs = s.epochs := rfl
@[simp] theorem State.modEng_agent (s : State) (t : Tile) (e : Fin 3) (c : CtxNo) (f : StreamCtx → StreamCtx) : (s.modEng t e c f).agent = s.agent := rfl
@[simp] theorem State.modEng_rind (s : State) (t : Tile) (e : Fin 3) (c : CtxNo) (f : StreamCtx → StreamCtx) : (s.modEng t e c f).rind = s.rind := rfl
@[simp] theorem State.modEng_arbs (s : State) (t : Tile) (e : Fin 3) (c : CtxNo) (f : StreamCtx → StreamCtx) : (s.modEng t e c f).arbs = s.arbs := rfl
@[simp] theorem State.modEng_engines (s : State) (t : Tile) (e : Fin 3) (c : CtxNo) (f : StreamCtx → StreamCtx) : (s.modEng t e c f).engines = s.engines := rfl
@[simp] theorem State.modEng_hports (s : State) (t : Tile) (e : Fin 3) (c : CtxNo) (f : StreamCtx → StreamCtx) : (s.modEng t e c f).hports = s.hports := rfl
@[simp] theorem State.modEng_sync (s : State) (t : Tile) (e : Fin 3) (c : CtxNo) (f : StreamCtx → StreamCtx) : (s.modEng t e c f).sync = s.sync := rfl
@[simp] theorem State.modEng_net (s : State) (t : Tile) (e : Fin 3) (c : CtxNo) (f : StreamCtx → StreamCtx) : (s.modEng t e c f).net = s.net := rfl
@[simp] theorem State.modEng_events (s : State) (t : Tile) (e : Fin 3) (c : CtxNo) (f : StreamCtx → StreamCtx) : (s.modEng t e c f).events = s.events := rfl
@[simp] theorem State.modEng_free (s : State) (t : Tile) (e : Fin 3) (c : CtxNo) (f : StreamCtx → StreamCtx) : (s.modEng t e c f).free = s.free := rfl
@[simp] theorem State.modEng_netSeq (s : State) (t : Tile) (e : Fin 3) (c : CtxNo) (f : StreamCtx → StreamCtx) : (s.modEng t e c f).netSeq = s.netSeq := rfl
@[simp] theorem State.modEng_links (s : State) (t : Tile) (e : Fin 3) (c : CtxNo) (f : StreamCtx → StreamCtx) : (s.modEng t e c f).links = s.links := rfl
@[simp] theorem State.modEng_vcb (s : State) (t : Tile) (e : Fin 3) (c : CtxNo) (f : StreamCtx → StreamCtx) : (s.modEng t e c f).vcb = s.vcb := rfl

@[simp] theorem State.send_pending (s : State) (h : Head) (b : Body) : (s.send h b).pending = s.pending := rfl
@[simp] theorem State.send_regs (s : State) (h : Head) (b : Body) : (s.send h b).regs = s.regs := rfl
@[simp] theorem State.send_live (s : State) (h : Head) (b : Body) : (s.send h b).live = s.live := rfl
@[simp] theorem State.send_mem (s : State) (h : Head) (b : Body) : (s.send h b).mem = s.mem := rfl
@[simp] theorem State.send_ecc (s : State) (h : Head) (b : Body) : (s.send h b).ecc = s.ecc := rfl
@[simp] theorem State.send_resBad (s : State) (h : Head) (b : Body) : (s.send h b).resBad = s.resBad := rfl
@[simp] theorem State.send_times (s : State) (h : Head) (b : Body) : (s.send h b).times = s.times := rfl
@[simp] theorem State.send_tiles (s : State) (h : Head) (b : Body) : (s.send h b).tiles = s.tiles := rfl
@[simp] theorem State.send_fields (s : State) (h : Head) (b : Body) : (s.send h b).fields = s.fields := rfl
@[simp] theorem State.send_epochs (s : State) (h : Head) (b : Body) : (s.send h b).epochs = s.epochs := rfl
@[simp] theorem State.send_agent (s : State) (h : Head) (b : Body) : (s.send h b).agent = s.agent := rfl
@[simp] theorem State.send_rind (s : State) (h : Head) (b : Body) : (s.send h b).rind = s.rind := rfl
@[simp] theorem State.send_arbs (s : State) (h : Head) (b : Body) : (s.send h b).arbs = s.arbs := rfl
@[simp] theorem State.send_engines (s : State) (h : Head) (b : Body) : (s.send h b).engines = s.engines := rfl
@[simp] theorem State.send_hports (s : State) (h : Head) (b : Body) : (s.send h b).hports = s.hports := rfl
@[simp] theorem State.send_sync (s : State) (h : Head) (b : Body) : (s.send h b).sync = s.sync := rfl
@[simp] theorem State.send_events (s : State) (h : Head) (b : Body) : (s.send h b).events = s.events := rfl
@[simp] theorem State.send_free (s : State) (h : Head) (b : Body) : (s.send h b).free = s.free := rfl
@[simp] theorem State.send_links (s : State) (h : Head) (b : Body) : (s.send h b).links = s.links := rfl

@[simp] theorem State.modRind_pending (s : State) (f : RindSt → RindSt) : (s.modRind f).pending = s.pending := rfl
@[simp] theorem State.modRind_regs (s : State) (f : RindSt → RindSt) : (s.modRind f).regs = s.regs := rfl
@[simp] theorem State.modRind_live (s : State) (f : RindSt → RindSt) : (s.modRind f).live = s.live := rfl
@[simp] theorem State.modRind_mem (s : State) (f : RindSt → RindSt) : (s.modRind f).mem = s.mem := rfl
@[simp] theorem State.modRind_ecc (s : State) (f : RindSt → RindSt) : (s.modRind f).ecc = s.ecc := rfl
@[simp] theorem State.modRind_resBad (s : State) (f : RindSt → RindSt) : (s.modRind f).resBad = s.resBad := rfl
@[simp] theorem State.modRind_times (s : State) (f : RindSt → RindSt) : (s.modRind f).times = s.times := rfl
@[simp] theorem State.modRind_tiles (s : State) (f : RindSt → RindSt) : (s.modRind f).tiles = s.tiles := rfl
@[simp] theorem State.modRind_fields (s : State) (f : RindSt → RindSt) : (s.modRind f).fields = s.fields := rfl
@[simp] theorem State.modRind_epochs (s : State) (f : RindSt → RindSt) : (s.modRind f).epochs = s.epochs := rfl
@[simp] theorem State.modRind_agent (s : State) (f : RindSt → RindSt) : (s.modRind f).agent = s.agent := rfl
@[simp] theorem State.modRind_arbs (s : State) (f : RindSt → RindSt) : (s.modRind f).arbs = s.arbs := rfl
@[simp] theorem State.modRind_engines (s : State) (f : RindSt → RindSt) : (s.modRind f).engines = s.engines := rfl
@[simp] theorem State.modRind_hports (s : State) (f : RindSt → RindSt) : (s.modRind f).hports = s.hports := rfl
@[simp] theorem State.modRind_sync (s : State) (f : RindSt → RindSt) : (s.modRind f).sync = s.sync := rfl
@[simp] theorem State.modRind_net (s : State) (f : RindSt → RindSt) : (s.modRind f).net = s.net := rfl
@[simp] theorem State.modRind_events (s : State) (f : RindSt → RindSt) : (s.modRind f).events = s.events := rfl
@[simp] theorem State.modRind_free (s : State) (f : RindSt → RindSt) : (s.modRind f).free = s.free := rfl
@[simp] theorem State.modRind_netSeq (s : State) (f : RindSt → RindSt) : (s.modRind f).netSeq = s.netSeq := rfl
@[simp] theorem State.modRind_links (s : State) (f : RindSt → RindSt) : (s.modRind f).links = s.links := rfl
@[simp] theorem State.modRind_vcb (s : State) (f : RindSt → RindSt) : (s.modRind f).vcb = s.vcb := rfl

@[simp] theorem State.modPower_pending (s : State) (f : PowerSt → PowerSt) : (s.modPower f).pending = s.pending := rfl
@[simp] theorem State.modPower_regs (s : State) (f : PowerSt → PowerSt) : (s.modPower f).regs = s.regs := rfl
@[simp] theorem State.modPower_live (s : State) (f : PowerSt → PowerSt) : (s.modPower f).live = s.live := rfl
@[simp] theorem State.modPower_mem (s : State) (f : PowerSt → PowerSt) : (s.modPower f).mem = s.mem := rfl
@[simp] theorem State.modPower_ecc (s : State) (f : PowerSt → PowerSt) : (s.modPower f).ecc = s.ecc := rfl
@[simp] theorem State.modPower_resBad (s : State) (f : PowerSt → PowerSt) : (s.modPower f).resBad = s.resBad := rfl
@[simp] theorem State.modPower_times (s : State) (f : PowerSt → PowerSt) : (s.modPower f).times = s.times := rfl
@[simp] theorem State.modPower_tiles (s : State) (f : PowerSt → PowerSt) : (s.modPower f).tiles = s.tiles := rfl
@[simp] theorem State.modPower_fields (s : State) (f : PowerSt → PowerSt) : (s.modPower f).fields = s.fields := rfl
@[simp] theorem State.modPower_epochs (s : State) (f : PowerSt → PowerSt) : (s.modPower f).epochs = s.epochs := rfl
@[simp] theorem State.modPower_agent (s : State) (f : PowerSt → PowerSt) : (s.modPower f).agent = s.agent := rfl
@[simp] theorem State.modPower_arbs (s : State) (f : PowerSt → PowerSt) : (s.modPower f).arbs = s.arbs := rfl
@[simp] theorem State.modPower_engines (s : State) (f : PowerSt → PowerSt) : (s.modPower f).engines = s.engines := rfl
@[simp] theorem State.modPower_hports (s : State) (f : PowerSt → PowerSt) : (s.modPower f).hports = s.hports := rfl
@[simp] theorem State.modPower_sync (s : State) (f : PowerSt → PowerSt) : (s.modPower f).sync = s.sync := rfl
@[simp] theorem State.modPower_net (s : State) (f : PowerSt → PowerSt) : (s.modPower f).net = s.net := rfl
@[simp] theorem State.modPower_events (s : State) (f : PowerSt → PowerSt) : (s.modPower f).events = s.events := rfl
@[simp] theorem State.modPower_free (s : State) (f : PowerSt → PowerSt) : (s.modPower f).free = s.free := rfl
@[simp] theorem State.modPower_netSeq (s : State) (f : PowerSt → PowerSt) : (s.modPower f).netSeq = s.netSeq := rfl
@[simp] theorem State.modPower_links (s : State) (f : PowerSt → PowerSt) : (s.modPower f).links = s.links := rfl
@[simp] theorem State.modPower_vcb (s : State) (f : PowerSt → PowerSt) : (s.modPower f).vcb = s.vcb := rfl

@[simp] theorem State.modUnlock_pending (s : State) (f : UnlockSt → UnlockSt) : (s.modUnlock f).pending = s.pending := rfl
@[simp] theorem State.modUnlock_regs (s : State) (f : UnlockSt → UnlockSt) : (s.modUnlock f).regs = s.regs := rfl
@[simp] theorem State.modUnlock_live (s : State) (f : UnlockSt → UnlockSt) : (s.modUnlock f).live = s.live := rfl
@[simp] theorem State.modUnlock_mem (s : State) (f : UnlockSt → UnlockSt) : (s.modUnlock f).mem = s.mem := rfl
@[simp] theorem State.modUnlock_ecc (s : State) (f : UnlockSt → UnlockSt) : (s.modUnlock f).ecc = s.ecc := rfl
@[simp] theorem State.modUnlock_resBad (s : State) (f : UnlockSt → UnlockSt) : (s.modUnlock f).resBad = s.resBad := rfl
@[simp] theorem State.modUnlock_times (s : State) (f : UnlockSt → UnlockSt) : (s.modUnlock f).times = s.times := rfl
@[simp] theorem State.modUnlock_tiles (s : State) (f : UnlockSt → UnlockSt) : (s.modUnlock f).tiles = s.tiles := rfl
@[simp] theorem State.modUnlock_fields (s : State) (f : UnlockSt → UnlockSt) : (s.modUnlock f).fields = s.fields := rfl
@[simp] theorem State.modUnlock_epochs (s : State) (f : UnlockSt → UnlockSt) : (s.modUnlock f).epochs = s.epochs := rfl
@[simp] theorem State.modUnlock_agent (s : State) (f : UnlockSt → UnlockSt) : (s.modUnlock f).agent = s.agent := rfl
@[simp] theorem State.modUnlock_arbs (s : State) (f : UnlockSt → UnlockSt) : (s.modUnlock f).arbs = s.arbs := rfl
@[simp] theorem State.modUnlock_engines (s : State) (f : UnlockSt → UnlockSt) : (s.modUnlock f).engines = s.engines := rfl
@[simp] theorem State.modUnlock_hports (s : State) (f : UnlockSt → UnlockSt) : (s.modUnlock f).hports = s.hports := rfl
@[simp] theorem State.modUnlock_sync (s : State) (f : UnlockSt → UnlockSt) : (s.modUnlock f).sync = s.sync := rfl
@[simp] theorem State.modUnlock_net (s : State) (f : UnlockSt → UnlockSt) : (s.modUnlock f).net = s.net := rfl
@[simp] theorem State.modUnlock_events (s : State) (f : UnlockSt → UnlockSt) : (s.modUnlock f).events = s.events := rfl
@[simp] theorem State.modUnlock_free (s : State) (f : UnlockSt → UnlockSt) : (s.modUnlock f).free = s.free := rfl
@[simp] theorem State.modUnlock_netSeq (s : State) (f : UnlockSt → UnlockSt) : (s.modUnlock f).netSeq = s.netSeq := rfl
@[simp] theorem State.modUnlock_links (s : State) (f : UnlockSt → UnlockSt) : (s.modUnlock f).links = s.links := rfl
@[simp] theorem State.modUnlock_vcb (s : State) (f : UnlockSt → UnlockSt) : (s.modUnlock f).vcb = s.vcb := rfl

@[simp] theorem State.modSide_pending (s : State) (f : SideSt → SideSt) : (s.modSide f).pending = s.pending := rfl
@[simp] theorem State.modSide_regs (s : State) (f : SideSt → SideSt) : (s.modSide f).regs = s.regs := rfl
@[simp] theorem State.modSide_live (s : State) (f : SideSt → SideSt) : (s.modSide f).live = s.live := rfl
@[simp] theorem State.modSide_mem (s : State) (f : SideSt → SideSt) : (s.modSide f).mem = s.mem := rfl
@[simp] theorem State.modSide_ecc (s : State) (f : SideSt → SideSt) : (s.modSide f).ecc = s.ecc := rfl
@[simp] theorem State.modSide_resBad (s : State) (f : SideSt → SideSt) : (s.modSide f).resBad = s.resBad := rfl
@[simp] theorem State.modSide_times (s : State) (f : SideSt → SideSt) : (s.modSide f).times = s.times := rfl
@[simp] theorem State.modSide_tiles (s : State) (f : SideSt → SideSt) : (s.modSide f).tiles = s.tiles := rfl
@[simp] theorem State.modSide_fields (s : State) (f : SideSt → SideSt) : (s.modSide f).fields = s.fields := rfl
@[simp] theorem State.modSide_epochs (s : State) (f : SideSt → SideSt) : (s.modSide f).epochs = s.epochs := rfl
@[simp] theorem State.modSide_agent (s : State) (f : SideSt → SideSt) : (s.modSide f).agent = s.agent := rfl
@[simp] theorem State.modSide_arbs (s : State) (f : SideSt → SideSt) : (s.modSide f).arbs = s.arbs := rfl
@[simp] theorem State.modSide_engines (s : State) (f : SideSt → SideSt) : (s.modSide f).engines = s.engines := rfl
@[simp] theorem State.modSide_hports (s : State) (f : SideSt → SideSt) : (s.modSide f).hports = s.hports := rfl
@[simp] theorem State.modSide_sync (s : State) (f : SideSt → SideSt) : (s.modSide f).sync = s.sync := rfl
@[simp] theorem State.modSide_net (s : State) (f : SideSt → SideSt) : (s.modSide f).net = s.net := rfl
@[simp] theorem State.modSide_events (s : State) (f : SideSt → SideSt) : (s.modSide f).events = s.events := rfl
@[simp] theorem State.modSide_free (s : State) (f : SideSt → SideSt) : (s.modSide f).free = s.free := rfl
@[simp] theorem State.modSide_netSeq (s : State) (f : SideSt → SideSt) : (s.modSide f).netSeq = s.netSeq := rfl
@[simp] theorem State.modSide_links (s : State) (f : SideSt → SideSt) : (s.modSide f).links = s.links := rfl
@[simp] theorem State.modSide_vcb (s : State) (f : SideSt → SideSt) : (s.modSide f).vcb = s.vcb := rfl

@[simp] theorem State.modAgent_pending (s : State) (g : Agent → Agent) : (s.modAgent g).pending = s.pending := rfl
@[simp] theorem State.modAgent_regs (s : State) (g : Agent → Agent) : (s.modAgent g).regs = s.regs := rfl
@[simp] theorem State.modAgent_live (s : State) (g : Agent → Agent) : (s.modAgent g).live = s.live := rfl
@[simp] theorem State.modAgent_mem (s : State) (g : Agent → Agent) : (s.modAgent g).mem = s.mem := rfl
@[simp] theorem State.modAgent_ecc (s : State) (g : Agent → Agent) : (s.modAgent g).ecc = s.ecc := rfl
@[simp] theorem State.modAgent_resBad (s : State) (g : Agent → Agent) : (s.modAgent g).resBad = s.resBad := rfl
@[simp] theorem State.modAgent_times (s : State) (g : Agent → Agent) : (s.modAgent g).times = s.times := rfl
@[simp] theorem State.modAgent_tiles (s : State) (g : Agent → Agent) : (s.modAgent g).tiles = s.tiles := rfl
@[simp] theorem State.modAgent_fields (s : State) (g : Agent → Agent) : (s.modAgent g).fields = s.fields := rfl
@[simp] theorem State.modAgent_epochs (s : State) (g : Agent → Agent) : (s.modAgent g).epochs = s.epochs := rfl
@[simp] theorem State.modAgent_rind (s : State) (g : Agent → Agent) : (s.modAgent g).rind = s.rind := rfl
@[simp] theorem State.modAgent_arbs (s : State) (g : Agent → Agent) : (s.modAgent g).arbs = s.arbs := rfl
@[simp] theorem State.modAgent_engines (s : State) (g : Agent → Agent) : (s.modAgent g).engines = s.engines := rfl
@[simp] theorem State.modAgent_hports (s : State) (g : Agent → Agent) : (s.modAgent g).hports = s.hports := rfl
@[simp] theorem State.modAgent_sync (s : State) (g : Agent → Agent) : (s.modAgent g).sync = s.sync := rfl
@[simp] theorem State.modAgent_net (s : State) (g : Agent → Agent) : (s.modAgent g).net = s.net := rfl
@[simp] theorem State.modAgent_events (s : State) (g : Agent → Agent) : (s.modAgent g).events = s.events := rfl
@[simp] theorem State.modAgent_free (s : State) (g : Agent → Agent) : (s.modAgent g).free = s.free := rfl
@[simp] theorem State.modAgent_netSeq (s : State) (g : Agent → Agent) : (s.modAgent g).netSeq = s.netSeq := rfl
@[simp] theorem State.modAgent_links (s : State) (g : Agent → Agent) : (s.modAgent g).links = s.links := rfl
@[simp] theorem State.modAgent_vcb (s : State) (g : Agent → Agent) : (s.modAgent g).vcb = s.vcb := rfl

@[simp] theorem State.modEngine_pending (s : State) (f : FieldNo) (g : EngSt → EngSt) : (s.modEngine f g).pending = s.pending := rfl
@[simp] theorem State.modEngine_regs (s : State) (f : FieldNo) (g : EngSt → EngSt) : (s.modEngine f g).regs = s.regs := rfl
@[simp] theorem State.modEngine_live (s : State) (f : FieldNo) (g : EngSt → EngSt) : (s.modEngine f g).live = s.live := rfl
@[simp] theorem State.modEngine_mem (s : State) (f : FieldNo) (g : EngSt → EngSt) : (s.modEngine f g).mem = s.mem := rfl
@[simp] theorem State.modEngine_ecc (s : State) (f : FieldNo) (g : EngSt → EngSt) : (s.modEngine f g).ecc = s.ecc := rfl
@[simp] theorem State.modEngine_resBad (s : State) (f : FieldNo) (g : EngSt → EngSt) : (s.modEngine f g).resBad = s.resBad := rfl
@[simp] theorem State.modEngine_times (s : State) (f : FieldNo) (g : EngSt → EngSt) : (s.modEngine f g).times = s.times := rfl
@[simp] theorem State.modEngine_tiles (s : State) (f : FieldNo) (g : EngSt → EngSt) : (s.modEngine f g).tiles = s.tiles := rfl
@[simp] theorem State.modEngine_fields (s : State) (f : FieldNo) (g : EngSt → EngSt) : (s.modEngine f g).fields = s.fields := rfl
@[simp] theorem State.modEngine_epochs (s : State) (f : FieldNo) (g : EngSt → EngSt) : (s.modEngine f g).epochs = s.epochs := rfl
@[simp] theorem State.modEngine_agent (s : State) (f : FieldNo) (g : EngSt → EngSt) : (s.modEngine f g).agent = s.agent := rfl
@[simp] theorem State.modEngine_rind (s : State) (f : FieldNo) (g : EngSt → EngSt) : (s.modEngine f g).rind = s.rind := rfl
@[simp] theorem State.modEngine_arbs (s : State) (f : FieldNo) (g : EngSt → EngSt) : (s.modEngine f g).arbs = s.arbs := rfl
@[simp] theorem State.modEngine_hports (s : State) (f : FieldNo) (g : EngSt → EngSt) : (s.modEngine f g).hports = s.hports := rfl
@[simp] theorem State.modEngine_sync (s : State) (f : FieldNo) (g : EngSt → EngSt) : (s.modEngine f g).sync = s.sync := rfl
@[simp] theorem State.modEngine_net (s : State) (f : FieldNo) (g : EngSt → EngSt) : (s.modEngine f g).net = s.net := rfl
@[simp] theorem State.modEngine_events (s : State) (f : FieldNo) (g : EngSt → EngSt) : (s.modEngine f g).events = s.events := rfl
@[simp] theorem State.modEngine_free (s : State) (f : FieldNo) (g : EngSt → EngSt) : (s.modEngine f g).free = s.free := rfl
@[simp] theorem State.modEngine_netSeq (s : State) (f : FieldNo) (g : EngSt → EngSt) : (s.modEngine f g).netSeq = s.netSeq := rfl
@[simp] theorem State.modEngine_links (s : State) (f : FieldNo) (g : EngSt → EngSt) : (s.modEngine f g).links = s.links := rfl
@[simp] theorem State.modEngine_vcb (s : State) (f : FieldNo) (g : EngSt → EngSt) : (s.modEngine f g).vcb = s.vcb := rfl

@[simp] theorem State.modHp_pending (s : State) (h : Fin 96) (g : HpSt → HpSt) : (s.modHp h g).pending = s.pending := rfl
@[simp] theorem State.modHp_regs (s : State) (h : Fin 96) (g : HpSt → HpSt) : (s.modHp h g).regs = s.regs := rfl
@[simp] theorem State.modHp_live (s : State) (h : Fin 96) (g : HpSt → HpSt) : (s.modHp h g).live = s.live := rfl
@[simp] theorem State.modHp_mem (s : State) (h : Fin 96) (g : HpSt → HpSt) : (s.modHp h g).mem = s.mem := rfl
@[simp] theorem State.modHp_ecc (s : State) (h : Fin 96) (g : HpSt → HpSt) : (s.modHp h g).ecc = s.ecc := rfl
@[simp] theorem State.modHp_resBad (s : State) (h : Fin 96) (g : HpSt → HpSt) : (s.modHp h g).resBad = s.resBad := rfl
@[simp] theorem State.modHp_times (s : State) (h : Fin 96) (g : HpSt → HpSt) : (s.modHp h g).times = s.times := rfl
@[simp] theorem State.modHp_tiles (s : State) (h : Fin 96) (g : HpSt → HpSt) : (s.modHp h g).tiles = s.tiles := rfl
@[simp] theorem State.modHp_fields (s : State) (h : Fin 96) (g : HpSt → HpSt) : (s.modHp h g).fields = s.fields := rfl
@[simp] theorem State.modHp_epochs (s : State) (h : Fin 96) (g : HpSt → HpSt) : (s.modHp h g).epochs = s.epochs := rfl
@[simp] theorem State.modHp_agent (s : State) (h : Fin 96) (g : HpSt → HpSt) : (s.modHp h g).agent = s.agent := rfl
@[simp] theorem State.modHp_rind (s : State) (h : Fin 96) (g : HpSt → HpSt) : (s.modHp h g).rind = s.rind := rfl
@[simp] theorem State.modHp_arbs (s : State) (h : Fin 96) (g : HpSt → HpSt) : (s.modHp h g).arbs = s.arbs := rfl
@[simp] theorem State.modHp_engines (s : State) (h : Fin 96) (g : HpSt → HpSt) : (s.modHp h g).engines = s.engines := rfl
@[simp] theorem State.modHp_sync (s : State) (h : Fin 96) (g : HpSt → HpSt) : (s.modHp h g).sync = s.sync := rfl
@[simp] theorem State.modHp_net (s : State) (h : Fin 96) (g : HpSt → HpSt) : (s.modHp h g).net = s.net := rfl
@[simp] theorem State.modHp_events (s : State) (h : Fin 96) (g : HpSt → HpSt) : (s.modHp h g).events = s.events := rfl
@[simp] theorem State.modHp_free (s : State) (h : Fin 96) (g : HpSt → HpSt) : (s.modHp h g).free = s.free := rfl
@[simp] theorem State.modHp_netSeq (s : State) (h : Fin 96) (g : HpSt → HpSt) : (s.modHp h g).netSeq = s.netSeq := rfl
@[simp] theorem State.modHp_links (s : State) (h : Fin 96) (g : HpSt → HpSt) : (s.modHp h g).links = s.links := rfl
@[simp] theorem State.modHp_vcb (s : State) (h : Fin 96) (g : HpSt → HpSt) : (s.modHp h g).vcb = s.vcb := rfl

@[simp] theorem State.setArb_pending (s : State) (base : Nat) (x : ArbSt) : (s.setArb base x).pending = s.pending := rfl
@[simp] theorem State.setArb_regs (s : State) (base : Nat) (x : ArbSt) : (s.setArb base x).regs = s.regs := rfl
@[simp] theorem State.setArb_live (s : State) (base : Nat) (x : ArbSt) : (s.setArb base x).live = s.live := rfl
@[simp] theorem State.setArb_mem (s : State) (base : Nat) (x : ArbSt) : (s.setArb base x).mem = s.mem := rfl
@[simp] theorem State.setArb_ecc (s : State) (base : Nat) (x : ArbSt) : (s.setArb base x).ecc = s.ecc := rfl
@[simp] theorem State.setArb_resBad (s : State) (base : Nat) (x : ArbSt) : (s.setArb base x).resBad = s.resBad := rfl
@[simp] theorem State.setArb_times (s : State) (base : Nat) (x : ArbSt) : (s.setArb base x).times = s.times := rfl
@[simp] theorem State.setArb_tiles (s : State) (base : Nat) (x : ArbSt) : (s.setArb base x).tiles = s.tiles := rfl
@[simp] theorem State.setArb_fields (s : State) (base : Nat) (x : ArbSt) : (s.setArb base x).fields = s.fields := rfl
@[simp] theorem State.setArb_epochs (s : State) (base : Nat) (x : ArbSt) : (s.setArb base x).epochs = s.epochs := rfl
@[simp] theorem State.setArb_agent (s : State) (base : Nat) (x : ArbSt) : (s.setArb base x).agent = s.agent := rfl
@[simp] theorem State.setArb_rind (s : State) (base : Nat) (x : ArbSt) : (s.setArb base x).rind = s.rind := rfl
@[simp] theorem State.setArb_engines (s : State) (base : Nat) (x : ArbSt) : (s.setArb base x).engines = s.engines := rfl
@[simp] theorem State.setArb_hports (s : State) (base : Nat) (x : ArbSt) : (s.setArb base x).hports = s.hports := rfl
@[simp] theorem State.setArb_sync (s : State) (base : Nat) (x : ArbSt) : (s.setArb base x).sync = s.sync := rfl
@[simp] theorem State.setArb_net (s : State) (base : Nat) (x : ArbSt) : (s.setArb base x).net = s.net := rfl
@[simp] theorem State.setArb_events (s : State) (base : Nat) (x : ArbSt) : (s.setArb base x).events = s.events := rfl
@[simp] theorem State.setArb_free (s : State) (base : Nat) (x : ArbSt) : (s.setArb base x).free = s.free := rfl
@[simp] theorem State.setArb_netSeq (s : State) (base : Nat) (x : ArbSt) : (s.setArb base x).netSeq = s.netSeq := rfl
@[simp] theorem State.setArb_links (s : State) (base : Nat) (x : ArbSt) : (s.setArb base x).links = s.links := rfl
@[simp] theorem State.setArb_vcb (s : State) (base : Nat) (x : ArbSt) : (s.setArb base x).vcb = s.vcb := rfl

/-- The counter of free values alone moves when one is read. -/
theorem State.freshWord_eq (s : State) : s.freshWord = (Config.freeWord s.free, { s with free := s.free + 1 }) := rfl

/-! ### Registers read back -/

@[simp] theorem State.reg_setReg_self (s : State) (ca : Nat) (v : Word) : (s.setReg ca v).reg ca = v := by
  simp [State.reg, State.setReg]

theorem State.reg_setReg_ne (s : State) {ca cb : Nat} (v : Word) (h : cb ≠ ca) : (s.setReg ca v).reg cb = s.reg cb := by
  simp [State.reg, State.setReg, tget_tset_ne _ _ _ _ h]

/-- A register is read from regs alone. -/
theorem State.reg_congr {s t : State} (h : t.regs = s.regs) (ca : Nat) : t.reg ca = s.reg ca := by
  simp [State.reg, h]

@[simp] theorem State.liveReg_setLive_self (s : State) (ca : Nat) (v : Word) : (s.setLive ca v).liveReg ca = v := by
  simp [State.liveReg, State.setLive]

theorem State.count_eq_setReg (s : State) (ca n : Nat) : ∃ v, s.count ca n = s.setReg ca v := by
  unfold State.count
  simp only []
  split <;> exact ⟨_, rfl⟩

theorem State.reg_count_ne (s : State) {ca cb : Nat} (n : Nat) (h : cb ≠ ca) : (s.count ca n).reg cb = s.reg cb := by
  obtain ⟨v, hv⟩ := s.count_eq_setReg ca n
  rw [hv, s.reg_setReg_ne v h]

/-! ### Memory read back -/

@[simp] theorem State.byte_setByte_self (s : State) (a : Nat) (b : Byte) : (s.setByte a b).byte a = b := by
  simp [State.byte, State.setByte]

theorem State.byte_setByte_ne (s : State) {a c : Nat} (b : Byte) (h : c ≠ a) : (s.setByte a b).byte c = s.byte c := by
  simp [State.byte, State.setByte, tget_tset_ne _ _ _ _ h]

/-- Bytes outside those written read as before. -/
theorem State.byte_setBytes_outside (s : State) (a : Nat) (d : List Byte) (c : Nat) (h : c < a ∨ a + d.length ≤ c) :
    (State.setBytes s a d).byte c = s.byte c := by
  induction d generalizing s a with
  | nil => rfl
  | cons b d ih =>
    simp only [List.length_cons] at h
    rw [State.setBytes, ih _ _ (by omega), State.byte_setByte_ne _ _ (by omega)]

/-- A byte written reads as it was given. -/
theorem State.byte_setBytes_inside (s : State) (a : Nat) (d : List Byte) (i : Nat) (h : i < d.length) :
    (State.setBytes s a d).byte (a + i) = d[i] := by
  induction d generalizing s a i with
  | nil => simp at h
  | cons b d ih =>
    cases i with
    | zero => rw [State.setBytes, State.byte_setBytes_outside _ _ _ _ (by omega)]; simp
    | succ i =>
      have := ih (s.setByte a b) (a + 1) i (by simpa using h)
      rw [State.setBytes, show a + (i + 1) = a + 1 + i by omega, this]
      simp

@[simp] theorem State.setBytes_pending (s : State) (a : Nat) (d : List Byte) : (State.setBytes s a d).pending = s.pending := by
  induction d generalizing s a with
  | nil => rfl
  | cons b d ih => rw [State.setBytes, ih]; rfl

@[simp] theorem State.setBytes_regs (s : State) (a : Nat) (d : List Byte) : (State.setBytes s a d).regs = s.regs := by
  induction d generalizing s a with
  | nil => rfl
  | cons b d ih => rw [State.setBytes, ih]; rfl

@[simp] theorem State.setBytes_live (s : State) (a : Nat) (d : List Byte) : (State.setBytes s a d).live = s.live := by
  induction d generalizing s a with
  | nil => rfl
  | cons b d ih => rw [State.setBytes, ih]; rfl

@[simp] theorem State.setBytes_ecc (s : State) (a : Nat) (d : List Byte) : (State.setBytes s a d).ecc = s.ecc := by
  induction d generalizing s a with
  | nil => rfl
  | cons b d ih => rw [State.setBytes, ih]; rfl

@[simp] theorem State.setBytes_resBad (s : State) (a : Nat) (d : List Byte) : (State.setBytes s a d).resBad = s.resBad := by
  induction d generalizing s a with
  | nil => rfl
  | cons b d ih => rw [State.setBytes, ih]; rfl

@[simp] theorem State.setBytes_times (s : State) (a : Nat) (d : List Byte) : (State.setBytes s a d).times = s.times := by
  induction d generalizing s a with
  | nil => rfl
  | cons b d ih => rw [State.setBytes, ih]; rfl

@[simp] theorem State.setBytes_tiles (s : State) (a : Nat) (d : List Byte) : (State.setBytes s a d).tiles = s.tiles := by
  induction d generalizing s a with
  | nil => rfl
  | cons b d ih => rw [State.setBytes, ih]; rfl

@[simp] theorem State.setBytes_fields (s : State) (a : Nat) (d : List Byte) : (State.setBytes s a d).fields = s.fields := by
  induction d generalizing s a with
  | nil => rfl
  | cons b d ih => rw [State.setBytes, ih]; rfl

@[simp] theorem State.setBytes_epochs (s : State) (a : Nat) (d : List Byte) : (State.setBytes s a d).epochs = s.epochs := by
  induction d generalizing s a with
  | nil => rfl
  | cons b d ih => rw [State.setBytes, ih]; rfl

@[simp] theorem State.setBytes_agent (s : State) (a : Nat) (d : List Byte) : (State.setBytes s a d).agent = s.agent := by
  induction d generalizing s a with
  | nil => rfl
  | cons b d ih => rw [State.setBytes, ih]; rfl

@[simp] theorem State.setBytes_rind (s : State) (a : Nat) (d : List Byte) : (State.setBytes s a d).rind = s.rind := by
  induction d generalizing s a with
  | nil => rfl
  | cons b d ih => rw [State.setBytes, ih]; rfl

@[simp] theorem State.setBytes_arbs (s : State) (a : Nat) (d : List Byte) : (State.setBytes s a d).arbs = s.arbs := by
  induction d generalizing s a with
  | nil => rfl
  | cons b d ih => rw [State.setBytes, ih]; rfl

@[simp] theorem State.setBytes_engines (s : State) (a : Nat) (d : List Byte) : (State.setBytes s a d).engines = s.engines := by
  induction d generalizing s a with
  | nil => rfl
  | cons b d ih => rw [State.setBytes, ih]; rfl

@[simp] theorem State.setBytes_hports (s : State) (a : Nat) (d : List Byte) : (State.setBytes s a d).hports = s.hports := by
  induction d generalizing s a with
  | nil => rfl
  | cons b d ih => rw [State.setBytes, ih]; rfl

@[simp] theorem State.setBytes_sync (s : State) (a : Nat) (d : List Byte) : (State.setBytes s a d).sync = s.sync := by
  induction d generalizing s a with
  | nil => rfl
  | cons b d ih => rw [State.setBytes, ih]; rfl

@[simp] theorem State.setBytes_net (s : State) (a : Nat) (d : List Byte) : (State.setBytes s a d).net = s.net := by
  induction d generalizing s a with
  | nil => rfl
  | cons b d ih => rw [State.setBytes, ih]; rfl

@[simp] theorem State.setBytes_events (s : State) (a : Nat) (d : List Byte) : (State.setBytes s a d).events = s.events := by
  induction d generalizing s a with
  | nil => rfl
  | cons b d ih => rw [State.setBytes, ih]; rfl

@[simp] theorem State.setBytes_free (s : State) (a : Nat) (d : List Byte) : (State.setBytes s a d).free = s.free := by
  induction d generalizing s a with
  | nil => rfl
  | cons b d ih => rw [State.setBytes, ih]; rfl

@[simp] theorem State.setBytes_netSeq (s : State) (a : Nat) (d : List Byte) : (State.setBytes s a d).netSeq = s.netSeq := by
  induction d generalizing s a with
  | nil => rfl
  | cons b d ih => rw [State.setBytes, ih]; rfl

@[simp] theorem State.setBytes_links (s : State) (a : Nat) (d : List Byte) : (State.setBytes s a d).links = s.links := by
  induction d generalizing s a with
  | nil => rfl
  | cons b d ih => rw [State.setBytes, ih]; rfl

@[simp] theorem State.setBytes_vcb (s : State) (a : Nat) (d : List Byte) : (State.setBytes s a d).vcb = s.vcb := by
  induction d generalizing s a with
  | nil => rfl
  | cons b d ih => rw [State.setBytes, ih]; rfl

/-! ### Memory keeps its canonical form -/

theorem State.setByte_wf (s : State) (a : Nat) (b : Byte) (h : Memory.wf s.mem = true) : Memory.wf (s.setByte a b).mem = true :=
  twf_tset (fun _ => (0 : Byte)) h a b

theorem State.setBytes_wf (s : State) (a : Nat) (d : List Byte) (h : Memory.wf s.mem = true) :
    Memory.wf (State.setBytes s a d).mem = true := by
  induction d generalizing s a with
  | nil => exact h
  | cons b d ih => exact ih _ _ (s.setByte_wf a b h)

theorem State.clearRange_wf (s : State) (a n : Nat) (h : Memory.wf s.mem = true) : Memory.wf (s.clearRange a n).mem = true :=
  twf_tclear (fun _ => (0 : Byte)) _ h

/-- A move of a range keeps the canonical form. -/
theorem twf_tmove {α : Type} [DecidableEq α] (d : Nat → α) (m : Table α) (src dst n : Nat) (h : twf d m = true) :
    twf d (tmove d m src dst n) = true := by
  unfold tmove
  have go : ∀ (l : List (Nat × α)) (k : Table α), twf d k = true →
      twf d (l.foldl (fun m p => tset (d (p.1 - src + dst)) m (p.1 - src + dst) p.2) k) = true := by
    intro l
    induction l with
    | nil => intro k hk; exact hk
    | cons p l ih => intro k hk; exact ih _ (twf_tset d hk _ _)
  exact go _ _ (twf_tclear d _ h)

/-! ### Units read back -/

theorem Tile.key_inj {t u : Tile} (h : t.key = u.key) : t = u := by
  obtain ⟨f, a⟩ := t
  obtain ⟨g, b⟩ := u
  simp only [Tile.key] at h
  have ha := a.isLt
  have hb := b.isLt
  have h1 : f = g := Fin.ext (by omega)
  have h2 : a = b := Fin.ext (by omega)
  rw [h1, h2]

@[simp] theorem State.tile_modTile_self (s : State) (t : Tile) (f : TileSt → TileSt) : (s.modTile t f).tile t = f (s.tile t) := by
  simp [State.tile, State.modTile]

theorem State.tile_modTile_ne (s : State) {t u : Tile} (f : TileSt → TileSt) (h : u ≠ t) : (s.modTile t f).tile u = s.tile u := by
  unfold State.tile State.modTile
  exact tget_tset_ne _ _ _ _ fun e => h (Tile.key_inj e)

@[simp] theorem State.fieldSt_modField_self (s : State) (f : Nat) (g : FieldSt → FieldSt) :
    (s.modField f g).fieldSt f = g (s.fieldSt f) := by
  simp [State.fieldSt, State.modField]

theorem State.fieldSt_modField_ne (s : State) {f k : Nat} (g : FieldSt → FieldSt) (h : k ≠ f) :
    (s.modField f g).fieldSt k = s.fieldSt k := by
  simp [State.fieldSt, State.modField, tget_tset_ne _ _ _ _ h]

@[simp] theorem State.ctx_modCtx_self (s : State) (t : Tile) (c : CtxNo) (f : Ctx → Ctx) : (s.modCtx t c f).ctx t c = f (s.ctx t c) := by
  simp [State.ctx, State.modCtx]

theorem State.ctx_modCtx_ne (s : State) (t : Tile) {c d : CtxNo} (f : Ctx → Ctx) (h : d ≠ c) : (s.modCtx t c f).ctx t d = s.ctx t d := by
  have : d.val ≠ c.val := fun e => h (Fin.ext e)
  simp [State.ctx, State.modCtx, tget_tset_ne _ _ _ _ this]

@[simp] theorem State.eng_modEng_self (s : State) (t : Tile) (e : Fin 3) (c : CtxNo) (f : StreamCtx → StreamCtx) :
    (s.modEng t e c f).eng t e c = f (s.eng t e c) := by
  simp [State.eng, State.modEng]

@[simp] theorem State.ctx_modEng (s : State) (t : Tile) (e : Fin 3) (c d : CtxNo) (f : StreamCtx → StreamCtx) :
    (s.modEng t e c f).ctx t d = s.ctx t d := by
  simp [State.ctx, State.modEng]

@[simp] theorem State.eng_modCtx (s : State) (t : Tile) (e : Fin 3) (c d : CtxNo) (f : Ctx → Ctx) :
    (s.modCtx t d f).eng t e c = s.eng t e c := by
  simp [State.eng, State.modCtx]

/-- Tiles are read from tiles alone. -/
theorem State.tile_congr {s t : State} (h : t.tiles = s.tiles) (u : Tile) : t.tile u = s.tile u := by
  simp [State.tile, h]

/-! ### What each write of registers, tiles and fields leaves of the others -/

@[simp] theorem State.setReg_tile (s : State) (ca : Nat) (v : Word) (u : Tile) : (s.setReg ca v).tile u = s.tile u := rfl
@[simp] theorem State.setReg_ctx (s : State) (ca : Nat) (v : Word) (u : Tile) (d : CtxNo) : (s.setReg ca v).ctx u d = s.ctx u d := rfl
@[simp] theorem State.setReg_fieldSt (s : State) (ca : Nat) (v : Word) (k : Nat) : (s.setReg ca v).fieldSt k = s.fieldSt k := rfl
@[simp] theorem State.setReg_byte (s : State) (ca : Nat) (v : Word) (i : Nat) : (s.setReg ca v).byte i = s.byte i := rfl
@[simp] theorem State.setFld_tile (s : State) (ca hi lo v : Nat) (u : Tile) : (s.setFld ca hi lo v).tile u = s.tile u := rfl
@[simp] theorem State.setFld_ctx (s : State) (ca hi lo v : Nat) (u : Tile) (d : CtxNo) : (s.setFld ca hi lo v).ctx u d = s.ctx u d := rfl
@[simp] theorem State.setFld_fieldSt (s : State) (ca hi lo v : Nat) (k : Nat) : (s.setFld ca hi lo v).fieldSt k = s.fieldSt k := rfl
@[simp] theorem State.setFld_byte (s : State) (ca hi lo v : Nat) (i : Nat) : (s.setFld ca hi lo v).byte i = s.byte i := rfl
@[simp] theorem State.orReg_tile (s : State) (ca : Nat) (m : Word) (u : Tile) : (s.orReg ca m).tile u = s.tile u := rfl
@[simp] theorem State.orReg_ctx (s : State) (ca : Nat) (m : Word) (u : Tile) (d : CtxNo) : (s.orReg ca m).ctx u d = s.ctx u d := rfl
@[simp] theorem State.orReg_fieldSt (s : State) (ca : Nat) (m : Word) (k : Nat) : (s.orReg ca m).fieldSt k = s.fieldSt k := rfl
@[simp] theorem State.orReg_byte (s : State) (ca : Nat) (m : Word) (i : Nat) : (s.orReg ca m).byte i = s.byte i := rfl
@[simp] theorem State.raise_tile (s : State) (ca n : Nat) (u : Tile) : (s.raise ca n).tile u = s.tile u := rfl
@[simp] theorem State.raise_ctx (s : State) (ca n : Nat) (u : Tile) (d : CtxNo) : (s.raise ca n).ctx u d = s.ctx u d := rfl
@[simp] theorem State.raise_fieldSt (s : State) (ca n : Nat) (k : Nat) : (s.raise ca n).fieldSt k = s.fieldSt k := rfl
@[simp] theorem State.raise_byte (s : State) (ca n : Nat) (i : Nat) : (s.raise ca n).byte i = s.byte i := rfl
@[simp] theorem State.setLive_reg (s : State) (ca : Nat) (v : Word) (cb : Nat) : (s.setLive ca v).reg cb = s.reg cb := rfl
@[simp] theorem State.setLive_tile (s : State) (ca : Nat) (v : Word) (u : Tile) : (s.setLive ca v).tile u = s.tile u := rfl
@[simp] theorem State.setLive_ctx (s : State) (ca : Nat) (v : Word) (u : Tile) (d : CtxNo) : (s.setLive ca v).ctx u d = s.ctx u d := rfl
@[simp] theorem State.setLive_fieldSt (s : State) (ca : Nat) (v : Word) (k : Nat) : (s.setLive ca v).fieldSt k = s.fieldSt k := rfl
@[simp] theorem State.setLive_byte (s : State) (ca : Nat) (v : Word) (i : Nat) : (s.setLive ca v).byte i = s.byte i := rfl
@[simp] theorem State.post_reg (s : State) (code : Nat) (job ctx : Option Nat) (field site : Nat) (detail : Word) (cb : Nat) : (s.post code job ctx field site detail).reg cb = s.reg cb := rfl
@[simp] theorem State.post_tile (s : State) (code : Nat) (job ctx : Option Nat) (field site : Nat) (detail : Word) (u : Tile) : (s.post code job ctx field site detail).tile u = s.tile u := rfl
@[simp] theorem State.post_ctx (s : State) (code : Nat) (job ctx : Option Nat) (field site : Nat) (detail : Word) (u : Tile) (d : CtxNo) : (s.post code job ctx field site detail).ctx u d = s.ctx u d := rfl
@[simp] theorem State.post_fieldSt (s : State) (code : Nat) (job ctx : Option Nat) (field site : Nat) (detail : Word) (k : Nat) : (s.post code job ctx field site detail).fieldSt k = s.fieldSt k := rfl
@[simp] theorem State.post_byte (s : State) (code : Nat) (job ctx : Option Nat) (field site : Nat) (detail : Word) (i : Nat) : (s.post code job ctx field site detail).byte i = s.byte i := rfl
@[simp] theorem State.configError_reg (s : State) (ca : Nat) (cb : Nat) : (s.configError ca).reg cb = s.reg cb := rfl
@[simp] theorem State.configError_tile (s : State) (ca : Nat) (u : Tile) : (s.configError ca).tile u = s.tile u := rfl
@[simp] theorem State.configError_ctx (s : State) (ca : Nat) (u : Tile) (d : CtxNo) : (s.configError ca).ctx u d = s.ctx u d := rfl
@[simp] theorem State.configError_fieldSt (s : State) (ca : Nat) (k : Nat) : (s.configError ca).fieldSt k = s.fieldSt k := rfl
@[simp] theorem State.configError_byte (s : State) (ca : Nat) (i : Nat) : (s.configError ca).byte i = s.byte i := rfl
@[simp] theorem State.caError_reg (s : State) (ca : Nat) (cb : Nat) : (s.caError ca).reg cb = s.reg cb := rfl
@[simp] theorem State.caError_tile (s : State) (ca : Nat) (u : Tile) : (s.caError ca).tile u = s.tile u := rfl
@[simp] theorem State.caError_ctx (s : State) (ca : Nat) (u : Tile) (d : CtxNo) : (s.caError ca).ctx u d = s.ctx u d := rfl
@[simp] theorem State.caError_fieldSt (s : State) (ca : Nat) (k : Nat) : (s.caError ca).fieldSt k = s.fieldSt k := rfl
@[simp] theorem State.caError_byte (s : State) (ca : Nat) (i : Nat) : (s.caError ca).byte i = s.byte i := rfl
@[simp] theorem State.postCtx_reg (s : State) (code : Nat) (t : Tile) (c : CtxNo) (detail : Word) (cb : Nat) : (s.postCtx code t c detail).reg cb = s.reg cb := rfl
@[simp] theorem State.postCtx_tile (s : State) (code : Nat) (t : Tile) (c : CtxNo) (detail : Word) (u : Tile) : (s.postCtx code t c detail).tile u = s.tile u := rfl
@[simp] theorem State.postCtx_ctx (s : State) (code : Nat) (t : Tile) (c : CtxNo) (detail : Word) (u : Tile) (d : CtxNo) : (s.postCtx code t c detail).ctx u d = s.ctx u d := rfl
@[simp] theorem State.postCtx_fieldSt (s : State) (code : Nat) (t : Tile) (c : CtxNo) (detail : Word) (k : Nat) : (s.postCtx code t c detail).fieldSt k = s.fieldSt k := rfl
@[simp] theorem State.postCtx_byte (s : State) (code : Nat) (t : Tile) (c : CtxNo) (detail : Word) (i : Nat) : (s.postCtx code t c detail).byte i = s.byte i := rfl
@[simp] theorem State.postTile_reg (s : State) (code : Nat) (t : Tile) (detail : Word) (cb : Nat) : (s.postTile code t detail).reg cb = s.reg cb := rfl
@[simp] theorem State.postTile_tile (s : State) (code : Nat) (t : Tile) (detail : Word) (u : Tile) : (s.postTile code t detail).tile u = s.tile u := rfl
@[simp] theorem State.postTile_ctx (s : State) (code : Nat) (t : Tile) (detail : Word) (u : Tile) (d : CtxNo) : (s.postTile code t detail).ctx u d = s.ctx u d := rfl
@[simp] theorem State.postTile_fieldSt (s : State) (code : Nat) (t : Tile) (detail : Word) (k : Nat) : (s.postTile code t detail).fieldSt k = s.fieldSt k := rfl
@[simp] theorem State.postTile_byte (s : State) (code : Nat) (t : Tile) (detail : Word) (i : Nat) : (s.postTile code t detail).byte i = s.byte i := rfl
@[simp] theorem State.setByte_reg (s : State) (a : Nat) (b : Byte) (cb : Nat) : (s.setByte a b).reg cb = s.reg cb := rfl
@[simp] theorem State.setByte_tile (s : State) (a : Nat) (b : Byte) (u : Tile) : (s.setByte a b).tile u = s.tile u := rfl
@[simp] theorem State.setByte_ctx (s : State) (a : Nat) (b : Byte) (u : Tile) (d : CtxNo) : (s.setByte a b).ctx u d = s.ctx u d := rfl
@[simp] theorem State.setByte_fieldSt (s : State) (a : Nat) (b : Byte) (k : Nat) : (s.setByte a b).fieldSt k = s.fieldSt k := rfl
@[simp] theorem State.clearRange_reg (s : State) (a n : Nat) (cb : Nat) : (s.clearRange a n).reg cb = s.reg cb := rfl
@[simp] theorem State.clearRange_tile (s : State) (a n : Nat) (u : Tile) : (s.clearRange a n).tile u = s.tile u := rfl
@[simp] theorem State.clearRange_ctx (s : State) (a n : Nat) (u : Tile) (d : CtxNo) : (s.clearRange a n).ctx u d = s.ctx u d := rfl
@[simp] theorem State.clearRange_fieldSt (s : State) (a n : Nat) (k : Nat) : (s.clearRange a n).fieldSt k = s.fieldSt k := rfl
@[simp] theorem State.setErr_reg (s : State) (a e : Nat) (cb : Nat) : (s.setErr a e).reg cb = s.reg cb := rfl
@[simp] theorem State.setErr_tile (s : State) (a e : Nat) (u : Tile) : (s.setErr a e).tile u = s.tile u := rfl
@[simp] theorem State.setErr_ctx (s : State) (a e : Nat) (u : Tile) (d : CtxNo) : (s.setErr a e).ctx u d = s.ctx u d := rfl
@[simp] theorem State.setErr_fieldSt (s : State) (a e : Nat) (k : Nat) : (s.setErr a e).fieldSt k = s.fieldSt k := rfl
@[simp] theorem State.setErr_byte (s : State) (a e : Nat) (i : Nat) : (s.setErr a e).byte i = s.byte i := rfl
@[simp] theorem State.modTile_reg (s : State) (t : Tile) (f : TileSt → TileSt) (cb : Nat) : (s.modTile t f).reg cb = s.reg cb := rfl
@[simp] theorem State.modTile_fieldSt (s : State) (t : Tile) (f : TileSt → TileSt) (k : Nat) : (s.modTile t f).fieldSt k = s.fieldSt k := rfl
@[simp] theorem State.modTile_byte (s : State) (t : Tile) (f : TileSt → TileSt) (i : Nat) : (s.modTile t f).byte i = s.byte i := rfl
@[simp] theorem State.modField_reg (s : State) (f : Nat) (g : FieldSt → FieldSt) (cb : Nat) : (s.modField f g).reg cb = s.reg cb := rfl
@[simp] theorem State.modField_tile (s : State) (f : Nat) (g : FieldSt → FieldSt) (u : Tile) : (s.modField f g).tile u = s.tile u := rfl
@[simp] theorem State.modField_ctx (s : State) (f : Nat) (g : FieldSt → FieldSt) (u : Tile) (d : CtxNo) : (s.modField f g).ctx u d = s.ctx u d := rfl
@[simp] theorem State.modField_byte (s : State) (f : Nat) (g : FieldSt → FieldSt) (i : Nat) : (s.modField f g).byte i = s.byte i := rfl
@[simp] theorem State.modCtx_reg (s : State) (t : Tile) (c : CtxNo) (f : Ctx → Ctx) (cb : Nat) : (s.modCtx t c f).reg cb = s.reg cb := rfl
@[simp] theorem State.modCtx_fieldSt (s : State) (t : Tile) (c : CtxNo) (f : Ctx → Ctx) (k : Nat) : (s.modCtx t c f).fieldSt k = s.fieldSt k := rfl
@[simp] theorem State.modCtx_byte (s : State) (t : Tile) (c : CtxNo) (f : Ctx → Ctx) (i : Nat) : (s.modCtx t c f).byte i = s.byte i := rfl
@[simp] theorem State.modEng_reg (s : State) (t : Tile) (e : Fin 3) (c : CtxNo) (f : StreamCtx → StreamCtx) (cb : Nat) : (s.modEng t e c f).reg cb = s.reg cb := rfl
@[simp] theorem State.modEng_fieldSt (s : State) (t : Tile) (e : Fin 3) (c : CtxNo) (f : StreamCtx → StreamCtx) (k : Nat) : (s.modEng t e c f).fieldSt k = s.fieldSt k := rfl
@[simp] theorem State.modEng_byte (s : State) (t : Tile) (e : Fin 3) (c : CtxNo) (f : StreamCtx → StreamCtx) (i : Nat) : (s.modEng t e c f).byte i = s.byte i := rfl
@[simp] theorem State.send_reg (s : State) (h : Head) (b : Body) (cb : Nat) : (s.send h b).reg cb = s.reg cb := rfl
@[simp] theorem State.send_tile (s : State) (h : Head) (b : Body) (u : Tile) : (s.send h b).tile u = s.tile u := rfl
@[simp] theorem State.send_ctx (s : State) (h : Head) (b : Body) (u : Tile) (d : CtxNo) : (s.send h b).ctx u d = s.ctx u d := rfl
@[simp] theorem State.send_fieldSt (s : State) (h : Head) (b : Body) (k : Nat) : (s.send h b).fieldSt k = s.fieldSt k := rfl
@[simp] theorem State.send_byte (s : State) (h : Head) (b : Body) (i : Nat) : (s.send h b).byte i = s.byte i := rfl
@[simp] theorem State.modRind_reg (s : State) (f : RindSt → RindSt) (cb : Nat) : (s.modRind f).reg cb = s.reg cb := rfl
@[simp] theorem State.modRind_tile (s : State) (f : RindSt → RindSt) (u : Tile) : (s.modRind f).tile u = s.tile u := rfl
@[simp] theorem State.modRind_ctx (s : State) (f : RindSt → RindSt) (u : Tile) (d : CtxNo) : (s.modRind f).ctx u d = s.ctx u d := rfl
@[simp] theorem State.modRind_fieldSt (s : State) (f : RindSt → RindSt) (k : Nat) : (s.modRind f).fieldSt k = s.fieldSt k := rfl
@[simp] theorem State.modRind_byte (s : State) (f : RindSt → RindSt) (i : Nat) : (s.modRind f).byte i = s.byte i := rfl
@[simp] theorem State.modPower_reg (s : State) (f : PowerSt → PowerSt) (cb : Nat) : (s.modPower f).reg cb = s.reg cb := rfl
@[simp] theorem State.modPower_tile (s : State) (f : PowerSt → PowerSt) (u : Tile) : (s.modPower f).tile u = s.tile u := rfl
@[simp] theorem State.modPower_ctx (s : State) (f : PowerSt → PowerSt) (u : Tile) (d : CtxNo) : (s.modPower f).ctx u d = s.ctx u d := rfl
@[simp] theorem State.modPower_fieldSt (s : State) (f : PowerSt → PowerSt) (k : Nat) : (s.modPower f).fieldSt k = s.fieldSt k := rfl
@[simp] theorem State.modPower_byte (s : State) (f : PowerSt → PowerSt) (i : Nat) : (s.modPower f).byte i = s.byte i := rfl
@[simp] theorem State.modUnlock_reg (s : State) (f : UnlockSt → UnlockSt) (cb : Nat) : (s.modUnlock f).reg cb = s.reg cb := rfl
@[simp] theorem State.modUnlock_tile (s : State) (f : UnlockSt → UnlockSt) (u : Tile) : (s.modUnlock f).tile u = s.tile u := rfl
@[simp] theorem State.modUnlock_ctx (s : State) (f : UnlockSt → UnlockSt) (u : Tile) (d : CtxNo) : (s.modUnlock f).ctx u d = s.ctx u d := rfl
@[simp] theorem State.modUnlock_fieldSt (s : State) (f : UnlockSt → UnlockSt) (k : Nat) : (s.modUnlock f).fieldSt k = s.fieldSt k := rfl
@[simp] theorem State.modUnlock_byte (s : State) (f : UnlockSt → UnlockSt) (i : Nat) : (s.modUnlock f).byte i = s.byte i := rfl
@[simp] theorem State.modSide_reg (s : State) (f : SideSt → SideSt) (cb : Nat) : (s.modSide f).reg cb = s.reg cb := rfl
@[simp] theorem State.modSide_tile (s : State) (f : SideSt → SideSt) (u : Tile) : (s.modSide f).tile u = s.tile u := rfl
@[simp] theorem State.modSide_ctx (s : State) (f : SideSt → SideSt) (u : Tile) (d : CtxNo) : (s.modSide f).ctx u d = s.ctx u d := rfl
@[simp] theorem State.modSide_fieldSt (s : State) (f : SideSt → SideSt) (k : Nat) : (s.modSide f).fieldSt k = s.fieldSt k := rfl
@[simp] theorem State.modSide_byte (s : State) (f : SideSt → SideSt) (i : Nat) : (s.modSide f).byte i = s.byte i := rfl
@[simp] theorem State.modAgent_reg (s : State) (g : Agent → Agent) (cb : Nat) : (s.modAgent g).reg cb = s.reg cb := rfl
@[simp] theorem State.modAgent_tile (s : State) (g : Agent → Agent) (u : Tile) : (s.modAgent g).tile u = s.tile u := rfl
@[simp] theorem State.modAgent_ctx (s : State) (g : Agent → Agent) (u : Tile) (d : CtxNo) : (s.modAgent g).ctx u d = s.ctx u d := rfl
@[simp] theorem State.modAgent_fieldSt (s : State) (g : Agent → Agent) (k : Nat) : (s.modAgent g).fieldSt k = s.fieldSt k := rfl
@[simp] theorem State.modAgent_byte (s : State) (g : Agent → Agent) (i : Nat) : (s.modAgent g).byte i = s.byte i := rfl
@[simp] theorem State.modEngine_reg (s : State) (f : FieldNo) (g : EngSt → EngSt) (cb : Nat) : (s.modEngine f g).reg cb = s.reg cb := rfl
@[simp] theorem State.modEngine_tile (s : State) (f : FieldNo) (g : EngSt → EngSt) (u : Tile) : (s.modEngine f g).tile u = s.tile u := rfl
@[simp] theorem State.modEngine_ctx (s : State) (f : FieldNo) (g : EngSt → EngSt) (u : Tile) (d : CtxNo) : (s.modEngine f g).ctx u d = s.ctx u d := rfl
@[simp] theorem State.modEngine_fieldSt (s : State) (f : FieldNo) (g : EngSt → EngSt) (k : Nat) : (s.modEngine f g).fieldSt k = s.fieldSt k := rfl
@[simp] theorem State.modEngine_byte (s : State) (f : FieldNo) (g : EngSt → EngSt) (i : Nat) : (s.modEngine f g).byte i = s.byte i := rfl
@[simp] theorem State.modHp_reg (s : State) (h : Fin 96) (g : HpSt → HpSt) (cb : Nat) : (s.modHp h g).reg cb = s.reg cb := rfl
@[simp] theorem State.modHp_tile (s : State) (h : Fin 96) (g : HpSt → HpSt) (u : Tile) : (s.modHp h g).tile u = s.tile u := rfl
@[simp] theorem State.modHp_ctx (s : State) (h : Fin 96) (g : HpSt → HpSt) (u : Tile) (d : CtxNo) : (s.modHp h g).ctx u d = s.ctx u d := rfl
@[simp] theorem State.modHp_fieldSt (s : State) (h : Fin 96) (g : HpSt → HpSt) (k : Nat) : (s.modHp h g).fieldSt k = s.fieldSt k := rfl
@[simp] theorem State.modHp_byte (s : State) (h : Fin 96) (g : HpSt → HpSt) (i : Nat) : (s.modHp h g).byte i = s.byte i := rfl
@[simp] theorem State.setArb_reg (s : State) (base : Nat) (x : ArbSt) (cb : Nat) : (s.setArb base x).reg cb = s.reg cb := rfl
@[simp] theorem State.setArb_tile (s : State) (base : Nat) (x : ArbSt) (u : Tile) : (s.setArb base x).tile u = s.tile u := rfl
@[simp] theorem State.setArb_ctx (s : State) (base : Nat) (x : ArbSt) (u : Tile) (d : CtxNo) : (s.setArb base x).ctx u d = s.ctx u d := rfl
@[simp] theorem State.setArb_fieldSt (s : State) (base : Nat) (x : ArbSt) (k : Nat) : (s.setArb base x).fieldSt k = s.fieldSt k := rfl
@[simp] theorem State.setArb_byte (s : State) (base : Nat) (x : ArbSt) (i : Nat) : (s.setArb base x).byte i = s.byte i := rfl

/-! ### The updates of one part of a tile, a field or the Rind, and of the network -/

@[simp] theorem State.takePacket_pending (s : State) (h : Head) (b : Body) : (s.takePacket h b).pending = s.pending := rfl
@[simp] theorem State.takePacket_regs (s : State) (h : Head) (b : Body) : (s.takePacket h b).regs = s.regs := rfl
@[simp] theorem State.takePacket_live (s : State) (h : Head) (b : Body) : (s.takePacket h b).live = s.live := rfl
@[simp] theorem State.takePacket_mem (s : State) (h : Head) (b : Body) : (s.takePacket h b).mem = s.mem := rfl
@[simp] theorem State.takePacket_ecc (s : State) (h : Head) (b : Body) : (s.takePacket h b).ecc = s.ecc := rfl
@[simp] theorem State.takePacket_resBad (s : State) (h : Head) (b : Body) : (s.takePacket h b).resBad = s.resBad := rfl
@[simp] theorem State.takePacket_times (s : State) (h : Head) (b : Body) : (s.takePacket h b).times = s.times := rfl
@[simp] theorem State.takePacket_tiles (s : State) (h : Head) (b : Body) : (s.takePacket h b).tiles = s.tiles := rfl
@[simp] theorem State.takePacket_fields (s : State) (h : Head) (b : Body) : (s.takePacket h b).fields = s.fields := rfl
@[simp] theorem State.takePacket_epochs (s : State) (h : Head) (b : Body) : (s.takePacket h b).epochs = s.epochs := rfl
@[simp] theorem State.takePacket_agent (s : State) (h : Head) (b : Body) : (s.takePacket h b).agent = s.agent := rfl
@[simp] theorem State.takePacket_rind (s : State) (h : Head) (b : Body) : (s.takePacket h b).rind = s.rind := rfl
@[simp] theorem State.takePacket_arbs (s : State) (h : Head) (b : Body) : (s.takePacket h b).arbs = s.arbs := rfl
@[simp] theorem State.takePacket_engines (s : State) (h : Head) (b : Body) : (s.takePacket h b).engines = s.engines := rfl
@[simp] theorem State.takePacket_hports (s : State) (h : Head) (b : Body) : (s.takePacket h b).hports = s.hports := rfl
@[simp] theorem State.takePacket_sync (s : State) (h : Head) (b : Body) : (s.takePacket h b).sync = s.sync := rfl
@[simp] theorem State.takePacket_netSeq (s : State) (h : Head) (b : Body) : (s.takePacket h b).netSeq = s.netSeq := rfl
@[simp] theorem State.takePacket_links (s : State) (h : Head) (b : Body) : (s.takePacket h b).links = s.links := rfl
@[simp] theorem State.takePacket_vcb (s : State) (h : Head) (b : Body) : (s.takePacket h b).vcb = s.vcb := rfl
@[simp] theorem State.takePacket_events (s : State) (h : Head) (b : Body) : (s.takePacket h b).events = s.events := rfl
@[simp] theorem State.takePacket_free (s : State) (h : Head) (b : Body) : (s.takePacket h b).free = s.free := rfl
@[simp] theorem State.takePacket_reg (s : State) (h : Head) (b : Body) (cb : Nat) : (s.takePacket h b).reg cb = s.reg cb := rfl
@[simp] theorem State.takePacket_tile (s : State) (h : Head) (b : Body) (u : Tile) : (s.takePacket h b).tile u = s.tile u := rfl
@[simp] theorem State.takePacket_ctx (s : State) (h : Head) (b : Body) (u : Tile) (d : CtxNo) : (s.takePacket h b).ctx u d = s.ctx u d := rfl
@[simp] theorem State.takePacket_fieldSt (s : State) (h : Head) (b : Body) (k : Nat) : (s.takePacket h b).fieldSt k = s.fieldSt k := rfl
@[simp] theorem State.takePacket_byte (s : State) (h : Head) (b : Body) (i : Nat) : (s.takePacket h b).byte i = s.byte i := rfl

@[simp] theorem State.vcbAge_pending (s : State) (t : Tile) (since : Nat) : (s.vcbAge t since).pending = s.pending := rfl
@[simp] theorem State.vcbAge_regs (s : State) (t : Tile) (since : Nat) : (s.vcbAge t since).regs = s.regs := rfl
@[simp] theorem State.vcbAge_live (s : State) (t : Tile) (since : Nat) : (s.vcbAge t since).live = s.live := rfl
@[simp] theorem State.vcbAge_mem (s : State) (t : Tile) (since : Nat) : (s.vcbAge t since).mem = s.mem := rfl
@[simp] theorem State.vcbAge_ecc (s : State) (t : Tile) (since : Nat) : (s.vcbAge t since).ecc = s.ecc := rfl
@[simp] theorem State.vcbAge_resBad (s : State) (t : Tile) (since : Nat) : (s.vcbAge t since).resBad = s.resBad := rfl
@[simp] theorem State.vcbAge_times (s : State) (t : Tile) (since : Nat) : (s.vcbAge t since).times = s.times := rfl
@[simp] theorem State.vcbAge_tiles (s : State) (t : Tile) (since : Nat) : (s.vcbAge t since).tiles = s.tiles := rfl
@[simp] theorem State.vcbAge_fields (s : State) (t : Tile) (since : Nat) : (s.vcbAge t since).fields = s.fields := rfl
@[simp] theorem State.vcbAge_epochs (s : State) (t : Tile) (since : Nat) : (s.vcbAge t since).epochs = s.epochs := rfl
@[simp] theorem State.vcbAge_agent (s : State) (t : Tile) (since : Nat) : (s.vcbAge t since).agent = s.agent := rfl
@[simp] theorem State.vcbAge_rind (s : State) (t : Tile) (since : Nat) : (s.vcbAge t since).rind = s.rind := rfl
@[simp] theorem State.vcbAge_arbs (s : State) (t : Tile) (since : Nat) : (s.vcbAge t since).arbs = s.arbs := rfl
@[simp] theorem State.vcbAge_engines (s : State) (t : Tile) (since : Nat) : (s.vcbAge t since).engines = s.engines := rfl
@[simp] theorem State.vcbAge_hports (s : State) (t : Tile) (since : Nat) : (s.vcbAge t since).hports = s.hports := rfl
@[simp] theorem State.vcbAge_sync (s : State) (t : Tile) (since : Nat) : (s.vcbAge t since).sync = s.sync := rfl
@[simp] theorem State.vcbAge_net (s : State) (t : Tile) (since : Nat) : (s.vcbAge t since).net = s.net := rfl
@[simp] theorem State.vcbAge_netSeq (s : State) (t : Tile) (since : Nat) : (s.vcbAge t since).netSeq = s.netSeq := rfl
@[simp] theorem State.vcbAge_links (s : State) (t : Tile) (since : Nat) : (s.vcbAge t since).links = s.links := rfl
@[simp] theorem State.vcbAge_events (s : State) (t : Tile) (since : Nat) : (s.vcbAge t since).events = s.events := rfl
@[simp] theorem State.vcbAge_free (s : State) (t : Tile) (since : Nat) : (s.vcbAge t since).free = s.free := rfl
@[simp] theorem State.vcbAge_reg (s : State) (t : Tile) (since : Nat) (cb : Nat) : (s.vcbAge t since).reg cb = s.reg cb := rfl
@[simp] theorem State.vcbAge_tile (s : State) (t : Tile) (since : Nat) (u : Tile) : (s.vcbAge t since).tile u = s.tile u := rfl
@[simp] theorem State.vcbAge_ctx (s : State) (t : Tile) (since : Nat) (u : Tile) (d : CtxNo) : (s.vcbAge t since).ctx u d = s.ctx u d := rfl
@[simp] theorem State.vcbAge_fieldSt (s : State) (t : Tile) (since : Nat) (k : Nat) : (s.vcbAge t since).fieldSt k = s.fieldSt k := rfl
@[simp] theorem State.vcbAge_byte (s : State) (t : Tile) (since : Nat) (i : Nat) : (s.vcbAge t since).byte i = s.byte i := rfl

@[simp] theorem State.modPcie_pending (s : State) (f : PcieSt → PcieSt) : (s.modPcie f).pending = s.pending := rfl
@[simp] theorem State.modPcie_regs (s : State) (f : PcieSt → PcieSt) : (s.modPcie f).regs = s.regs := rfl
@[simp] theorem State.modPcie_live (s : State) (f : PcieSt → PcieSt) : (s.modPcie f).live = s.live := rfl
@[simp] theorem State.modPcie_mem (s : State) (f : PcieSt → PcieSt) : (s.modPcie f).mem = s.mem := rfl
@[simp] theorem State.modPcie_ecc (s : State) (f : PcieSt → PcieSt) : (s.modPcie f).ecc = s.ecc := rfl
@[simp] theorem State.modPcie_resBad (s : State) (f : PcieSt → PcieSt) : (s.modPcie f).resBad = s.resBad := rfl
@[simp] theorem State.modPcie_times (s : State) (f : PcieSt → PcieSt) : (s.modPcie f).times = s.times := rfl
@[simp] theorem State.modPcie_tiles (s : State) (f : PcieSt → PcieSt) : (s.modPcie f).tiles = s.tiles := rfl
@[simp] theorem State.modPcie_fields (s : State) (f : PcieSt → PcieSt) : (s.modPcie f).fields = s.fields := rfl
@[simp] theorem State.modPcie_epochs (s : State) (f : PcieSt → PcieSt) : (s.modPcie f).epochs = s.epochs := rfl
@[simp] theorem State.modPcie_agent (s : State) (f : PcieSt → PcieSt) : (s.modPcie f).agent = s.agent := rfl
@[simp] theorem State.modPcie_arbs (s : State) (f : PcieSt → PcieSt) : (s.modPcie f).arbs = s.arbs := rfl
@[simp] theorem State.modPcie_engines (s : State) (f : PcieSt → PcieSt) : (s.modPcie f).engines = s.engines := rfl
@[simp] theorem State.modPcie_hports (s : State) (f : PcieSt → PcieSt) : (s.modPcie f).hports = s.hports := rfl
@[simp] theorem State.modPcie_sync (s : State) (f : PcieSt → PcieSt) : (s.modPcie f).sync = s.sync := rfl
@[simp] theorem State.modPcie_net (s : State) (f : PcieSt → PcieSt) : (s.modPcie f).net = s.net := rfl
@[simp] theorem State.modPcie_netSeq (s : State) (f : PcieSt → PcieSt) : (s.modPcie f).netSeq = s.netSeq := rfl
@[simp] theorem State.modPcie_links (s : State) (f : PcieSt → PcieSt) : (s.modPcie f).links = s.links := rfl
@[simp] theorem State.modPcie_vcb (s : State) (f : PcieSt → PcieSt) : (s.modPcie f).vcb = s.vcb := rfl
@[simp] theorem State.modPcie_events (s : State) (f : PcieSt → PcieSt) : (s.modPcie f).events = s.events := rfl
@[simp] theorem State.modPcie_free (s : State) (f : PcieSt → PcieSt) : (s.modPcie f).free = s.free := rfl
@[simp] theorem State.modPcie_reg (s : State) (f : PcieSt → PcieSt) (cb : Nat) : (s.modPcie f).reg cb = s.reg cb := rfl
@[simp] theorem State.modPcie_tile (s : State) (f : PcieSt → PcieSt) (u : Tile) : (s.modPcie f).tile u = s.tile u := rfl
@[simp] theorem State.modPcie_byte (s : State) (f : PcieSt → PcieSt) (i : Nat) : (s.modPcie f).byte i = s.byte i := rfl

@[simp] theorem State.modPins_pending (s : State) (f : PinSt → PinSt) : (s.modPins f).pending = s.pending := rfl
@[simp] theorem State.modPins_regs (s : State) (f : PinSt → PinSt) : (s.modPins f).regs = s.regs := rfl
@[simp] theorem State.modPins_live (s : State) (f : PinSt → PinSt) : (s.modPins f).live = s.live := rfl
@[simp] theorem State.modPins_mem (s : State) (f : PinSt → PinSt) : (s.modPins f).mem = s.mem := rfl
@[simp] theorem State.modPins_ecc (s : State) (f : PinSt → PinSt) : (s.modPins f).ecc = s.ecc := rfl
@[simp] theorem State.modPins_resBad (s : State) (f : PinSt → PinSt) : (s.modPins f).resBad = s.resBad := rfl
@[simp] theorem State.modPins_times (s : State) (f : PinSt → PinSt) : (s.modPins f).times = s.times := rfl
@[simp] theorem State.modPins_tiles (s : State) (f : PinSt → PinSt) : (s.modPins f).tiles = s.tiles := rfl
@[simp] theorem State.modPins_fields (s : State) (f : PinSt → PinSt) : (s.modPins f).fields = s.fields := rfl
@[simp] theorem State.modPins_epochs (s : State) (f : PinSt → PinSt) : (s.modPins f).epochs = s.epochs := rfl
@[simp] theorem State.modPins_agent (s : State) (f : PinSt → PinSt) : (s.modPins f).agent = s.agent := rfl
@[simp] theorem State.modPins_arbs (s : State) (f : PinSt → PinSt) : (s.modPins f).arbs = s.arbs := rfl
@[simp] theorem State.modPins_engines (s : State) (f : PinSt → PinSt) : (s.modPins f).engines = s.engines := rfl
@[simp] theorem State.modPins_hports (s : State) (f : PinSt → PinSt) : (s.modPins f).hports = s.hports := rfl
@[simp] theorem State.modPins_sync (s : State) (f : PinSt → PinSt) : (s.modPins f).sync = s.sync := rfl
@[simp] theorem State.modPins_net (s : State) (f : PinSt → PinSt) : (s.modPins f).net = s.net := rfl
@[simp] theorem State.modPins_netSeq (s : State) (f : PinSt → PinSt) : (s.modPins f).netSeq = s.netSeq := rfl
@[simp] theorem State.modPins_links (s : State) (f : PinSt → PinSt) : (s.modPins f).links = s.links := rfl
@[simp] theorem State.modPins_vcb (s : State) (f : PinSt → PinSt) : (s.modPins f).vcb = s.vcb := rfl
@[simp] theorem State.modPins_events (s : State) (f : PinSt → PinSt) : (s.modPins f).events = s.events := rfl
@[simp] theorem State.modPins_free (s : State) (f : PinSt → PinSt) : (s.modPins f).free = s.free := rfl
@[simp] theorem State.modPins_reg (s : State) (f : PinSt → PinSt) (cb : Nat) : (s.modPins f).reg cb = s.reg cb := rfl
@[simp] theorem State.modPins_tile (s : State) (f : PinSt → PinSt) (u : Tile) : (s.modPins f).tile u = s.tile u := rfl
@[simp] theorem State.modPins_byte (s : State) (f : PinSt → PinSt) (i : Nat) : (s.modPins f).byte i = s.byte i := rfl

@[simp] theorem State.modFw_pending (s : State) (f : FwSt → FwSt) : (s.modFw f).pending = s.pending := rfl
@[simp] theorem State.modFw_regs (s : State) (f : FwSt → FwSt) : (s.modFw f).regs = s.regs := rfl
@[simp] theorem State.modFw_live (s : State) (f : FwSt → FwSt) : (s.modFw f).live = s.live := rfl
@[simp] theorem State.modFw_mem (s : State) (f : FwSt → FwSt) : (s.modFw f).mem = s.mem := rfl
@[simp] theorem State.modFw_ecc (s : State) (f : FwSt → FwSt) : (s.modFw f).ecc = s.ecc := rfl
@[simp] theorem State.modFw_resBad (s : State) (f : FwSt → FwSt) : (s.modFw f).resBad = s.resBad := rfl
@[simp] theorem State.modFw_times (s : State) (f : FwSt → FwSt) : (s.modFw f).times = s.times := rfl
@[simp] theorem State.modFw_tiles (s : State) (f : FwSt → FwSt) : (s.modFw f).tiles = s.tiles := rfl
@[simp] theorem State.modFw_fields (s : State) (f : FwSt → FwSt) : (s.modFw f).fields = s.fields := rfl
@[simp] theorem State.modFw_epochs (s : State) (f : FwSt → FwSt) : (s.modFw f).epochs = s.epochs := rfl
@[simp] theorem State.modFw_agent (s : State) (f : FwSt → FwSt) : (s.modFw f).agent = s.agent := rfl
@[simp] theorem State.modFw_arbs (s : State) (f : FwSt → FwSt) : (s.modFw f).arbs = s.arbs := rfl
@[simp] theorem State.modFw_engines (s : State) (f : FwSt → FwSt) : (s.modFw f).engines = s.engines := rfl
@[simp] theorem State.modFw_hports (s : State) (f : FwSt → FwSt) : (s.modFw f).hports = s.hports := rfl
@[simp] theorem State.modFw_sync (s : State) (f : FwSt → FwSt) : (s.modFw f).sync = s.sync := rfl
@[simp] theorem State.modFw_net (s : State) (f : FwSt → FwSt) : (s.modFw f).net = s.net := rfl
@[simp] theorem State.modFw_netSeq (s : State) (f : FwSt → FwSt) : (s.modFw f).netSeq = s.netSeq := rfl
@[simp] theorem State.modFw_links (s : State) (f : FwSt → FwSt) : (s.modFw f).links = s.links := rfl
@[simp] theorem State.modFw_vcb (s : State) (f : FwSt → FwSt) : (s.modFw f).vcb = s.vcb := rfl
@[simp] theorem State.modFw_events (s : State) (f : FwSt → FwSt) : (s.modFw f).events = s.events := rfl
@[simp] theorem State.modFw_free (s : State) (f : FwSt → FwSt) : (s.modFw f).free = s.free := rfl
@[simp] theorem State.modFw_reg (s : State) (f : FwSt → FwSt) (cb : Nat) : (s.modFw f).reg cb = s.reg cb := rfl
@[simp] theorem State.modFw_tile (s : State) (f : FwSt → FwSt) (u : Tile) : (s.modFw f).tile u = s.tile u := rfl
@[simp] theorem State.modFw_byte (s : State) (f : FwSt → FwSt) (i : Nat) : (s.modFw f).byte i = s.byte i := rfl

@[simp] theorem State.modJtag_pending (s : State) (f : JtagSt → JtagSt) : (s.modJtag f).pending = s.pending := rfl
@[simp] theorem State.modJtag_regs (s : State) (f : JtagSt → JtagSt) : (s.modJtag f).regs = s.regs := rfl
@[simp] theorem State.modJtag_live (s : State) (f : JtagSt → JtagSt) : (s.modJtag f).live = s.live := rfl
@[simp] theorem State.modJtag_mem (s : State) (f : JtagSt → JtagSt) : (s.modJtag f).mem = s.mem := rfl
@[simp] theorem State.modJtag_ecc (s : State) (f : JtagSt → JtagSt) : (s.modJtag f).ecc = s.ecc := rfl
@[simp] theorem State.modJtag_resBad (s : State) (f : JtagSt → JtagSt) : (s.modJtag f).resBad = s.resBad := rfl
@[simp] theorem State.modJtag_times (s : State) (f : JtagSt → JtagSt) : (s.modJtag f).times = s.times := rfl
@[simp] theorem State.modJtag_tiles (s : State) (f : JtagSt → JtagSt) : (s.modJtag f).tiles = s.tiles := rfl
@[simp] theorem State.modJtag_fields (s : State) (f : JtagSt → JtagSt) : (s.modJtag f).fields = s.fields := rfl
@[simp] theorem State.modJtag_epochs (s : State) (f : JtagSt → JtagSt) : (s.modJtag f).epochs = s.epochs := rfl
@[simp] theorem State.modJtag_agent (s : State) (f : JtagSt → JtagSt) : (s.modJtag f).agent = s.agent := rfl
@[simp] theorem State.modJtag_arbs (s : State) (f : JtagSt → JtagSt) : (s.modJtag f).arbs = s.arbs := rfl
@[simp] theorem State.modJtag_engines (s : State) (f : JtagSt → JtagSt) : (s.modJtag f).engines = s.engines := rfl
@[simp] theorem State.modJtag_hports (s : State) (f : JtagSt → JtagSt) : (s.modJtag f).hports = s.hports := rfl
@[simp] theorem State.modJtag_sync (s : State) (f : JtagSt → JtagSt) : (s.modJtag f).sync = s.sync := rfl
@[simp] theorem State.modJtag_net (s : State) (f : JtagSt → JtagSt) : (s.modJtag f).net = s.net := rfl
@[simp] theorem State.modJtag_netSeq (s : State) (f : JtagSt → JtagSt) : (s.modJtag f).netSeq = s.netSeq := rfl
@[simp] theorem State.modJtag_links (s : State) (f : JtagSt → JtagSt) : (s.modJtag f).links = s.links := rfl
@[simp] theorem State.modJtag_vcb (s : State) (f : JtagSt → JtagSt) : (s.modJtag f).vcb = s.vcb := rfl
@[simp] theorem State.modJtag_events (s : State) (f : JtagSt → JtagSt) : (s.modJtag f).events = s.events := rfl
@[simp] theorem State.modJtag_free (s : State) (f : JtagSt → JtagSt) : (s.modJtag f).free = s.free := rfl
@[simp] theorem State.modJtag_reg (s : State) (f : JtagSt → JtagSt) (cb : Nat) : (s.modJtag f).reg cb = s.reg cb := rfl
@[simp] theorem State.modJtag_tile (s : State) (f : JtagSt → JtagSt) (u : Tile) : (s.modJtag f).tile u = s.tile u := rfl
@[simp] theorem State.modJtag_byte (s : State) (f : JtagSt → JtagSt) (i : Nat) : (s.modJtag f).byte i = s.byte i := rfl

@[simp] theorem State.modQueue_pending (s : State) (q : Nat) (f : QueueSt → QueueSt) : (s.modQueue q f).pending = s.pending := rfl
@[simp] theorem State.modQueue_regs (s : State) (q : Nat) (f : QueueSt → QueueSt) : (s.modQueue q f).regs = s.regs := rfl
@[simp] theorem State.modQueue_live (s : State) (q : Nat) (f : QueueSt → QueueSt) : (s.modQueue q f).live = s.live := rfl
@[simp] theorem State.modQueue_mem (s : State) (q : Nat) (f : QueueSt → QueueSt) : (s.modQueue q f).mem = s.mem := rfl
@[simp] theorem State.modQueue_ecc (s : State) (q : Nat) (f : QueueSt → QueueSt) : (s.modQueue q f).ecc = s.ecc := rfl
@[simp] theorem State.modQueue_resBad (s : State) (q : Nat) (f : QueueSt → QueueSt) : (s.modQueue q f).resBad = s.resBad := rfl
@[simp] theorem State.modQueue_times (s : State) (q : Nat) (f : QueueSt → QueueSt) : (s.modQueue q f).times = s.times := rfl
@[simp] theorem State.modQueue_tiles (s : State) (q : Nat) (f : QueueSt → QueueSt) : (s.modQueue q f).tiles = s.tiles := rfl
@[simp] theorem State.modQueue_fields (s : State) (q : Nat) (f : QueueSt → QueueSt) : (s.modQueue q f).fields = s.fields := rfl
@[simp] theorem State.modQueue_epochs (s : State) (q : Nat) (f : QueueSt → QueueSt) : (s.modQueue q f).epochs = s.epochs := rfl
@[simp] theorem State.modQueue_agent (s : State) (q : Nat) (f : QueueSt → QueueSt) : (s.modQueue q f).agent = s.agent := rfl
@[simp] theorem State.modQueue_arbs (s : State) (q : Nat) (f : QueueSt → QueueSt) : (s.modQueue q f).arbs = s.arbs := rfl
@[simp] theorem State.modQueue_engines (s : State) (q : Nat) (f : QueueSt → QueueSt) : (s.modQueue q f).engines = s.engines := rfl
@[simp] theorem State.modQueue_hports (s : State) (q : Nat) (f : QueueSt → QueueSt) : (s.modQueue q f).hports = s.hports := rfl
@[simp] theorem State.modQueue_sync (s : State) (q : Nat) (f : QueueSt → QueueSt) : (s.modQueue q f).sync = s.sync := rfl
@[simp] theorem State.modQueue_net (s : State) (q : Nat) (f : QueueSt → QueueSt) : (s.modQueue q f).net = s.net := rfl
@[simp] theorem State.modQueue_netSeq (s : State) (q : Nat) (f : QueueSt → QueueSt) : (s.modQueue q f).netSeq = s.netSeq := rfl
@[simp] theorem State.modQueue_links (s : State) (q : Nat) (f : QueueSt → QueueSt) : (s.modQueue q f).links = s.links := rfl
@[simp] theorem State.modQueue_vcb (s : State) (q : Nat) (f : QueueSt → QueueSt) : (s.modQueue q f).vcb = s.vcb := rfl
@[simp] theorem State.modQueue_events (s : State) (q : Nat) (f : QueueSt → QueueSt) : (s.modQueue q f).events = s.events := rfl
@[simp] theorem State.modQueue_free (s : State) (q : Nat) (f : QueueSt → QueueSt) : (s.modQueue q f).free = s.free := rfl
@[simp] theorem State.modQueue_reg (s : State) (q : Nat) (f : QueueSt → QueueSt) (cb : Nat) : (s.modQueue q f).reg cb = s.reg cb := rfl
@[simp] theorem State.modQueue_tile (s : State) (q : Nat) (f : QueueSt → QueueSt) (u : Tile) : (s.modQueue q f).tile u = s.tile u := rfl
@[simp] theorem State.modQueue_byte (s : State) (q : Nat) (f : QueueSt → QueueSt) (i : Nat) : (s.modQueue q f).byte i = s.byte i := rfl

@[simp] theorem State.modVat_pending (s : State) (f : FieldNo) (g : Vat → Vat) : (s.modVat f g).pending = s.pending := rfl
@[simp] theorem State.modVat_regs (s : State) (f : FieldNo) (g : Vat → Vat) : (s.modVat f g).regs = s.regs := rfl
@[simp] theorem State.modVat_live (s : State) (f : FieldNo) (g : Vat → Vat) : (s.modVat f g).live = s.live := rfl
@[simp] theorem State.modVat_mem (s : State) (f : FieldNo) (g : Vat → Vat) : (s.modVat f g).mem = s.mem := rfl
@[simp] theorem State.modVat_ecc (s : State) (f : FieldNo) (g : Vat → Vat) : (s.modVat f g).ecc = s.ecc := rfl
@[simp] theorem State.modVat_resBad (s : State) (f : FieldNo) (g : Vat → Vat) : (s.modVat f g).resBad = s.resBad := rfl
@[simp] theorem State.modVat_times (s : State) (f : FieldNo) (g : Vat → Vat) : (s.modVat f g).times = s.times := rfl
@[simp] theorem State.modVat_tiles (s : State) (f : FieldNo) (g : Vat → Vat) : (s.modVat f g).tiles = s.tiles := rfl
@[simp] theorem State.modVat_epochs (s : State) (f : FieldNo) (g : Vat → Vat) : (s.modVat f g).epochs = s.epochs := rfl
@[simp] theorem State.modVat_agent (s : State) (f : FieldNo) (g : Vat → Vat) : (s.modVat f g).agent = s.agent := rfl
@[simp] theorem State.modVat_rind (s : State) (f : FieldNo) (g : Vat → Vat) : (s.modVat f g).rind = s.rind := rfl
@[simp] theorem State.modVat_arbs (s : State) (f : FieldNo) (g : Vat → Vat) : (s.modVat f g).arbs = s.arbs := rfl
@[simp] theorem State.modVat_engines (s : State) (f : FieldNo) (g : Vat → Vat) : (s.modVat f g).engines = s.engines := rfl
@[simp] theorem State.modVat_hports (s : State) (f : FieldNo) (g : Vat → Vat) : (s.modVat f g).hports = s.hports := rfl
@[simp] theorem State.modVat_sync (s : State) (f : FieldNo) (g : Vat → Vat) : (s.modVat f g).sync = s.sync := rfl
@[simp] theorem State.modVat_net (s : State) (f : FieldNo) (g : Vat → Vat) : (s.modVat f g).net = s.net := rfl
@[simp] theorem State.modVat_netSeq (s : State) (f : FieldNo) (g : Vat → Vat) : (s.modVat f g).netSeq = s.netSeq := rfl
@[simp] theorem State.modVat_links (s : State) (f : FieldNo) (g : Vat → Vat) : (s.modVat f g).links = s.links := rfl
@[simp] theorem State.modVat_vcb (s : State) (f : FieldNo) (g : Vat → Vat) : (s.modVat f g).vcb = s.vcb := rfl
@[simp] theorem State.modVat_events (s : State) (f : FieldNo) (g : Vat → Vat) : (s.modVat f g).events = s.events := rfl
@[simp] theorem State.modVat_free (s : State) (f : FieldNo) (g : Vat → Vat) : (s.modVat f g).free = s.free := rfl
@[simp] theorem State.modVat_reg (s : State) (f : FieldNo) (g : Vat → Vat) (cb : Nat) : (s.modVat f g).reg cb = s.reg cb := rfl
@[simp] theorem State.modVat_tile (s : State) (f : FieldNo) (g : Vat → Vat) (u : Tile) : (s.modVat f g).tile u = s.tile u := rfl
@[simp] theorem State.modVat_byte (s : State) (f : FieldNo) (g : Vat → Vat) (i : Nat) : (s.modVat f g).byte i = s.byte i := rfl

@[simp] theorem State.modCellar_pending (s : State) (f : FieldNo) (g : Cellar → Cellar) : (s.modCellar f g).pending = s.pending := rfl
@[simp] theorem State.modCellar_regs (s : State) (f : FieldNo) (g : Cellar → Cellar) : (s.modCellar f g).regs = s.regs := rfl
@[simp] theorem State.modCellar_live (s : State) (f : FieldNo) (g : Cellar → Cellar) : (s.modCellar f g).live = s.live := rfl
@[simp] theorem State.modCellar_mem (s : State) (f : FieldNo) (g : Cellar → Cellar) : (s.modCellar f g).mem = s.mem := rfl
@[simp] theorem State.modCellar_ecc (s : State) (f : FieldNo) (g : Cellar → Cellar) : (s.modCellar f g).ecc = s.ecc := rfl
@[simp] theorem State.modCellar_resBad (s : State) (f : FieldNo) (g : Cellar → Cellar) : (s.modCellar f g).resBad = s.resBad := rfl
@[simp] theorem State.modCellar_times (s : State) (f : FieldNo) (g : Cellar → Cellar) : (s.modCellar f g).times = s.times := rfl
@[simp] theorem State.modCellar_tiles (s : State) (f : FieldNo) (g : Cellar → Cellar) : (s.modCellar f g).tiles = s.tiles := rfl
@[simp] theorem State.modCellar_epochs (s : State) (f : FieldNo) (g : Cellar → Cellar) : (s.modCellar f g).epochs = s.epochs := rfl
@[simp] theorem State.modCellar_agent (s : State) (f : FieldNo) (g : Cellar → Cellar) : (s.modCellar f g).agent = s.agent := rfl
@[simp] theorem State.modCellar_rind (s : State) (f : FieldNo) (g : Cellar → Cellar) : (s.modCellar f g).rind = s.rind := rfl
@[simp] theorem State.modCellar_arbs (s : State) (f : FieldNo) (g : Cellar → Cellar) : (s.modCellar f g).arbs = s.arbs := rfl
@[simp] theorem State.modCellar_engines (s : State) (f : FieldNo) (g : Cellar → Cellar) : (s.modCellar f g).engines = s.engines := rfl
@[simp] theorem State.modCellar_hports (s : State) (f : FieldNo) (g : Cellar → Cellar) : (s.modCellar f g).hports = s.hports := rfl
@[simp] theorem State.modCellar_sync (s : State) (f : FieldNo) (g : Cellar → Cellar) : (s.modCellar f g).sync = s.sync := rfl
@[simp] theorem State.modCellar_net (s : State) (f : FieldNo) (g : Cellar → Cellar) : (s.modCellar f g).net = s.net := rfl
@[simp] theorem State.modCellar_netSeq (s : State) (f : FieldNo) (g : Cellar → Cellar) : (s.modCellar f g).netSeq = s.netSeq := rfl
@[simp] theorem State.modCellar_links (s : State) (f : FieldNo) (g : Cellar → Cellar) : (s.modCellar f g).links = s.links := rfl
@[simp] theorem State.modCellar_vcb (s : State) (f : FieldNo) (g : Cellar → Cellar) : (s.modCellar f g).vcb = s.vcb := rfl
@[simp] theorem State.modCellar_events (s : State) (f : FieldNo) (g : Cellar → Cellar) : (s.modCellar f g).events = s.events := rfl
@[simp] theorem State.modCellar_free (s : State) (f : FieldNo) (g : Cellar → Cellar) : (s.modCellar f g).free = s.free := rfl
@[simp] theorem State.modCellar_reg (s : State) (f : FieldNo) (g : Cellar → Cellar) (cb : Nat) : (s.modCellar f g).reg cb = s.reg cb := rfl
@[simp] theorem State.modCellar_tile (s : State) (f : FieldNo) (g : Cellar → Cellar) (u : Tile) : (s.modCellar f g).tile u = s.tile u := rfl
@[simp] theorem State.modCellar_byte (s : State) (f : FieldNo) (g : Cellar → Cellar) (i : Nat) : (s.modCellar f g).byte i = s.byte i := rfl

@[simp] theorem State.modFetch_pending (s : State) (f : FieldNo) (g : Fetch → Fetch) : (s.modFetch f g).pending = s.pending := rfl
@[simp] theorem State.modFetch_regs (s : State) (f : FieldNo) (g : Fetch → Fetch) : (s.modFetch f g).regs = s.regs := rfl
@[simp] theorem State.modFetch_live (s : State) (f : FieldNo) (g : Fetch → Fetch) : (s.modFetch f g).live = s.live := rfl
@[simp] theorem State.modFetch_mem (s : State) (f : FieldNo) (g : Fetch → Fetch) : (s.modFetch f g).mem = s.mem := rfl
@[simp] theorem State.modFetch_ecc (s : State) (f : FieldNo) (g : Fetch → Fetch) : (s.modFetch f g).ecc = s.ecc := rfl
@[simp] theorem State.modFetch_resBad (s : State) (f : FieldNo) (g : Fetch → Fetch) : (s.modFetch f g).resBad = s.resBad := rfl
@[simp] theorem State.modFetch_times (s : State) (f : FieldNo) (g : Fetch → Fetch) : (s.modFetch f g).times = s.times := rfl
@[simp] theorem State.modFetch_tiles (s : State) (f : FieldNo) (g : Fetch → Fetch) : (s.modFetch f g).tiles = s.tiles := rfl
@[simp] theorem State.modFetch_epochs (s : State) (f : FieldNo) (g : Fetch → Fetch) : (s.modFetch f g).epochs = s.epochs := rfl
@[simp] theorem State.modFetch_agent (s : State) (f : FieldNo) (g : Fetch → Fetch) : (s.modFetch f g).agent = s.agent := rfl
@[simp] theorem State.modFetch_rind (s : State) (f : FieldNo) (g : Fetch → Fetch) : (s.modFetch f g).rind = s.rind := rfl
@[simp] theorem State.modFetch_arbs (s : State) (f : FieldNo) (g : Fetch → Fetch) : (s.modFetch f g).arbs = s.arbs := rfl
@[simp] theorem State.modFetch_engines (s : State) (f : FieldNo) (g : Fetch → Fetch) : (s.modFetch f g).engines = s.engines := rfl
@[simp] theorem State.modFetch_hports (s : State) (f : FieldNo) (g : Fetch → Fetch) : (s.modFetch f g).hports = s.hports := rfl
@[simp] theorem State.modFetch_sync (s : State) (f : FieldNo) (g : Fetch → Fetch) : (s.modFetch f g).sync = s.sync := rfl
@[simp] theorem State.modFetch_net (s : State) (f : FieldNo) (g : Fetch → Fetch) : (s.modFetch f g).net = s.net := rfl
@[simp] theorem State.modFetch_netSeq (s : State) (f : FieldNo) (g : Fetch → Fetch) : (s.modFetch f g).netSeq = s.netSeq := rfl
@[simp] theorem State.modFetch_links (s : State) (f : FieldNo) (g : Fetch → Fetch) : (s.modFetch f g).links = s.links := rfl
@[simp] theorem State.modFetch_vcb (s : State) (f : FieldNo) (g : Fetch → Fetch) : (s.modFetch f g).vcb = s.vcb := rfl
@[simp] theorem State.modFetch_events (s : State) (f : FieldNo) (g : Fetch → Fetch) : (s.modFetch f g).events = s.events := rfl
@[simp] theorem State.modFetch_free (s : State) (f : FieldNo) (g : Fetch → Fetch) : (s.modFetch f g).free = s.free := rfl
@[simp] theorem State.modFetch_reg (s : State) (f : FieldNo) (g : Fetch → Fetch) (cb : Nat) : (s.modFetch f g).reg cb = s.reg cb := rfl
@[simp] theorem State.modFetch_tile (s : State) (f : FieldNo) (g : Fetch → Fetch) (u : Tile) : (s.modFetch f g).tile u = s.tile u := rfl
@[simp] theorem State.modFetch_byte (s : State) (f : FieldNo) (g : Fetch → Fetch) (i : Nat) : (s.modFetch f g).byte i = s.byte i := rfl

@[simp] theorem State.modSpx_pending (s : State) (t : Tile) (f : SpxSt → SpxSt) : (s.modSpx t f).pending = s.pending := rfl
@[simp] theorem State.modSpx_regs (s : State) (t : Tile) (f : SpxSt → SpxSt) : (s.modSpx t f).regs = s.regs := rfl
@[simp] theorem State.modSpx_live (s : State) (t : Tile) (f : SpxSt → SpxSt) : (s.modSpx t f).live = s.live := rfl
@[simp] theorem State.modSpx_mem (s : State) (t : Tile) (f : SpxSt → SpxSt) : (s.modSpx t f).mem = s.mem := rfl
@[simp] theorem State.modSpx_ecc (s : State) (t : Tile) (f : SpxSt → SpxSt) : (s.modSpx t f).ecc = s.ecc := rfl
@[simp] theorem State.modSpx_resBad (s : State) (t : Tile) (f : SpxSt → SpxSt) : (s.modSpx t f).resBad = s.resBad := rfl
@[simp] theorem State.modSpx_times (s : State) (t : Tile) (f : SpxSt → SpxSt) : (s.modSpx t f).times = s.times := rfl
@[simp] theorem State.modSpx_fields (s : State) (t : Tile) (f : SpxSt → SpxSt) : (s.modSpx t f).fields = s.fields := rfl
@[simp] theorem State.modSpx_epochs (s : State) (t : Tile) (f : SpxSt → SpxSt) : (s.modSpx t f).epochs = s.epochs := rfl
@[simp] theorem State.modSpx_agent (s : State) (t : Tile) (f : SpxSt → SpxSt) : (s.modSpx t f).agent = s.agent := rfl
@[simp] theorem State.modSpx_rind (s : State) (t : Tile) (f : SpxSt → SpxSt) : (s.modSpx t f).rind = s.rind := rfl
@[simp] theorem State.modSpx_arbs (s : State) (t : Tile) (f : SpxSt → SpxSt) : (s.modSpx t f).arbs = s.arbs := rfl
@[simp] theorem State.modSpx_engines (s : State) (t : Tile) (f : SpxSt → SpxSt) : (s.modSpx t f).engines = s.engines := rfl
@[simp] theorem State.modSpx_hports (s : State) (t : Tile) (f : SpxSt → SpxSt) : (s.modSpx t f).hports = s.hports := rfl
@[simp] theorem State.modSpx_sync (s : State) (t : Tile) (f : SpxSt → SpxSt) : (s.modSpx t f).sync = s.sync := rfl
@[simp] theorem State.modSpx_net (s : State) (t : Tile) (f : SpxSt → SpxSt) : (s.modSpx t f).net = s.net := rfl
@[simp] theorem State.modSpx_netSeq (s : State) (t : Tile) (f : SpxSt → SpxSt) : (s.modSpx t f).netSeq = s.netSeq := rfl
@[simp] theorem State.modSpx_links (s : State) (t : Tile) (f : SpxSt → SpxSt) : (s.modSpx t f).links = s.links := rfl
@[simp] theorem State.modSpx_vcb (s : State) (t : Tile) (f : SpxSt → SpxSt) : (s.modSpx t f).vcb = s.vcb := rfl
@[simp] theorem State.modSpx_events (s : State) (t : Tile) (f : SpxSt → SpxSt) : (s.modSpx t f).events = s.events := rfl
@[simp] theorem State.modSpx_free (s : State) (t : Tile) (f : SpxSt → SpxSt) : (s.modSpx t f).free = s.free := rfl
@[simp] theorem State.modSpx_reg (s : State) (t : Tile) (f : SpxSt → SpxSt) (cb : Nat) : (s.modSpx t f).reg cb = s.reg cb := rfl
@[simp] theorem State.modSpx_fieldSt (s : State) (t : Tile) (f : SpxSt → SpxSt) (k : Nat) : (s.modSpx t f).fieldSt k = s.fieldSt k := rfl
@[simp] theorem State.modSpx_byte (s : State) (t : Tile) (f : SpxSt → SpxSt) (i : Nat) : (s.modSpx t f).byte i = s.byte i := rfl

@[simp] theorem State.modSink_pending (s : State) (t : Tile) (k : Fin 16) (f : SinkSt → SinkSt) : (s.modSink t k f).pending = s.pending := rfl
@[simp] theorem State.modSink_regs (s : State) (t : Tile) (k : Fin 16) (f : SinkSt → SinkSt) : (s.modSink t k f).regs = s.regs := rfl
@[simp] theorem State.modSink_live (s : State) (t : Tile) (k : Fin 16) (f : SinkSt → SinkSt) : (s.modSink t k f).live = s.live := rfl
@[simp] theorem State.modSink_mem (s : State) (t : Tile) (k : Fin 16) (f : SinkSt → SinkSt) : (s.modSink t k f).mem = s.mem := rfl
@[simp] theorem State.modSink_ecc (s : State) (t : Tile) (k : Fin 16) (f : SinkSt → SinkSt) : (s.modSink t k f).ecc = s.ecc := rfl
@[simp] theorem State.modSink_resBad (s : State) (t : Tile) (k : Fin 16) (f : SinkSt → SinkSt) : (s.modSink t k f).resBad = s.resBad := rfl
@[simp] theorem State.modSink_times (s : State) (t : Tile) (k : Fin 16) (f : SinkSt → SinkSt) : (s.modSink t k f).times = s.times := rfl
@[simp] theorem State.modSink_fields (s : State) (t : Tile) (k : Fin 16) (f : SinkSt → SinkSt) : (s.modSink t k f).fields = s.fields := rfl
@[simp] theorem State.modSink_epochs (s : State) (t : Tile) (k : Fin 16) (f : SinkSt → SinkSt) : (s.modSink t k f).epochs = s.epochs := rfl
@[simp] theorem State.modSink_agent (s : State) (t : Tile) (k : Fin 16) (f : SinkSt → SinkSt) : (s.modSink t k f).agent = s.agent := rfl
@[simp] theorem State.modSink_rind (s : State) (t : Tile) (k : Fin 16) (f : SinkSt → SinkSt) : (s.modSink t k f).rind = s.rind := rfl
@[simp] theorem State.modSink_arbs (s : State) (t : Tile) (k : Fin 16) (f : SinkSt → SinkSt) : (s.modSink t k f).arbs = s.arbs := rfl
@[simp] theorem State.modSink_engines (s : State) (t : Tile) (k : Fin 16) (f : SinkSt → SinkSt) : (s.modSink t k f).engines = s.engines := rfl
@[simp] theorem State.modSink_hports (s : State) (t : Tile) (k : Fin 16) (f : SinkSt → SinkSt) : (s.modSink t k f).hports = s.hports := rfl
@[simp] theorem State.modSink_sync (s : State) (t : Tile) (k : Fin 16) (f : SinkSt → SinkSt) : (s.modSink t k f).sync = s.sync := rfl
@[simp] theorem State.modSink_net (s : State) (t : Tile) (k : Fin 16) (f : SinkSt → SinkSt) : (s.modSink t k f).net = s.net := rfl
@[simp] theorem State.modSink_netSeq (s : State) (t : Tile) (k : Fin 16) (f : SinkSt → SinkSt) : (s.modSink t k f).netSeq = s.netSeq := rfl
@[simp] theorem State.modSink_links (s : State) (t : Tile) (k : Fin 16) (f : SinkSt → SinkSt) : (s.modSink t k f).links = s.links := rfl
@[simp] theorem State.modSink_vcb (s : State) (t : Tile) (k : Fin 16) (f : SinkSt → SinkSt) : (s.modSink t k f).vcb = s.vcb := rfl
@[simp] theorem State.modSink_events (s : State) (t : Tile) (k : Fin 16) (f : SinkSt → SinkSt) : (s.modSink t k f).events = s.events := rfl
@[simp] theorem State.modSink_free (s : State) (t : Tile) (k : Fin 16) (f : SinkSt → SinkSt) : (s.modSink t k f).free = s.free := rfl
@[simp] theorem State.modSink_reg (s : State) (t : Tile) (k : Fin 16) (f : SinkSt → SinkSt) (cb : Nat) : (s.modSink t k f).reg cb = s.reg cb := rfl
@[simp] theorem State.modSink_fieldSt (s : State) (t : Tile) (k : Fin 16) (f : SinkSt → SinkSt) (j : Nat) : (s.modSink t k f).fieldSt j = s.fieldSt j := rfl
@[simp] theorem State.modSink_byte (s : State) (t : Tile) (k : Fin 16) (f : SinkSt → SinkSt) (i : Nat) : (s.modSink t k f).byte i = s.byte i := rfl

@[simp] theorem State.setSrc_pending (s : State) (t : Tile) (k : Fin 16) (y : SrcSt) : (s.setSrc t k y).pending = s.pending := rfl
@[simp] theorem State.setSrc_regs (s : State) (t : Tile) (k : Fin 16) (y : SrcSt) : (s.setSrc t k y).regs = s.regs := rfl
@[simp] theorem State.setSrc_live (s : State) (t : Tile) (k : Fin 16) (y : SrcSt) : (s.setSrc t k y).live = s.live := rfl
@[simp] theorem State.setSrc_mem (s : State) (t : Tile) (k : Fin 16) (y : SrcSt) : (s.setSrc t k y).mem = s.mem := rfl
@[simp] theorem State.setSrc_ecc (s : State) (t : Tile) (k : Fin 16) (y : SrcSt) : (s.setSrc t k y).ecc = s.ecc := rfl
@[simp] theorem State.setSrc_resBad (s : State) (t : Tile) (k : Fin 16) (y : SrcSt) : (s.setSrc t k y).resBad = s.resBad := rfl
@[simp] theorem State.setSrc_times (s : State) (t : Tile) (k : Fin 16) (y : SrcSt) : (s.setSrc t k y).times = s.times := rfl
@[simp] theorem State.setSrc_fields (s : State) (t : Tile) (k : Fin 16) (y : SrcSt) : (s.setSrc t k y).fields = s.fields := rfl
@[simp] theorem State.setSrc_epochs (s : State) (t : Tile) (k : Fin 16) (y : SrcSt) : (s.setSrc t k y).epochs = s.epochs := rfl
@[simp] theorem State.setSrc_agent (s : State) (t : Tile) (k : Fin 16) (y : SrcSt) : (s.setSrc t k y).agent = s.agent := rfl
@[simp] theorem State.setSrc_rind (s : State) (t : Tile) (k : Fin 16) (y : SrcSt) : (s.setSrc t k y).rind = s.rind := rfl
@[simp] theorem State.setSrc_arbs (s : State) (t : Tile) (k : Fin 16) (y : SrcSt) : (s.setSrc t k y).arbs = s.arbs := rfl
@[simp] theorem State.setSrc_engines (s : State) (t : Tile) (k : Fin 16) (y : SrcSt) : (s.setSrc t k y).engines = s.engines := rfl
@[simp] theorem State.setSrc_hports (s : State) (t : Tile) (k : Fin 16) (y : SrcSt) : (s.setSrc t k y).hports = s.hports := rfl
@[simp] theorem State.setSrc_sync (s : State) (t : Tile) (k : Fin 16) (y : SrcSt) : (s.setSrc t k y).sync = s.sync := rfl
@[simp] theorem State.setSrc_net (s : State) (t : Tile) (k : Fin 16) (y : SrcSt) : (s.setSrc t k y).net = s.net := rfl
@[simp] theorem State.setSrc_netSeq (s : State) (t : Tile) (k : Fin 16) (y : SrcSt) : (s.setSrc t k y).netSeq = s.netSeq := rfl
@[simp] theorem State.setSrc_links (s : State) (t : Tile) (k : Fin 16) (y : SrcSt) : (s.setSrc t k y).links = s.links := rfl
@[simp] theorem State.setSrc_vcb (s : State) (t : Tile) (k : Fin 16) (y : SrcSt) : (s.setSrc t k y).vcb = s.vcb := rfl
@[simp] theorem State.setSrc_events (s : State) (t : Tile) (k : Fin 16) (y : SrcSt) : (s.setSrc t k y).events = s.events := rfl
@[simp] theorem State.setSrc_free (s : State) (t : Tile) (k : Fin 16) (y : SrcSt) : (s.setSrc t k y).free = s.free := rfl
@[simp] theorem State.setSrc_reg (s : State) (t : Tile) (k : Fin 16) (y : SrcSt) (cb : Nat) : (s.setSrc t k y).reg cb = s.reg cb := rfl
@[simp] theorem State.setSrc_fieldSt (s : State) (t : Tile) (k : Fin 16) (y : SrcSt) (j : Nat) : (s.setSrc t k y).fieldSt j = s.fieldSt j := rfl
@[simp] theorem State.setSrc_byte (s : State) (t : Tile) (k : Fin 16) (y : SrcSt) (i : Nat) : (s.setSrc t k y).byte i = s.byte i := rfl

@[simp] theorem State.count_pending (s : State) (ca n : Nat) : (s.count ca n).pending = s.pending := by unfold State.count; dsimp only; split <;> rfl
@[simp] theorem State.count_live (s : State) (ca n : Nat) : (s.count ca n).live = s.live := by unfold State.count; dsimp only; split <;> rfl
@[simp] theorem State.count_mem (s : State) (ca n : Nat) : (s.count ca n).mem = s.mem := by unfold State.count; dsimp only; split <;> rfl
@[simp] theorem State.count_ecc (s : State) (ca n : Nat) : (s.count ca n).ecc = s.ecc := by unfold State.count; dsimp only; split <;> rfl
@[simp] theorem State.count_resBad (s : State) (ca n : Nat) : (s.count ca n).resBad = s.resBad := by unfold State.count; dsimp only; split <;> rfl
@[simp] theorem State.count_times (s : State) (ca n : Nat) : (s.count ca n).times = s.times := by unfold State.count; dsimp only; split <;> rfl
@[simp] theorem State.count_tiles (s : State) (ca n : Nat) : (s.count ca n).tiles = s.tiles := by unfold State.count; dsimp only; split <;> rfl
@[simp] theorem State.count_fields (s : State) (ca n : Nat) : (s.count ca n).fields = s.fields := by unfold State.count; dsimp only; split <;> rfl
@[simp] theorem State.count_epochs (s : State) (ca n : Nat) : (s.count ca n).epochs = s.epochs := by unfold State.count; dsimp only; split <;> rfl
@[simp] theorem State.count_agent (s : State) (ca n : Nat) : (s.count ca n).agent = s.agent := by unfold State.count; dsimp only; split <;> rfl
@[simp] theorem State.count_rind (s : State) (ca n : Nat) : (s.count ca n).rind = s.rind := by unfold State.count; dsimp only; split <;> rfl
@[simp] theorem State.count_arbs (s : State) (ca n : Nat) : (s.count ca n).arbs = s.arbs := by unfold State.count; dsimp only; split <;> rfl
@[simp] theorem State.count_engines (s : State) (ca n : Nat) : (s.count ca n).engines = s.engines := by unfold State.count; dsimp only; split <;> rfl
@[simp] theorem State.count_hports (s : State) (ca n : Nat) : (s.count ca n).hports = s.hports := by unfold State.count; dsimp only; split <;> rfl
@[simp] theorem State.count_sync (s : State) (ca n : Nat) : (s.count ca n).sync = s.sync := by unfold State.count; dsimp only; split <;> rfl
@[simp] theorem State.count_net (s : State) (ca n : Nat) : (s.count ca n).net = s.net := by unfold State.count; dsimp only; split <;> rfl
@[simp] theorem State.count_netSeq (s : State) (ca n : Nat) : (s.count ca n).netSeq = s.netSeq := by unfold State.count; dsimp only; split <;> rfl
@[simp] theorem State.count_links (s : State) (ca n : Nat) : (s.count ca n).links = s.links := by unfold State.count; dsimp only; split <;> rfl
@[simp] theorem State.count_vcb (s : State) (ca n : Nat) : (s.count ca n).vcb = s.vcb := by unfold State.count; dsimp only; split <;> rfl
@[simp] theorem State.count_events (s : State) (ca n : Nat) : (s.count ca n).events = s.events := by unfold State.count; dsimp only; split <;> rfl
@[simp] theorem State.count_free (s : State) (ca n : Nat) : (s.count ca n).free = s.free := by unfold State.count; dsimp only; split <;> rfl
@[simp] theorem State.count_tile (s : State) (ca n : Nat) (u : Tile) : (s.count ca n).tile u = s.tile u := by unfold State.count; dsimp only; split <;> rfl
@[simp] theorem State.count_ctx (s : State) (ca n : Nat) (u : Tile) (d : CtxNo) : (s.count ca n).ctx u d = s.ctx u d := by unfold State.count; dsimp only; split <;> rfl
@[simp] theorem State.count_fieldSt (s : State) (ca n : Nat) (k : Nat) : (s.count ca n).fieldSt k = s.fieldSt k := by unfold State.count; dsimp only; split <;> rfl
@[simp] theorem State.count_byte (s : State) (ca n : Nat) (i : Nat) : (s.count ca n).byte i = s.byte i := by unfold State.count; dsimp only; split <;> rfl

@[simp] theorem State.bumpSat_pending (s : State) (ca hi lo n : Nat) : (s.bumpSat ca hi lo n).pending = s.pending := rfl
@[simp] theorem State.bumpSat_live (s : State) (ca hi lo n : Nat) : (s.bumpSat ca hi lo n).live = s.live := rfl
@[simp] theorem State.bumpSat_mem (s : State) (ca hi lo n : Nat) : (s.bumpSat ca hi lo n).mem = s.mem := rfl
@[simp] theorem State.bumpSat_ecc (s : State) (ca hi lo n : Nat) : (s.bumpSat ca hi lo n).ecc = s.ecc := rfl
@[simp] theorem State.bumpSat_resBad (s : State) (ca hi lo n : Nat) : (s.bumpSat ca hi lo n).resBad = s.resBad := rfl
@[simp] theorem State.bumpSat_times (s : State) (ca hi lo n : Nat) : (s.bumpSat ca hi lo n).times = s.times := rfl
@[simp] theorem State.bumpSat_tiles (s : State) (ca hi lo n : Nat) : (s.bumpSat ca hi lo n).tiles = s.tiles := rfl
@[simp] theorem State.bumpSat_fields (s : State) (ca hi lo n : Nat) : (s.bumpSat ca hi lo n).fields = s.fields := rfl
@[simp] theorem State.bumpSat_epochs (s : State) (ca hi lo n : Nat) : (s.bumpSat ca hi lo n).epochs = s.epochs := rfl
@[simp] theorem State.bumpSat_agent (s : State) (ca hi lo n : Nat) : (s.bumpSat ca hi lo n).agent = s.agent := rfl
@[simp] theorem State.bumpSat_rind (s : State) (ca hi lo n : Nat) : (s.bumpSat ca hi lo n).rind = s.rind := rfl
@[simp] theorem State.bumpSat_arbs (s : State) (ca hi lo n : Nat) : (s.bumpSat ca hi lo n).arbs = s.arbs := rfl
@[simp] theorem State.bumpSat_engines (s : State) (ca hi lo n : Nat) : (s.bumpSat ca hi lo n).engines = s.engines := rfl
@[simp] theorem State.bumpSat_hports (s : State) (ca hi lo n : Nat) : (s.bumpSat ca hi lo n).hports = s.hports := rfl
@[simp] theorem State.bumpSat_sync (s : State) (ca hi lo n : Nat) : (s.bumpSat ca hi lo n).sync = s.sync := rfl
@[simp] theorem State.bumpSat_net (s : State) (ca hi lo n : Nat) : (s.bumpSat ca hi lo n).net = s.net := rfl
@[simp] theorem State.bumpSat_netSeq (s : State) (ca hi lo n : Nat) : (s.bumpSat ca hi lo n).netSeq = s.netSeq := rfl
@[simp] theorem State.bumpSat_links (s : State) (ca hi lo n : Nat) : (s.bumpSat ca hi lo n).links = s.links := rfl
@[simp] theorem State.bumpSat_vcb (s : State) (ca hi lo n : Nat) : (s.bumpSat ca hi lo n).vcb = s.vcb := rfl
@[simp] theorem State.bumpSat_events (s : State) (ca hi lo n : Nat) : (s.bumpSat ca hi lo n).events = s.events := rfl
@[simp] theorem State.bumpSat_free (s : State) (ca hi lo n : Nat) : (s.bumpSat ca hi lo n).free = s.free := rfl
@[simp] theorem State.bumpSat_tile (s : State) (ca hi lo n : Nat) (u : Tile) : (s.bumpSat ca hi lo n).tile u = s.tile u := rfl
@[simp] theorem State.bumpSat_ctx (s : State) (ca hi lo n : Nat) (u : Tile) (d : CtxNo) : (s.bumpSat ca hi lo n).ctx u d = s.ctx u d := rfl
@[simp] theorem State.bumpSat_fieldSt (s : State) (ca hi lo n : Nat) (k : Nat) : (s.bumpSat ca hi lo n).fieldSt k = s.fieldSt k := rfl
@[simp] theorem State.bumpSat_byte (s : State) (ca hi lo n : Nat) (i : Nat) : (s.bumpSat ca hi lo n).byte i = s.byte i := rfl

end Sys2Proof.Machine
end

