-- ==== Sys2Proof/Machine/Defects.lean ====
section
/-! DEFINITION. The defect map, which the host keeps and the device neither reads nor writes (R390). -/

namespace Sys2Proof.Machine

/-- What a record of the map names (Table 17-2). -/
inductive DefectKind where
  | site | jlane | glane | hlane | cellar | field
  deriving DecidableEq, Repr

/-- Who found a defect (Table 17-2). -/
inductive DefectOrigin where
  | manufacture | bist | event | host
  deriving DecidableEq, Repr

/-- A record of the defect map (Table 17-2): unit, direction, bundle and lane as its kind uses them. -/
structure Defect where
  kind   : DefectKind
  field  : Nat
  unit   : Nat
  dir    : Bool
  bundle : Nat
  lane   : Nat
  origin : DefectOrigin
  time   : Word
  deriving DecidableEq, Repr

/-- The header of a defect map (Table 17-1). -/
structure DefectHead where
  serial : Word
  nrec   : Nat
  time   : Word
  crc    : BitVec 32
  deriving DecidableEq, Repr

def defectKinds : List DefectKind := [.site, .jlane, .glane, .hlane, .cellar, .field]

def defectOrigins : List DefectOrigin := [.manufacture, .bist, .event, .host]

/-- The code of a kind, from 1 on, and the kind of a code; 0x00 and 0x07 to 0xFF are reserved. -/
def defectKindOf (n : Nat) : Option DefectKind := if n = 0 then none else defectKinds[n - 1]?

/-- The units that a kind of record may name (Table 17-2). -/
def defectUnits : DefectKind → Nat
  | .site => 42
  | .jlane => 27
  | .glane => 14
  | .hlane => 2
  | .cellar => 1
  | .field => 1

/-- A record from its two words; none where it holds a reserved code, a unit that its kind has not, or bits that are not 0. -/
def parseDefect (w0 w1 : Word) : Option Defect :=
  match defectKindOf (bits w0 63 56), defectOrigins[bits w0 23 16]? with
  | some k, some o =>
    if 48 ≤ bits w0 55 50 ∨ defectUnits k ≤ bits w0 49 44 ∨ bits w0 30 24 ≠ 0 ∨ bits w0 15 0 ≠ 0 then none
    else some ⟨k, bits w0 55 50, bits w0 49 44, w0.getLsbD 43, bits w0 42 35, bits w0 34 31, o, w1⟩
  | _, _ => none

/-- The words of a record. -/
def Defect.words (d : Defect) : List Word :=
  [BitVec.ofNat 64 ((defectKinds.idxOf d.kind + 1) <<< 56 + d.field <<< 50 + d.unit <<< 44 + (if d.dir then 1 <<< 43 else 0) +
    d.bundle <<< 35 + d.lane <<< 31 + (defectOrigins.idxOf d.origin) <<< 16), d.time]

/-- n bytes of a map from a place, least significant first. -/
def mapNum (m : List Byte) (at_ n : Nat) : Nat := ofBytes ((m.drop at_).take n)

def defectMagic : List Byte := [0x51, 0x57, 0x44, 0x45, 0x46, 0x45, 0x43, 0x54]

/-- The header of a map; none where its magic, its format or its zeros are not as Table 17-1 has them. -/
def parseDefectHead (m : List Byte) : Option DefectHead :=
  if (m.take 8 == defectMagic) && mapNum m 16 2 == 1 && mapNum m 18 2 == 0 && mapNum m 36 28 == 0 && decide (64 ≤ m.length) then
    some ⟨BitVec.ofNat 64 (mapNum m 8 8), mapNum m 20 4, BitVec.ofNat 64 (mapNum m 24 8), BitVec.ofNat 32 (mapNum m 32 4)⟩
  else none

/-- Whether a map is valid: its header is one, its records are all there and their CRC matches (R390). -/
def defectMapValid (m : List Byte) : Bool :=
  match parseDefectHead m with
  | none => false
  | some h => decide (m.length = 64 + 16 * h.nrec) && crc32 (m.drop 64) == h.crc

/-- Whether a map is the module's: its serial number is ISO_SERIAL (R390). -/
def defectMapOurs (m : List Byte) : Bool := (parseDefectHead m).any fun h => h.serial == Config.serial

/-- The records of a map in the order in which they were added. -/
def defectRecords (m : List Byte) : List (Option Defect) :=
  (List.range (mapNum m 20 4)).map fun i =>
    parseDefect (BitVec.ofNat 64 (mapNum m (64 + 16 * i) 8)) (BitVec.ofNat 64 (mapNum m (72 + 16 * i) 8))

end Sys2Proof.Machine
end

