-- ==== Sys2Proof/Tests/Slice0.lean ====
section
/-! SUPPORT. Tests: a witness for the hypotheses of every statement, and the effects that the statements name on small states. -/

namespace Sys2Proof.Tests

set_option Elab.async false

open Sys2Proof Sys2Proof.Machine Sys2Proof.Claims

/-- The state a command leads to; the state before it where it has none. -/
def after (c : Instr) (s : State) : State :=
  match exec c s with
  | .next t => t
  | _ => s

/-- Tile site 0 of field 0, and its neighbour. -/
def t0 : Tile := ⟨0, 0⟩
def t1 : Tile := ⟨0, 1⟩

/-- A module with standby power, the edge on, field 0 FULL and the fabric domain on. -/
def up : State :=
  let s := (State.reset.setFld (rindCa 1 0x108) 3 0 4).setFld (rindCa 1 (0x100 + 8 * 49)) 3 0 7
  s.modPins fun p => { p with standby := true, main := true }

/-- Whether a write lands on a register of a tag under a condition. -/
def landsOn (s : State) (a : Nat) (tag : RegTag) (v : Word) (ok : RegGroup → List Nat → Bool) : Bool :=
  match decodeCa (caOf a).toNat with
  | some (k, g, is) =>
    (caParts (caOf a).toNat).field != 0x3F && s.answers (caOf a).toNat && !s.claims (caOf a).toNat &&
    decide (writeLevel k (caParts (caOf a).toNat) g ≤ s.level) && !woReserved g.fields v && g.tag == tag && ok g is
  | none => false

/-- A context of tile site 0 in a state, on the module of `up`. -/
def inState (c : CtxNo) (st : CtxState) : State := up.modCtx t0 c fun _ => { state := st }

/-- Context 0 of tile site 0 RUNNING and current. -/
def run0 : State := (inState 0 .running).modTile t0 fun x => { x with current := some 0 }

/-- The hypotheses of MayIssue, as a test. -/
def mayIssue (s : State) (t : Tile) (c : CtxNo) : Bool :=
  s.clocked t.field.val && (s.tile t).current == some c && !(s.tile t).switching && !(s.tile t).mxe.halted && (s.tile t).mxe.hold == 0 && !(s.tile t).dbg.halted &&
  (s.ctx t c).state == .running && (s.ctx t c).wait == .no && !s.haltDue t c && (s.tile t).ownToks == [] &&
  !((s.tile t).mxe.queued.any fun d => d.ctx == c) && !((s.tile t).chain.queued.any fun v => v.ctx == c)

/-- A run in progress on tile site 0, for context 0. -/
def oneRun : Run := { desc := runDesc 0 0 0 false }

/-- A small run: one row of one block of ones in BS8, with weights of ones in every lane. -/
def onesRow : List Byte := List.replicate 256 32 ++ List.replicate 8 127

def fullBuf : WeightBuf := { rows := List.replicate 256 onesRow }

def passState (swapped : Bool) : State :=
  let d : RunDesc := { oneRun.desc with ctx := 0, acc := false, bank := 0, rowbase := 3, nrow := 1, klen := 32, nprob := 1, cpred := true }
  let r : Run := { desc := d, swapped := swapped }
  let b : WeightBuf := { fullBuf with check := List.replicate 32 (256 * 32), mask := some (List.replicate 31 0 ++ [0x80]) }
  let s := run0.modTile t0 fun x => { x with mxe := { x.mxe with run := some r, active := swapped, buf1 := b } }
  s.modEng t0 0 0 fun x => { x with queue := [.ready (.data onesRow true)] }

/-- An invocation of one row with no stage and W48 output, in progress with the chain words of a header and an output word. -/
def chainState (header out : Word) : State :=
  let ws := (List.range 16).map fun w => if w = 0 then header else if w = 9 then out else 0
  let v : Invocation := { ctx := 0, cfg := 0, row := 3, nrows := 1, words := ws }
  run0.modTile t0 fun x => { x with chain := { x.chain with run := some v } }

/-- A program of context 0 of an engine whose first instruction is a word. -/
def progState (e : Fin 3) (w : Word) : State :=
  (run0.setReg (tileCa t0 0x07 (0x10000 + 0x4000 * e.val + 64)) w).modEng t0 e 0 fun x => { x with run := some { prog := 0, ip := 0, par := 5 } }

/-- A stream instruction of an opcode with its other bits. -/
def sop (op rest : Nat) : Word := BitVec.ofNat 64 (op * 2 ^ 59 + rest)

/-- Whether the next instruction of an engine is a word that is no reserved code. -/
def nextIs (s : State) (e : Fin 3) (w : Word) : Bool :=
  match s.strFetch t0 e 0 with
  | some (r, x) => x == w && !streamReserved e.val w && decide (r.ip < 23)
  | none => false

/-- A program of an engine with one instruction and descriptor 0. -/
def descState (e : Fin 3) (w d0 d1 : Word) : State :=
  ((progState e w).setReg (tileCa t0 0x07 (0x10000 + 0x4000 * e.val)) d0).setReg (tileCa t0 0x07 (0x10000 + 0x4000 * e.val + 8)) d1

/-- A RAW and a BS8 descriptor of the own scratchpad, and a RAW one of site 1 of field 0. -/
def rawLoc : Word := BitVec.ofNat 64 (3 * 2 ^ 62 + 2 ^ 61 + 4096)
def bs8Loc : Word := BitVec.ofNat 64 (2 ^ 61 + 4096)
def rawFar : Word := BitVec.ofNat 64 (3 * 2 ^ 62 + 0x42000000 + 0x40000000000000)

/-- The head of a packet from tile site 1 of field 0 to logical tile 0 of it. -/
def headTo0 : Head :=
  { job := 0, ntag := 0, dfield := 0, dsite := 0, dlog := true, sfield := 0, ssite := 1, xm := false, tag := 0, mcg := none, smod := 0, dmod := 0 }

/-- Whether a packet has come to tile site 0 of field 0, which can take it now. -/
def reaches0 (s : State) (h : Head) (b : Body) : Bool :=
  s.endpoint h b == some (.tile t0) && s.serves 0 && !s.rind.power.stopped.contains 0 && s.mayTake h b

/-- A packet whose flits all lie in the buffer of a node, or with none sent yet. -/
def packetAt (h : Head) (b : Body) (l : Node) : Packet :=
  { head := h, body := b, trail := if l = .source then [] else [⟨l, false, 0, List.replicate (flitsOf b) false⟩] }

/-- A state with one packet in flight. -/
def flying (h : Head) (b : Body) (l : Node) : State := { up with net := [packetAt h b l], netSeq := 1 }

/-- The head of a packet to multicast group 5 from site 1. -/
def headToGroup : Head := { headTo0 with dfield := 0x3E, dlog := false, mcg := some { group := 5 } }

/-- Entry 3 of the router of site 0: tree 17, two inputs, one slot bit, parent station; with two credits. -/
def treeState : State :=
  (up.setReg (trtCa t0 3 0) (BitVec.ofNat 64 (1 <<< 63 + 17 <<< 46 + 2 <<< 43 + 1 <<< 36))).setReg (trtCa t0 3 1) 2

/-- A reduction packet of tree 17 with ones in its lanes. -/
def redOnes (cnt : Nat) : RedBody := { tree := 17, cnt := cnt, chunk := 5, q := 0, lanes := List.replicate 10 ⟨1, 0⟩ }

/-- The entry of a cellar page of field 0, frame 2, for job domain 0. -/
def pte0 : Word := BitVec.ofNat 64 (1 <<< 63 + 1 <<< 54 + 2 <<< 21)

/-- A line of 512 ones. -/
def line0 (st : LineSt) : VatLine := ⟨0, st, 0, List.replicate 512 1, [], pte0⟩

/-- The Vat of field 0 with page 0 translated, and perhaps line 0 in its way 0. -/
def vatState (l : Option VatLine) : State :=
  up.modVat 0 fun v => { v with tcache := tcPut [] 0 pte0, lines := match l with | some x => [(0, some x)] | none => [] }

/-- The head of a packet from tile site 1 of field 0 to its Vat. -/
def headVat : Head := { headTo0 with dsite := 0x31, dlog := false }

/-- Field 0 with its cellar READY. -/
def cel : State := up.setFld (celStatusCa 0) 2 0 2

/-- The head of a message from the Vat of field 1 to the home of field 0. -/
def headHome : Head := { headTo0 with dsite := 0x32, dlog := false, sfield := 1, ssite := 0x31, pte := pte0 }

/-- Field 0's directory with an entry for line 5. -/
def dirState (st : DirSt) : State := cel.modHome 0 fun h => Home.setEntry h 5 (some st) pte0

/-- Field 0's home with one transaction on line 5. -/
def txnState (r : HomeReq) (w : TxnWait) : State := (dirState (.shared 4)).modHome 0 fun h => { h with slots := [⟨5, headHome, r, pte0, w⟩] }

/-- The Cave enabled with 16 pages and its table at offset 0 of field 0's cellar, or in host memory. -/
def caveState (host : Bool) : State :=
  ((cel.setReg ptBaseCa (if host then 0x70000000001000 else BitVec.ofNat 64 (cellarAddr 0 0))).setReg ptSizeCa 16).setFld caveCtlCa 0 0 1

/-- A move of page 3 from frame 2 to frame 4 of field 0 at a step. -/
def aMove (st : MoveStep) : Move := { page := 3, kind := .move false, cmd := 0, old := pte0, new := moveEntry pte0 false 0 4, step := st }

/-- The module of `up` with field 3 in a state and field 4 FULL. -/
def fieldAt (st : Nat) : State := (up.setFld (domCa 4) 3 0 st).setFld (domCa 5) 3 0 4

/-- A reset of a scope requested, for field 0, logical tile 0, context 2 and domain 0. -/
def resetState (scope : Nat) : State :=
  (inState 2 .stopped).modRind fun x => { x with resets := [{ word := BitVec.ofNat 64 (scope <<< 53 + 2 <<< 30) }] }

/-- A remap of logical tile 0 of field 0 from site 0 to site 40 at a stage. -/
def remapState (st : RemapStage) (pass : Nat) : State := up.modField 0 fun x => { x with remap := some ⟨0, 0, 40, st, pass⟩ }

/-- The module of `up` at a debug level, with a debug state of tile site 0. -/
def dbgState (level : Nat) (d : Debug) : State := (up.setFld dbgUnlockCa 9 8 level).modTile t0 fun x => { x with dbg := d }

/-- The module of `up` with engines 0 and 1 on and half-port 0 in a state with lanes 0 to 15 locked. -/
def hpUp0 (st : Nat) : State :=
  (up.setReg (edgeCa 0 0x100) 3).setReg (hpstatCa 0) (BitVec.ofNat 64 (0xFFFF <<< 32 + 31 <<< 8 + st))

/-- Half-port 0 in IDENT with identities that agree. -/
def identState : State :=
  (((hpUp0 4).setReg (fabricCa 0) 0x10005).setReg (hpCa 0 0) 5).setReg (hpCa 0 0x18) (BitVec.ofNat 64 (3 <<< 62 + 6 <<< 32 + 1 <<< 8 + 7))

/-- A control slot that says nothing new. -/
def ctl0 : CtlSlot :=
  { fseq := 0, valid := 1, ackv := true, nak := false, ackseq := 0, tsv := false, modv := true, cred := [], txmap := 0xFFFF, rxbad := 0, rcl := none,
    role := 1, ttx := 0, techo := 0, trxe := 0, serial := 9, modid := 6, hp := 7 }

/-- The head of a packet from field 0 to module 6. -/
def headTo6 : Head := { headTo0 with dsite := 0x33, dlog := false, xm := true, dmod := 6 }

/-- Module 5, with half-port 0 UP as a local half-port to module 6, and a packet held by engine 0. -/
def fabState (p : FabPkt) : State :=
  let s := (((hpUp0 5).setReg (fabricCa 0) 0x10005).setReg (hpCa 0 0) 5).setReg (hpCa 0 0x18) (BitVec.ofNat 64 (3 <<< 62 + 6 <<< 32))
  ((s.setReg (hpCa 0 0x10) 9).setReg (engineCa 0 0 (0x3000 + 8 * 6)) 0x80).engSend 0 p

/-- A read on the fabric for a module. -/
def fabTok (m : Nat) : FabPkt := fabForm { headTo6 with dmod := m, xm := false } (.rd 0 64)

/-- A module-tree entry 2 of engine 0 for tree 17 with two inputs, a root or not, and a packet at the engine's spine port. -/
def xtState (root : Nat) : State :=
  let s := (fabState (fabTok 6)).setReg (xtreeCa 0 2 0) (BitVec.ofNat 64 (1 <<< 63 + root <<< 60 + 2 <<< 50 + 3 <<< 48 + 17 <<< 16))
  { s with net := [packetAt { headTo6 with xm := false } (.red (redOnes 1)) (.spine 0 0x33)], netSeq := 1 }

/-- A descriptor of an OP with its address and value words. -/
def descWith (op : Nat) (w2 w4 : Nat) (st : DescSt) : Desc :=
  ⟨7, [BitVec.ofNat 64 (op <<< 56), 0, BitVec.ofNat 64 w2, 0, BitVec.ofNat 64 w4, 0, 0, 0], 1, st⟩

/-- Queue 0 of the PF running with 16 entries each way, port 0 up, and some descriptors. -/
def queueUp (st : Nat) (l : List Desc) : State :=
  let s := (up.setReg (queueCa 0 0) (BitVec.ofNat 64 (1 <<< 63 + 4 <<< 56 + 4 <<< 52))).setQueueState 0 st
  (s.modPins fun p => { p with link0 := true }).modQueue 0 fun x => { x with descs := l, tail := 3 }

/-- A copy of 1,024 bytes from host address 0x100 to or from an address. -/
def copyDesc (op : Nat) (daddr : Nat) (st : DescSt) : Desc := ⟨7, [BitVec.ofNat 64 (op <<< 56), 0x100, BitVec.ofNat 64 daddr, 1024, 0, 0, 0, 0], 1, st⟩

/-- Offset 0 of logical tile 0 of field 0, as a data address. -/
def padOf0 : Nat := 4 <<< 52 + 1 <<< 37

/-- The queue of `queueUp` with a read outstanding under tag 3 for a use. -/
def readOut (use : HostUse) (len : Nat) (l : List Desc) : State :=
  (queueUp 1 l).modAgent fun a => { a with reads := [(3, 0, ⟨0, len, none, use, 0⟩)] }

/-- Port 0 up, VF Enable set, and window 0 of the PF at the first 4 GiB of field 0's logical scratchpads. -/
def hostUp : State :=
  ((queueUp 1 [descWith 0 0 0 .wait]).setReg (dwinCa 0 0) (BitVec.ofNat 64 (1 <<< 63 + 4 <<< 52 + 1 <<< 37))).modPcie fun x => { x with vfEnable := true }

/-- The firmware status given: bit 63 trial, 62 the running slot, 61 and 60 the valid ones. -/
def fwState (w : Nat) (s : State) : State := s.setFwStat (BitVec.ofNat 64 (w <<< 60))

/-- A LOAD in progress on queue 0 that writes context 2 of tile site 0, after pass 2 or before. -/
def loadState (again : Option (List Byte)) : State :=
  (queueUp 1 [descWith 5 0 0 .load]).modRind fun x => { x with load := some ⟨0, [1], [], [2], 9, again⟩ }

/-- A package of 4 zero code bytes, version 3 and security version 1, whose signature is zeros. -/
def pkg0 : List Byte := ascii "QWSTART1" ++ [3, 0, 1, 0, 4, 0, 0, 0] ++ List.replicate (48 + 4 + 256) 0

/-- An FWLOAD of 328 bytes started on queue 0. -/
def fwDesc (st : DescSt) : Desc := ⟨7, [BitVec.ofNat 64 (6 <<< 56), 0, 0, 324, 0, 0, 0, 0], 1, st⟩

/-- A valid source entry 0 at tile site 0 with 32 elements, its ready word at 0 and its anchor word at 8. -/
def srcState (st : Nat) : State :=
  let s := (up.setReg (srcCa t0 0 0) (BitVec.ofNat 64 (1 <<< 63 + 1 <<< 57 + 32))).setReg (srcCa t0 0 2) (BitVec.ofNat 64 (8 <<< 32 + 1))
  ((s.setReg (spdBoundCa t0 0) (BitVec.ofNat 64 (0xBFFF <<< 32))).setFld (srcCa t0 0 3) 63 62 st)

/-- A valid shard entry 0 of a family with 64 elements of 2 rows of 32, and its step. -/
def shardState (fam : Nat) (y : SinkSt) : State :=
  let s := up.setReg (shardCa t0 0 0) (BitVec.ofNat 64 (1 <<< 63 + fam <<< 59 + 1 <<< 52 + 17 <<< 40))
  let s := (s.setReg (shardCa t0 0 1) 64).setReg (shardCa t0 0 2) (BitVec.ofNat 64 (2 <<< 55 + 32 <<< 46))
  (s.setReg (spdBoundCa t0 0) (BitVec.ofNat 64 (0xBFFF <<< 32))).modSink t0 0 fun _ => y

/-- Elements of a reduced gradient, good and bad. -/
def lanes64 (fl : BitVec 4) : List RedLane := List.replicate 64 ⟨1, fl⟩

/-- The parts of a block's tensors. -/
def parts (n : Nat) : List (Nat × Option (List Byte)) := (List.range (2 * n)).map fun i => (i, none)

/-- A record of an OP and a mode with its lists at 0x1000, 0x2000 and 0x3000 of tile site 0, one index each. -/
def spxRec (op mode : Nat) : List Word :=
  [BitVec.ofNat 64 (op <<< 60 + mode <<< 58 + 0x100), BitVec.ofNat 64 (0x200 <<< 32), BitVec.ofNat 64 (0x1000 <<< 32 + 1), BitVec.ofNat 64 (0x2000 <<< 32 + 1),
   BitVec.ofNat 64 (0x3000 <<< 32 + 2)] ++ List.replicate 11 0

/-- A command in progress at tile site 0, with its whole scratchpad in bounds. -/
def spxState (c : SpxCmd) : State := (up.setReg (spdBoundCa t0 0) (BitVec.ofNat 64 (0xBFFF <<< 32))).modSpx t0 fun x => { x with cmd := some c }

/-- A BS16 tensor local to the tile. -/
def localDesc : Word := BitVec.ofNat 64 (2 <<< 61)

/-- The words of a BUCKET or GATHER record with descriptors. -/
def spxDescs (op mode : Nat) : List Word := (spxRec op mode).take 6 ++ [localDesc, 0, localDesc, 0] ++ List.replicate 6 0

/-- An arbiter's units handed out and not used. -/
def withGrants (s : State) (base : Nat) (g : List Nat) : State := s.setArb base { s.arb base with grants := g }

/-- The module of `up` with the window of tile site 0's SFU arbiter due or not. -/
def arbState (due : Bool) : State := up.setArb (arbBase (.sfu t0)) { up.arb (arbBase (.sfu t0)) with due := due }

theorem wit_IdleStepIsANanosecond : up.pending = [] ∧ up.sync.slew = 0 ∧ ((step up) matches .next _) = true := by decide +kernel

theorem wit_OnlyIllFormedPacketsAreRefused :
    wellFormed (.nop t0) = true ∧ readLenOk 0 = false ∧ writeLenOk [] = false ∧ breezeLenOk [] = false ∧
    ([{ who := 1, job := none, off := 500, op := .read 13 }] : List BankReq).all bankReqOk = false ∧
    wellFormed (.bankAccess t0 [] [{ who := 1, job := none, off := 500, op := .read 12 }]) = true := by decide +kernel

/-- RIND_ID: a register that no row of register writes but REGISTER_WRITE is about. -/
def idCa : Ca := caOf (rindCa 0 0)

/-- An ill-formed term for each check of a row that is about certain registers: a write of RIND_ID. -/
theorem test_ill_formed_registers1 :
    ([.tilemapWrite idCa 0, .sitebadWrite idCa 0, .istoreWrite idCa 0, .ctxcfgWrite idCa 0, .loopCounterWrite idCa 0,
     .counterWrite idCa 0, .chainConfigWrite idCa 0, .vmodeWrite idCa 0, .spdBoundWrite idCa 0, .streamProgramWrite idCa 0,
     .sparecmd idCa 0, .treeEntryWrite idCa 0, .caveEnableWrite idCa 0, .move idCa 0, .freeRingPush idCa 0,
     .shardEntryWrite idCa 0, .sparseRingWrite idCa 0, .roleWrite idCa 0, .modidWrite idCa 0, .timeset idCa 0] : List Instr).all
      (fun c => !wellFormed c) = true := by decide +kernel

theorem test_ill_formed_registers2 :
    ([.timectlWrite idCa 0, .dataWindowWrite idCa 0, .funcjobWrite idCa 0, .queueConfigWrite idCa 0, .evqWrite idCa 0,
     .pwrCtlWrite idCa 0, .optgateWrite idCa 0, .counterWrap idCa 0, .rowstateWrite idCa 0 false, .snapshot idCa,
     .ptWrite idCa (1 <<< 24), .ptRead idCa (2 <<< 24), .fetchStart idCa (1 <<< 16), .fetchStop idCa (2 <<< 16),
     .cancel idCa (3 <<< 16), .broadcastWrite idCa 0] : List Instr).all
      (fun c => !wellFormed c) = true := by decide +kernel

/-- An ill-formed term for each check of a code, a count, a size or a sensor. -/
theorem test_ill_formed_codes :
    ([.ptWrite (caOf (rindCa 0 0)) 0, .checkInject t0 0 0, .sensorUpdate none 6 0,
      .cnt (.packet headTo0 0 2) 0 ⟨0, 0, 0⟩, .cntlt (.packet headTo0 0 1) 0 ⟨0, 0, 0⟩, .ceq (.packet headTo0 0 1) 0 ⟨0, 0, 0⟩,
      .semdn (.packet headTo0 0 1) 0 ⟨0, 0, 0⟩, .lacq (.packet headTo0 0 1) 0 ⟨0, 0, 0⟩, .lrel (.packet headTo0 0 1) 0 ⟨0, 0, 0⟩,
      .lrst (.packet headTo0 0 1) 0 ⟨0, 0, 0⟩, .rd headTo0 0 0, .wr headTo0 0 [], .bzw headTo0 0 [0]] : List Instr).all
      (fun c => !wellFormed c) = true := by decide +kernel

/-- And a well-formed term of some of them. -/
theorem test_well_formed :
    ([.broadcastWrite (caOf (mkCa 0x3F 0 2 0x300)) 0, .checkInject t0 0 1, .sensorUpdate none 5 0, .cnt (.packet headTo0 0 1) 0 ⟨0, 0, 0⟩,
      .rd headTo0 0 1, .wr headTo0 0 [0]] : List Instr).all wellFormed = true := by decide +kernel

theorem wit_CommandsLeaveTheQueue : ((exec (.nop t0) up) matches .next _) = true := by decide +kernel

theorem wit_MemoryKeepsItsForm : Memory.wf (State.setBytes up 5 [1, 0, 2]).mem = true ∧
    ((step (State.setBytes up 5 [1, 0, 2])) matches .next _) = true := by decide +kernel

theorem wit_RegisterWritesStore_tile :
    landsOn up (tileCa t0 2 0x300) .plain 5 (fun _ _ => true) = true ∧
    landsOn up (tileCa t0 1 0x200) .counter 5 (fun _ _ => true) = true ∧
    landsOn (inState 0 .stopped) (tileCa t0 1 0x100) .seqLc 7 (fun _ is => (inState 0 .stopped).ctx t0 (Fin.ofNat 4 (idx is 0)) == { state := .stopped }) = true ∧
    landsOn up (tileCa t0 0 0x100) .tilCtxcfg 3 (fun _ is => Ctx.idle (up.ctx t0 (Fin.ofNat 4 (idx is 0))) && !up.bit (tileCa t0 0 0x100) 7) = true ∧
    landsOn up (tileCa t0 4 0) .sfuCtl 1 (fun _ _ => (List.finRange 4).all fun c => Ctx.idle (up.ctx t0 c)) = true ∧
    landsOn up (tileCa t0 3 0x4000) .vchVec 64 (fun _ is => Ctx.idle (up.ctx t0 (Fin.ofNat 4 (idx is 0)))) = true ∧
    landsOn up (tileCa t0 3 0x8000) .rowState 64 (fun _ _ => true) = true ∧
    landsOn up (tileCa t0 6 0x108) .spdBound 64 (fun _ _ => (List.finRange 4).all fun c => !Ctx.live (up.ctx t0 c)) = true ∧
    landsOn up (tileCa t0 7 0x10000) .strProg 64 (fun _ is => Ctx.idle (up.ctx t0 (Fin.ofNat 4 (idx is 1)))) = true ∧
    landsOn up (tileCa t0 8 0x100) .netTrt 64 (fun _ _ => !up.bit (tileCa t0 8 0x100) 63) = true ∧
    landsOn up (tileCa t0 9 0x3000) .updSrc 64 (fun _ is => !up.bit (srcCa t0 (Fin.ofNat 16 (idx is 0)) 0) 63) = true ∧
    landsOn up (tileCa t0 0xA 0x100) .spxRing 64 (fun _ is => !up.spxBusyFor t0 (Fin.ofNat 4 (idx is 0))) = true := by decide +kernel

theorem wit_RegisterWritesStore_rind :
    landsOn up (sitebadCa 0) .fldSitebad (1 <<< 40) (fun _ _ => (BitVec.ofNat 64 (1 <<< 40)) &&& up.siteUse 0 == 0) = true ∧
    landsOn up ptBaseCa .cavePt 64 (fun _ _ => !up.bit caveCtlCa 0) = true ∧
    landsOn up (fabricCa 0) .isoModid 5 (fun _ _ => (List.finRange 96).all fun h => up.hpState h != 5) = true ∧
    landsOn up (rindCa 0 0x1000) .rindDwin 5 (fun _ is => idx is 0 == 0) = true ∧
    landsOn up (rindCa 0 0x10) .funcjob 0x32100 (fun _ _ => (List.range 5).all (fun f => !up.queuesOn f) &&
      (List.range 4).all fun a => (List.range 4).all fun b => a == b || funcJobIn 0x32100 (a + 1) != funcJobIn 0x32100 (b + 1)) = true ∧
    landsOn up (queueCa 0 1) .queueWord 4096 (fun _ is => up.queueState (idx is 0) == 0) = true ∧ up.rind.pcie.vfEnable = false ∧
    landsOn up (rindCa 0 0x20) .evq 0 (fun _ _ => true) = true ∧
    landsOn up (rindCa 1 0) .pwrCtl (1 <<< 63) (fun _ _ => true) = true := by decide +kernel

theorem test_register_write_stores :
    (after (.registerWrite (caOf (tileCa t0 2 0x300)) 0x00FF0003) up).reg (tileCa t0 2 0x300) = 0x00FF0003 ∧
    (after (.registerWrite (caOf (tileCa t0 2 0x1000)) (3 <<< 62)) up).fld (tileCa t0 2 0x1000) 63 62 = 0 ∧
    (after (.registerWrite (caOf (tileCa t0 2 0x1000)) (3 <<< 62)) up).events.map (·.code) = [4] := by decide +kernel

theorem wit_TileMapWriteRules :
    up.serves 0 = true ∧ up.rind.load = none ∧
    (up.bit (tilemapCa 0 1) 7 = true ∧ up.fld (tilemapCa 0 1) 5 0 = bits 0x81 5 0) ∧
    (let s := up.setReg (sitebadCa 0) (1 <<< 41); s.bit (sitebadCa 0) (bits 0xA9 5 0) = true) ∧
    ((inState 0 .stopped).siteOf 0 0 = some t0 ∧ (((inState 0 .stopped).ctx t0 0).state == .empty) = false) ∧
    ((1 : Word) &&& up.siteUse 0 ≠ 0) ∧ ((1 <<< 41 : Word) &&& up.siteUse 0 = 0) := by decide +kernel

theorem test_tilemap_rejects_used_site :
    (after (.tilemapWrite (caOf (tilemapCa 0 0)) 0x81) up).regs = up.regs ∧
    (after (.tilemapWrite (caOf (tilemapCa 0 0)) 0x81) up).events.map (·.code) = [4] ∧
    (after (.tilemapWrite (caOf (tilemapCa 0 0)) 0xA8) up).fld (tilemapCa 0 0) 5 0 = 40 := by decide +kernel

theorem wit_WritesRejectedByTheirRules_tile :
    landsOn (inState 0 .running) (tileCa t0 0 0x100) .tilCtxcfg 0 (fun _ _ => true) = true ∧
    landsOn up (tileCa t0 0 0x100) .tilCtxcfg (5 <<< 16) (fun _ _ => decide (bits (5 <<< 16) 44 32 < bits (5 <<< 16) 28 16)) = true ∧
    landsOn up (tileCa t0 1 0x100) .seqLc 0 (fun _ _ => !((up.ctx t0 0).state == .stopped)) = true ∧
    landsOn (inState 0 .running) (tileCa t0 0x10 0) .istore 0 (fun _ is => (inState 0 .running).inRegion t0 0 (idx is 0 / 4)) = true ∧
    landsOn (inState 0 .running) (tileCa t0 4 0) .sfuCtl 1 (fun _ _ => !(inState 0 .running).bit (tileCa t0 4 0) 0) = true ∧
    landsOn (inState 0 .running) (tileCa t0 3 0x4000) .vchVec 0 (fun _ _ => true) = true ∧
    landsOn (inState 0 .running) (tileCa t0 7 0x10000) .strProg 0 (fun _ is => Fin.ofNat 4 (idx is 1) == (0 : Fin 4)) = true ∧
    landsOn (inState 0 .running) (tileCa t0 6 0x100) .spdBound 0 (fun _ is => idx is 0 == ((inState 0 .running).jobOf t0 0).val) = true := by
  decide +kernel

theorem wit_WritesRejectedByTheirRules_rind :
    (let s := up.setReg caveCtlCa 1; landsOn s ptBaseCa .cavePt 0 (fun _ _ => s.bit caveCtlCa 0)) = true ∧
    (let s := up.setReg (hpstatCa 3) 5; landsOn s (fabricCa 0) .isoModid 0 (fun _ _ => s.hpState 3 == 5)) = true ∧
    (let s := (up.setFld (domCa 1) 33 32 2).setFld (rindCa 1 0) 63 63 1
     landsOn s (rindCa 1 0) .pwrCtl 0 (fun _ _ => s.bit (rindCa 1 0) 63 && s.fld (domCa 1) 33 32 == 2)) = true ∧
    (let s := (up.setReg (trtCa t0 1 0) (1 <<< 63 + 4 <<< 36)).setReg (trtCa t0 2 0) (1 <<< 63 + 4 <<< 36)
     landsOn s (trtCa t0 0 0) .netTrt (1 <<< 63) (fun _ is => decide (32 < s.trtUse t0 (some (idx is 0)) + 2 ^ bits (1 <<< 63) 38 36))) = true := by
  decide +kernel

theorem wit_AccessesThatNothingAnswers : (decodeCa (caOf 0x3F8).toNat).isNone = true ∧
    up.powered (caOf (tileCa ⟨1, 0⟩ 2 0x300)).toNat = false ∧ (caParts (caOf (tileCa ⟨1, 0⟩ 2 0x300)).toNat).field = 1 ∧
    landsOn up (tileCa t0 2 0x300) .plain 0 (fun _ _ => true) = true ∧
    (let a := (caOf (mkCa 0x3F 0x33 0 0)).toNat
     (decodeCa a).isSome = true ∧ (caParts a).field = 0x3F ∧ (List.range 48).all (fun f => !up.serves f || !up.powered (inField a f)) = true ∧ up.serves 0 = true) := by
  decide +kernel

theorem test_unpowered_reads_ones :
    (after (.registerReadClear (caOf (tileCa ⟨1, 0⟩ 2 0x300))) up).rind.answer = 0xFFFFFFFFFFFFFFFF := by decide +kernel

theorem wit_ReadsClearTheirRcFields :
    landsOn up (tileCa t0 2 0x18) .plain 0 (fun g _ => g.fields.any fun f => f.acc == .rc) = true ∧
    (match decodeCa (tileCa t0 2 0x18) with | some (k, _, _) => readHidden k (caParts (tileCa t0 2 0x18)) | none => true) = false := by
  decide +kernel

theorem test_read_clears :
    (after (.registerReadClear (caOf (tileCa t0 2 0x18))) (up.setReg (tileCa t0 2 0x18) 0x700000003)).reg (tileCa t0 2 0x18) = 3 ∧
    (after (.registerReadClear (caOf (tileCa t0 2 0x18))) (up.setReg (tileCa t0 2 0x18) 0x700000003)).rind.answer = 0x700000003 := by
  decide +kernel

theorem wit_BroadcastWritesReachTheFieldsThatServe :
    (let a := mkCa 0x3F 0 2 0x300
     match decodeCa (caOf a).toNat with
     | some (k, g, _) => (caParts (caOf a).toNat).field == 0x3F && g.tag == .plain && up.rind.load.isNone &&
        (List.range 48).all (fun f => writeLevel k (caParts (inField (caOf a).toNat f)) g == 0) && !woReserved g.fields 5 && !rwReserved g.fields 5
     | none => false) = true := by decide +kernel

theorem test_broadcast : (after (.broadcastWrite (caOf (mkCa 0x3F 0 2 0x300)) 5) up).reg (tileCa t0 2 0x300) = 5 ∧
    (after (.broadcastWrite (caOf (mkCa 0x3F 0 2 0x300)) 5) up).reg (tileCa ⟨1, 0⟩ 2 0x300) = regReset (tileCa ⟨1, 0⟩ 2 0x300) := by decide +kernel

theorem wit_SequencerArithmetic : mayIssue run0 t0 0 = true ∧ (run0.ctx t0 0).pc.toNat + 1 ≤ run0.limit t0 0 ∧
    run0.inBounds t0 (run0.jobOf t0 0).val (8 * 5) 8 = true ∧ run0.wordErr (padAddr t0 (8 * 5)) = 0 := by decide +kernel

theorem test_loop_counters : (after (.setlc t0 3 77) run0).lc t0 0 3 = 77 ∧
    (after (.addlc t0 3 0xFFFFFF) (after (.setlc t0 3 77) run0)).lc t0 0 3 = 76 ∧
    (after (.ldlc t0 2 5) (State.setBytes run0 (padAddr t0 40) [1, 2, 3, 4])).lc t0 0 2 = 0x030201 ∧
    ((after (.nop t0) run0).ctx t0 0).pc = 1 := by decide +kernel

theorem wit_BranchesMoveThePc : mayIssue run0 t0 0 = true ∧ run0.inRegion t0 0 9 = true ∧ run0.lc t0 0 2 = 0 ∧
    (after (.setlc t0 2 1) run0).lc t0 0 2 = 1 ∧ mayIssue (after (.setlc t0 2 1) run0) t0 0 = true ∧
    (run0.setReg (ctxcfgCa t0 0) (3 <<< 32)).inRegion t0 0 9 = false ∧ mayIssue (run0.setReg (ctxcfgCa t0 0) (3 <<< 32)) t0 0 = true := by
  decide +kernel

theorem test_branches : ((after (.djnz t0 2 9) run0).ctx t0 0).pc = 9 ∧ (after (.djnz t0 2 9) run0).lc t0 0 2 = 0xFFFFFF ∧
    ((after (.djnz t0 2 9) (after (.setlc t0 2 1) run0)).ctx t0 0).pc = 2 := by decide +kernel

theorem wit_WaitsAndTokensOfAContext : mayIssue run0 t0 0 = true ∧
    (let s := run0.modCtx t0 0 fun x => { x with tokens := [64, 65] }
     mayIssue s t0 0 ∧ (s.ctx t0 0).tokens = [64, 65] ∧ s.inRegion t0 0 5 = true) ∧
    (run0.ctx t0 0).tokens = [] ∧ (run0.ctx t0 0).pc.toNat + 1 ≤ run0.limit t0 0 ∧
    (let s := run0.modCtx t0 0 fun x => { x with tokens := [64], wait := .brtok 0 64 5 }
     s.actor t0 = some 0 ∧ (s.tile t0).ownToks = [] ∧ (s.tile t0).mxe.queued = none ∧ (s.tile t0).chain.queued = none ∧ s.inRegion t0 0 5 = true ∧
     (s.ctx t0 0).state = .running ∧ (s.ctx t0 0).wait = .brtok 0 64 5) ∧
    (let s := run0.modCtx t0 0 fun x => { x with wait := .cond 1 0 }
     s.actor t0 = some 0 ∧ (s.ctx t0 0).wait = .cond 1 0 ∧ s.waitMet t0 0 1 0 = true) := by decide +kernel

theorem test_end : ((after (.endCtx t0 5) run0).ctx t0 0).goal = .ended ∧ (after (.endCtx t0 5) run0).events.map (·.code) = [2] ∧
    ((after (.wait t0 7 0) run0).ctx t0 0).wait = .cond 7 0 := by decide +kernel

theorem wit_BundlesStartRunsInvocationsAndPrograms : mayIssue run0 t0 0 = true ∧ (run0.ctx t0 0).pc.toNat + 1 ≤ run0.limit t0 0 ∧
    run0.runRefusal t0 (runDesc 0 (run0.reg (mxeDescCa t0 0 0)) 0 false) = none ∧ (run0.tile t0).mxe.queued = none ∧
    (let s := run0.setReg (mxeDescCa t0 0 0) (1 <<< 62)
     mayIssue s t0 0 ∧ (s.runRefusal t0 (runDesc 0 (s.reg (mxeDescCa t0 0 0)) 0 false)).isSome = true ∧ (s.tile t0).mxe.queued = none) ∧
    cfgOk ((List.range 16).map fun w => run0.reg (vchCfgCa t0 0 0 w)) = true ∧ (run0.tile t0).chain = {} ∧
    (let s := chainState 0 0
     mayIssue s t0 0 ∧ Chain.busy (s.tile t0).chain = true ∧ (s.tile t0).chain.queued = none ∧
     cfgOk ((List.range 16).map fun w => s.reg (vchCfgCa t0 0 0 w)) = true) := by decide +kernel

theorem wit_BundlesStartRunsInvocationsAndPrograms_streams : run0.clocked 0 = true ∧ (run0.eng t0 1 0).run = none ∧ (run0.eng t0 1 0).queued = none ∧
    (let s := run0.modEng t0 1 0 fun x => { x with queued := some (2, 5) }
     mayIssue s t0 0 ∧ (s.eng t0 1 0).run = none ∧ (s.eng t0 1 0).queued = some (2, 5)) ∧
    (let s := run0.modEng t0 1 0 fun x => { x with run := some { prog := 0, ip := 0, par := 0 } }
     mayIssue s t0 0 ∧ (s.eng t0 1 0).run = some { prog := 0, ip := 0, par := 0 } ∧ (s.eng t0 1 0).queued = none) ∧
    run0.newgenHolds t0 0 0 = false ∧ tokenOk 64 = true ∧ tokenOk 0xFF = true ∧
    run0.tileOfLogical (run0.tokNumber t0 0 ⟨64, .tile, 1, 0, false, 1⟩) = some t1 ∧
    run0.tileOfLogical (run0.tokNumber t0 0 ⟨64, .tile, 1, 0, false, 0⟩) = some t0 ∧ (run0.vcbAge t0 0).vcbRoom t0 = true ∧
    (let s := (run0.modCtx t0 1 fun _ => { state := .stopped }).modTile t0 fun x => { x with ownToks := [(1, 64, 0)] }
     mayIssue { s with tiles := (s.modTile t0 fun x => { x with ownToks := [] }).tiles } t0 0 = true ∧ (s.tile t0).ownToks = [(1, 64, (s.jobOf t0 1).val)] ∧
     (s.ctx t0 1).state ≠ .empty ∧ (s.ctx t0 1).tokens = []) := by decide +kernel

theorem test_run_and_tok : ((after (.run t0 ⟨0, false, 0, false⟩) run0).tile t0).mxe.queued.isSome = true ∧
    ((after (.runStart t0) (after (.run t0 ⟨0, false, 0, false⟩) run0)).tile t0).mxe.run.isSome = true ∧
    ((after (.streamStart t0 1 3 false 0 9) run0).eng t0 1 0).run = some { prog := 3, ip := 0, par := 9 } ∧
    ((after (.streamStart t0 1 3 false 0 9) (run0.modEng t0 1 0 fun x => { x with queued := some (2, 5) })).eng t0 1 0).run =
      some { prog := 2, ip := 0, par := 5 } ∧
    (after (.tok t0 ⟨64, .tile, 1, 0, false, 1⟩ 0) run0).net.length = 1 ∧
    ((after (.nop t0) (after (.tok t0 ⟨64, .own, 0, 0, false, 0⟩ 0) run0)).ctx t0 0).tokens = [64] := by decide +kernel

/-- The word of a bundle whose matrix slot holds RUN of descriptor 0 (bits 223 to 220, Table 4-6). -/
def runBundle : Word := 1 <<< 28

theorem wit_BundleIssueAndContextChoice : mayIssue run0 t0 0 = true ∧ bundleAtPc t0 run0 0 = some {} ∧
    run0.fld (cycCa t0 0) 47 0 + 1 < 2 ^ 48 ∧ run0.fld (advCa t0 0) 47 0 + 1 < 2 ^ 48 ∧
    (let s := (List.range 4).foldl (fun (s : State) w => s.setReg (tileCa t0 0x10 (8 * w)) (BitVec.allOnes 64)) run0
     mayIssue s t0 0 ∧ bundleAtPc t0 s 0 = none ∧ s.bundleBad t0 0 = false) ∧
    (let s := passState true |>.modEng t0 0 0 fun x => { x with queue := [] }
     mayIssue s t0 0 ∧ ((s.tile t0).mxe.run.any fun r => r.desc.ctx == 0 && r.swapped) = true ∧ (s.tile t0).mxe.redo = 0 ∧ StreamCtx.head (s.eng t0 0 0) = none) ∧
    (let s := (run0.setReg (tileCa t0 0x10 24) runBundle).modTile t0 fun x => { x with mxe := { x.mxe with run := some oneRun, queued := some { oneRun.desc with ctx := 1 } } }
     mayIssue s t0 0 ∧ ((bundleAtPc t0 s 0).any fun b => b.run.isSome && b.tok.isNone) = true ∧ (s.tile t0).mxe.queued.isSome = true) ∧
    run0.clocked 0 = true ∧ (run0.tile t0).dbg.left = 0 ∧
    (let s := up.modCtx t0 0 fun _ => { state := .stopping, goal := .ended }
     (s.ctx t0 0).state = .stopping ∧ s.hasWork t0 0 = false) := by decide +kernel

theorem test_choice : ((after (.contextChoice t0 1) (inState 0 .running)).tile t0).current = some 0 ∧
    ((after (.contextStopComplete t0 0) (up.modCtx t0 0 fun _ => { state := .stopping, goal := .ended })).ctx t0 0).state = .ended := by
  decide +kernel

theorem wit_ContextCommands : up.answers (ctxcmdCa t0 0) = true ∧ up.claimsCtx t0 0 = false ∧
    ((inState 0 .stopped).ctx t0 0).state = .stopped ∧ (inState 0 .stopped).answers (ctxcmdCa t0 0) = true ∧
    (inState 0 .stopped).inRegion t0 0 8191 = true ∧ (inState 0 .stopped).owes t0 = false ∧
    ((inState 0 .stopped).modTile t0 fun x => { x with owed := [0] }).owes t0 = true ∧
    ((inState 0 .running).ctx t0 0).state = .running ∧ (inState 0 .running).claimsCtx t0 0 = false ∧
    (up.ctx t0 0).state = .empty := by decide +kernel

theorem test_start : ((after (.start t0 0 8191) (inState 0 .stopped)).ctx t0 0).pc = 8191 ∧
    ((after (.unload t0 0) (inState 0 .stopped)).eng t0 0 0).gen = 1 := by decide +kernel

theorem wit_MatrixEngine_run : up.clocked 0 = true ∧
    (let s := run0.modTile t0 fun x => { x with mxe := { x.mxe with queued := some oneRun.desc } }
     s.canAct t0 oneRun.desc.ctx = true ∧ (s.tile t0).mxe.run = none ∧ (s.tile t0).mxe.queued = some oneRun.desc) ∧
    (let d : RunDesc := { oneRun.desc with klen := 256, nrow := 1, cpred := true }
     let s := (up.modTile t0 fun x => { x with mxe := { x.mxe with queued := some d } }).modEng t0 1 0 fun x => { x with queue := [.ready (.data (List.replicate 32 0) true)] }
     Matrix.loadFor (s.tile t0).mxe = some d ∧ d.cpred = true ∧ (Matrix.shadow (s.tile t0).mxe) = {} ∧
     StreamCtx.head (s.eng t0 1 0) = some (.data (List.replicate 32 0) true)) ∧
    (let d : RunDesc := { oneRun.desc with klen := 256, nrow := 1 }
     let s := (up.modTile t0 fun x => { x with mxe := { x.mxe with queued := some d } }).modEng t0 1 0 fun x => { x with queue := [.ready (.data onesRow true)] }
     Matrix.loadFor (s.tile t0).mxe = some d ∧ d.cpred = false ∧ WeightBuf.full (Matrix.shadow (s.tile t0).mxe) = false ∧
     StreamCtx.head (s.eng t0 1 0) = some (.data onesRow true) ∧ onesRow.length = engineRowBytes d.fmt) ∧
    (let s := passState false
     ((s.tile t0).mxe.run.any fun r => s.canAct t0 r.desc.ctx && !r.swapped) = true ∧ WeightBuf.full (Matrix.shadow (s.tile t0).mxe) = true) := by
  decide +kernel

theorem wit_MatrixEngine_row :
    (let s := passState true
     ((s.tile t0).mxe.run.any fun r => s.canAct t0 r.desc.ctx && r.swapped && s.accBound t0 r.desc.ctx (runRow r) &&
       checkRow r.desc.fmt (readRow r.desc.fmt r.desc.klen onesRow)
        ((Matrix.loaded (s.tile t0).mxe).rows.map (readRow r.desc.fmt r.desc.klen)) (Matrix.loaded (s.tile t0).mxe).check) = true ∧
     StreamCtx.head (s.eng t0 0 0) = some (.data onesRow true) ∧ onesRow.length = engineRowBytes .bs8 ∧
     (s.tile t0).mxe.redo = 0 ∧ (s.tile t0).mxe.inject = (0, 0) ∧ s.fld (tileCa t0 0x02 0) 11 8 = 2 ∧ s.resBad = []) ∧
    (let s := (passState true).modTile t0 fun x => { x with mxe := { x.mxe with run := some { oneRun with desc := { oneRun.desc with rpred := true }, swapped := true } } }
     let s := s.modEng t0 0 0 fun x => { x with queue := [.ready (.data onesRow false)] }
     ((s.tile t0).mxe.run.any fun r => s.canAct t0 r.desc.ctx && r.swapped && r.desc.rpred && onesRow.length == engineRowBytes r.desc.fmt) = true ∧
     (s.tile t0).mxe.redo = 0 ∧ StreamCtx.head (s.eng t0 0 0) = some (.data onesRow false)) := by decide +kernel

theorem test_row_retry : (let s := after (.rowPass t0 ⟨1, 0, [], 0⟩) (passState true)
    (s.tile t0).mxe.hold = 10 ∧ s.bit (mxeFlagsCa t0) 8 = true ∧
    (let u := after (.bundleIssue t0 [] 0) s
     (u.tile t0).mxe.hold = 9 ∧ (u.ctx t0 0).cause = 6)) := by decide +kernel

theorem test_row_pass : (after (.rowPass t0 ⟨0, 0, [], 0⟩) (passState true)).reg (accCa t0 3 255) = w48Word (.fin (2 ^ 46) (-43)) 0 := by decide +kernel

theorem wit_EngineControls : up.serves 0 = true ∧ up.rind.load = none ∧ up.level = 0 ∧
    (let s := up.setFld dbgUnlockCa 9 8 2
     s.serves 0 = true ∧ s.level = 2) ∧ tget false up.resBad (accCa t0 5 6) = false ∧
    (let s := up.upsetAcc t0 5 [6]
     s.serves 0 = true ∧ tget false s.resBad (accCa t0 5 6) = true) := by decide +kernel

theorem test_acc_window : (after (.accWindowWrite t0 5 6 0xFFF false false) up).reg (accCa t0 5 6) = 0xFFC ∧
    ((after (.checkInject t0 3 4) (up.setFld dbgUnlockCa 9 8 2)).tile t0).mxe.inject = (3, 4) := by decide +kernel

theorem wit_Chain :
    (let q : Invocation := { ctx := 0, cfg := 0, row := 3, nrows := 1 }
     let s := run0.modTile t0 fun x => { x with chain := { x.chain with queued := some q } }
     s.canAct t0 q.ctx = true ∧ (s.tile t0).chain.queued = some q ∧ Chain.mayStart (s.tile t0).chain q = true) ∧
    (let h : Word := BitVec.ofNat 64 (1 <<< 52 + 1 <<< 58)
     let s := (chainState h 0).modEng t0 0 0 fun x => { x with queue := [.ready (.data (List.replicate 2048 7) true)] }
     s.canAct t0 0 = true ∧ preloads h = 1 ∧ sideEngine h = 0 ∧ (s.tile t0).chain.loaded = 0 ∧ (s.tile t0).chain.out = [] ∧
     StreamCtx.head (s.eng t0 0 0) = some (.data (List.replicate 2048 7) true)) ∧
    (let s := chainState 0 (BitVec.ofNat 64 (4 <<< 61))
     s.canAct t0 0 = true ∧ ((s.tile t0).chain.run.any fun v => cfgOk v.words && cfgStages v.words == [] && cfgSidekind (v.words.getD 0 0) == 0 &&
       preloads (v.words.getD 0 0) == 0 && s.accBound t0 0 v.row) = true ∧ s.resBad = []) ∧
    (let s := run0.modTile t0 fun x => { x with chain := { x.chain with out := [(0, .data [1] true)] } }
     s.canAct t0 0 = true ∧ s.placeBlock t0 = false) := by decide +kernel

theorem test_chain_preload :
    (let h : Word := BitVec.ofNat 64 (1 <<< 52 + 1 <<< 58)
     let s := (chainState h 0).modEng t0 0 0 fun x => { x with queue := [.ready (.data (List.replicate 2048 7) true)] }
     ((after (.preloadRead t0) s).tile t0).chain.loaded = 1) := by decide +kernel

theorem wit_CompareAndCountOnAWord : up.inBounds t0 0 64 8 = true ∧ up.wordErr (padAddr t0 64) = 0 ∧ up.rind.load = none ∧
    up.inBounds t0 1 64 8 = false := by decide +kernel

theorem test_cac :
    (let s := State.setBytes up (padAddr t0 64) [5]
     (after (.cnt (.bank t0 0 64) 7 ⟨1, 0, 0⟩) s).padWordAt t0 64 = 12 ∧
     (after (.cntlt (.bank t0 0 64) 5 ⟨1, 0, 0⟩) s).padWordAt t0 64 = 5 ∧
     (after (.ceq (.bank t0 0 64) 5 ⟨1, 0, 0⟩) s).padWordAt t0 64 = 6 ∧
     (after (.semdn (.bank t0 0 64) 5 ⟨1, 0, 0⟩) s).padWordAt t0 64 = 0 ∧
     ((after (.semdn (.bank t0 0 64) 6 ⟨1, 0, 0⟩) s).tile t0).bankOut = [5, 0, 0, 0, 0, 0, 0, 0, 1]) ∧
    (after (.lacq (.bank t0 0 64) 0 ⟨3, 2, 9⟩) up).padWordAt t0 64 = 0x0009003800000001 ∧
    (after (.lrel (.bank t0 0 64) 0 ⟨3, 2, 9⟩) (after (.lacq (.bank t0 0 64) 0 ⟨3, 2, 9⟩) up)).fld 0 0 0 = 0 ∧
    (after (.lrst (.bank t0 0 64) 0 ⟨3, 2, 9⟩) (after (.lacq (.bank t0 0 64) 0 ⟨3, 2, 9⟩) up)).padWordAt t0 64 = 0 := by decide +kernel

def bankReq (who : Fin 6) (off : BitVec 25) (op : BankOp) : BankReq := { who := who, job := none, off := off, op := op }

theorem wit_BanksStoresCountersAndEpochs :
    (let r := bankReq 1 504 (.write [1, 2])
     let q := bankReq 3 504 (.write [9, 9])
     bankReqOk r = true ∧ bankReqOk q = true ∧ bankOf r = bankOf q ∧ r.who.val < q.who.val ∧ up.ecc = []) ∧
    (let r := bankReq 1 8 (.write [1, 2])
     let q := bankReq 3 (8 + 2 ^ 19) (.write [9, 9])
     bankReqOk r = true ∧ bankReqOk q = true ∧ bankOf r ≠ bankOf q) ∧ bankReqOk (bankReq 3 511 (.read 1)) = true ∧
    up.inBounds t0 0 8 16 = true ∧ up.serves 0 = true ∧ up.rind.load = none ∧ Ctx.live (up.ctx t0 0) = false ∧
    (up.setReg (cycCa t0 0) (2 ^ 48 - 1)).fld (cycCa t0 0) 47 0 = 2 ^ 48 - 1 ∧ up.net = [] := by decide +kernel

theorem test_bank_order :
    (let s := after (.bankAccess t0 [] [bankReq 3 8 (.write [9, 9]), bankReq 1 8 (.write [1, 2])]) up
     s.byte (padAddr t0 8) = 1 ∧ s.byte (padAddr t0 9) = 2) ∧
    (let s := after (.bankAccess t0 [] [bankReq 3 (8 + 2 ^ 19) (.write [9, 9]), bankReq 1 8 (.write [1, 2])]) up
     s.byte (padAddr t0 8) = 1 ∧ s.byte (padAddr t0 (8 + 2 ^ 19)) = 9) ∧
    (after (.counterWrap (caOf (cycCa t0 0)) 2) (up.setReg (cycCa t0 0) (2 ^ 48 - 1))).fld (cycCa t0 0) 47 0 = 1 ∧
    (after (.istoreWrite (caOf (tileCa t0 0x10 32)) 5) up).reg (tileCa t0 0x10 32) = 5 ∧
    (after (.epochNotice (some 0) 7 9) up).fld (eptabCa t1 7) 15 0 = 9 := by decide +kernel

theorem wit_StreamControl :
    ([sop 0 0, sop 1 7, sop 2 7, sop 3 0, sop 4 7, sop 5 3, sop 6 3, sop 7 3, sop 12 9, sop 12 (2 ^ 51), sop 17 4, sop 15 2].all fun w =>
      nextIs (progState 1 w) 1 w) = true ∧
    nextIs (progState 0 (sop 13 40)) 0 (sop 13 40) = true ∧ nextIs (progState 0 (sop 14 64)) 0 (sop 14 64) = true ∧
    ((progState 1 (sop 3 0)).strFetch t0 1 0).map (fun p => p.1.cacTag) = some none ∧
    (let s := (progState 1 (sop 3 0)).modEng t0 1 0 fun x => { x with run := some { prog := 0, ip := 0, par := 5, cacTag := some 2 } }
     nextIs s 1 (sop 3 0) = true) ∧
    (let s := (progState 1 (sop 5 3)).modEng t0 1 0 fun x => { x with run := some { prog := 0, ip := 0, par := 5, cn := [1, 0, 0, 0] } }
     nextIs s 1 (sop 5 3) = true) ∧
    (let s := (progState 1 (sop 5 3)).modEng t0 1 0 fun x => { x with run := some { prog := 0, ip := 0, par := 5, cn := [2 ^ 24 - 1, 0, 0, 0] } }
     nextIs s 1 (sop 5 3) = true) ∧
    StreamCtx.room ((progState 0 0).eng t0 0 0) 1 = true ∧ StreamCtx.fits ((progState 0 0).eng t0 0 0) 1 = true ∧
    ((progState 1 (sop 6 24)).strFetch t0 1 0).isSome = true ∧ streamReserved 1 (sop 6 24) = true := by decide +kernel

theorem test_stream_control :
    ((after (.ixset t0 1 0) (progState 1 (sop 1 (7 + 2 ^ 52 + 2 ^ 57)))).eng t0 1 0).run.map (fun r => (r.ip, r.ix)) = some (1, [0, 12, 0, 0]) ∧
    ((after (.maskn t0 0 0) (progState 0 (sop 13 9))).eng t0 0 0).queue =
      [.ready (.data ([0xFF, 0x01] ++ List.replicate 30 0) true)] ∧
    ((after (.streamDjnz t0 1 0) (progState 1 (sop 5 3))).eng t0 1 0).run.map (·.ip) = some 3 ∧
    ((after (.streamEnd t0 0 0) (progState 0 0)).eng t0 0 0).queue = [.ready (.token 1)] := by decide +kernel

def lineWord : Word := sop 9 (15 * 2 ^ 32)
def rowWord (nrd : Nat) : Word := sop 8 (nrd * 2 ^ 43)

/-- The descriptor and the tags of an access that is the next instruction of an engine, as a test. -/
def accessAt (s : State) (e : Fin 3) (w : Word) (p : TensorDesc → Way → Bool) : Bool :=
  nextIs s e w && (s.strDesc t0 e 0 { prog := 0, ip := 0, par := 5 } w).any fun d =>
    s.tagsFor t0 d (accessAddrs { prog := 0, ip := 0, par := 5 } w d) && p d (s.way t0 d.loc d.xm (lineAt d { prog := 0, ip := 0, par := 5 } w))

def isNet : Way → Bool
  | .net _ _ _ => true
  | _ => false

def holding (s : State) (e : Fin 3) (n : Nat) (p : Bool) : State := s.modEng t0 e 0 fun x => { x with queue := [.ready (.data (List.replicate n 9) p)] }

/-- The second word of a descriptor whose scales lie 64 bytes beyond its mantissas. -/
def scales64 : Word := 64 <<< 40

/-- A ROW under the predicate, and a program whose predicate limit makes it false. -/
def predRow : Word := sop 8 (2 ^ 52 + 2 ^ 43)
def falsePred (e : Fin 3) : State :=
  (descState e predRow bs8Loc scales64).modEng t0 e 0 fun x => { x with run := some { prog := 0, ip := 0, par := 5, plim := 0 } }

theorem wit_StreamReads_line :
    (let s := descState 0 lineWord rawLoc 0
     accessAt s 0 lineWord (fun d k => d.fmt.isNone && k == .own 4096) = true ∧
     StreamCtx.room (s.eng t0 0 0) 1 = true ∧ s.inBounds t0 (s.jobOf t0 0).val 4096 2048 = true ∧ s.ecc = [] ∧ s.rind.load = none) ∧
    accessAt (descState 0 lineWord rawFar 0) 0 lineWord (fun d k => d.fmt.isNone && isNet k) = true ∧
    (let s := holding (descState 2 lineWord rawLoc 0) 2 16 true
     accessAt s 2 lineWord (fun d k => d.fmt.isNone && k == .own 4096) = true ∧ StreamCtx.head (s.eng t0 2 0) = some (.data (List.replicate 16 9) true)) ∧
    (let s := holding (descState 2 lineWord rawFar 0) 2 16 true
     accessAt s 2 lineWord (fun d k => d.fmt.isNone && isNet k) = true ∧ StreamCtx.head (s.eng t0 2 0) = some (.data (List.replicate 16 9) true)) ∧
    (let s := holding (descState 2 lineWord rawLoc 0) 2 15 true
     accessAt s 2 lineWord (fun d _ => d.fmt.isNone) = true ∧ StreamCtx.head (s.eng t0 2 0) = some (.data (List.replicate 15 9) true)) := by decide +kernel

theorem wit_StreamReads_row :
    (let ws := (descState 0 (rowWord 1) bs8Loc scales64).strDesc t0 0 0 { prog := 0, ip := 0, par := 5 } (rowWord 1)
     (rowFields { prog := 0, ip := 0, par := 5 } (rowWord 1)).nrd = 1 ∧ (rowFields { prog := 0, ip := 0, par := 5 } (rowWord 1)).pred = true ∧
     (ws.any fun d => d.fmt == some .bs8 &&
        [0, 2].all fun e : Fin 3 => let s := descState e (rowWord 1) bs8Loc scales64
          match s.way t0 d.loc d.xm (mantAddr d .bs8 0 0), s.way t0 d.loc d.xm (scaleAddr d 0 0) with
          | .own om, .own os => s.inBounds t0 0 om 32 && s.inBounds t0 0 os 1 && decide (om + 32 ≤ os ∨ os + 1 ≤ om)
          | _, _ => false) = true) ∧
    accessAt (descState 0 (rowWord 1) bs8Loc scales64) 0 (rowWord 1) (fun d _ => d.fmt == some .bs8) = true ∧
    accessAt (holding (descState 2 (rowWord 1) bs8Loc scales64) 2 33 true) 2 (rowWord 1) (fun d _ => d.fmt == some .bs8) = true ∧
    (let s := falsePred 0
     nextIs s 0 predRow = true ∧ ((s.strFetch t0 0 0).any fun p => !(rowFields p.1 predRow).pred) = true) ∧
    (let s := holding (falsePred 2) 2 33 true
     ((s.strFetch t0 2 0).any fun p => p.2 == predRow && !(rowFields p.1 predRow).pred && (s.strDesc t0 2 0 p.1 predRow).isSome) = true) := by decide +kernel

theorem wit_StreamReads_cac_accx :
    accessAt (descState 0 (sop 10 (2 ^ 49)) rawLoc 0) 0 (sop 10 (2 ^ 49)) (fun d k => d.fmt.isNone && k == .own 4096) = true ∧
    accessAt (descState 0 (sop 10 (2 ^ 49)) rawFar 0) 0 (sop 10 (2 ^ 49)) (fun d k => d.fmt.isNone && isNet k) = true ∧ cacOpOf 1 = some .cnt ∧
    nextIs (descState 2 (sop 11 0) rawLoc 0) 2 (sop 11 0) = true ∧ nextIs (descState 0 (sop 11 0) rawLoc 0) 0 (sop 11 0) = true ∧
    ((descState 0 (sop 11 0) rawLoc 0).strDesc t0 0 0 { prog := 0, ip := 0, par := 5 } (sop 11 0)).map (fun d => (d.fmt.isNone, d.loc, d.xm)) = some (true, true, false) ∧
    (descState 0 (sop 11 0) rawLoc 0).accBound t0 0 0 = true ∧ (descState 0 (sop 11 0) rawLoc 0).inBounds t0 0 4096 2048 = true ∧
    (descState 0 (sop 11 0) rawLoc 0).resBad = [] := by decide +kernel

theorem test_stream_line :
    ((after (.line t0 0 0) (State.setBytes (descState 0 lineWord rawLoc 0) (padAddr t0 4096) [1, 2])).eng t0 0 0).queue =
      [.ready (.data (1 :: 2 :: List.replicate 14 0) true)] ∧
    (after (.line t0 2 0) ((descState 2 lineWord rawLoc 0).modEng t0 2 0 fun x => { x with queue := [.ready (.data (List.replicate 16 9) true)] })).byte
      (padAddr t0 4111) = 9 := by decide +kernel

def mcWord : Word := sop 9 (15 * 2 ^ 32 + 2 ^ 51 + 5)
def brzWord : Word := sop 9 (15 * 2 ^ 32 + 2 ^ 52)
def rawLogical : Word := BitVec.ofNat 64 (3 * 2 ^ 62 + 0x40002000000000 + 0x2000000)

theorem wit_Multicast_in :
    nextIs (progState 0 (sop 16 (2 ^ 24 + 3))) 0 (sop 16 (2 ^ 24 + 3)) = true ∧
    (let s := (descState 0 mcWord rawLoc 0).setReg (mcgCa 0 5 0) 2
     let s := s.modTile t0 fun x => { x with mcCredit := [(creditKey 0 0 5 0, 1), (creditKey 0 0 5 1, 2)] }
     nextIs s 0 mcWord = true ∧ s.groupSize 0 5 = 2 ∧ ((s.strDesc t0 0 0 { prog := 0, ip := 0, par := 5 } mcWord).any fun d =>
       d.fmt.isNone && s.way t0 d.loc d.xm (lineAt d { prog := 0, ip := 0, par := 5 } mcWord) == .own 4096) = true ∧ s.inBounds t0 0 4096 16 = true ∧
     tget 0 (s.tile t0).mcCredit (creditKey (sin 0) 0 5 0) = 1 ∧ tget 0 (s.tile t0).mcCredit (creditKey (sin 0) 0 5 1) = 2 ∧
     tget 0 ((descState 0 mcWord rawLoc 0).tile t0).mcCredit (creditKey (sin 0) 0 5 1) = 0) := by decide +kernel

theorem wit_Multicast_out :
    (let s := (descState 2 mcWord rawLogical 0).modEng t0 2 0 fun x => { x with queue := [.ready (.data (List.replicate 16 9) true)] }
     nextIs s 2 mcWord = true ∧ s.tagsFree t0 1 = true ∧ ((s.strDesc t0 2 0 { prog := 0, ip := 0, par := 5 } mcWord).any fun d =>
       d.fmt == none && !d.loc && !d.xm && lineAt d { prog := 0, ip := 0, par := 5 } mcWord / 2 ^ 37 == 0x20001) = true) ∧
    (let s := (descState 2 brzWord rawLogical 0).modEng t0 2 0 fun x => { x with queue := [.ready (.data (List.replicate 16 9) true)] }
     nextIs (s.vcbAge t0 0) 2 brzWord = true ∧ s.tagsFree t0 1 = true ∧ (s.vcbAge t0 0).vcbRoom t0 = true ∧
     ((s.strDesc t0 2 0 { prog := 0, ip := 0, par := 5 } brzWord).any fun d =>
       let a := lineAt d { prog := 0, ip := 0, par := 5 } brzWord
       d.fmt.isNone && breezeOk d a && match s.way t0 d.loc d.xm a with | .net _ _ _ => true | _ => false) = true) := by decide +kernel

/-- The head of a member's packet about group 5: member 1's. -/
def headOfMember : Head := { headTo0 with dlog := false, mcg := some { group := 5, member := some 1 } }

theorem wit_Multicast_rest :
    (let s := up.modTile t0 fun x => { x with txns := [(3, some (.entry 0 0 0 0 0))] }
     tget none (s.tile t0).txns 3 = some (.entry 0 0 0 0 0) ∧ (s.eng t0 0 0).gen = 0) ∧
    (let s := (up.modTile t0 fun x => { x with txns := [(3, some (.entry 0 0 1 0 0))] })
     (s.eng t0 0 0).gen.toNat ≠ 1) ∧
    (let s := up.modEng t0 1 0 fun x => { x with queued := some (2, 9), waiting := [7] }
     s.clocked 0 = true ∧ (s.eng t0 1 0).run = none ∧ (s.eng t0 1 0).queued = some (2, 9) ∧ (s.eng t0 (sin 1) 0).waiting = [7] ∧
     StreamCtx.fits (s.eng t0 (sin 1) 0) 1 = true) ∧ ((progState 0 0).eng t0 0 0).run.isSome = true ∧
    reaches0 up headOfMember (.mcCredit 1 2 4) = true ∧ up.tagOk headOfMember 0 0 = true ∧
    reaches0 (flying headOfMember (.mcCredit 1 2 4) (.site 0)) headOfMember (.mcCredit 1 2 4) = true := by decide +kernel

theorem test_multicast : (after (.mrx t0 0 0 t1 1 2 5) (progState 0 (sop 16 (2 ^ 24 + 3)))).net.length = 3 ∧
    tget 0 ((after (.multicastCredit headOfMember 1 2 4) up).tile t0).mcCredit (creditKey (sin 1) 2 5 1) = 1 ∧
    ((after (.queuedProgramStart t0 1 0) (up.modEng t0 1 0 fun x => { x with queued := some (2, 9) })).eng t0 1 0).run.map (·.par) = some 9 := by
  decide +kernel

theorem wit_RequestsAtATile : reaches0 up headTo0 (.rd 64 8) = true ∧ up.tagOk headTo0 0 0 = true ∧ headTo0.mcg = none ∧
    reaches0 (flying headTo0 (.rd 64 8) (.site 0)) headTo0 (.rd 64 8) = true ∧
    reaches0 up headTo0 (.wr 64 (List.replicate 8 1)) = true ∧ reaches0 up headTo0 (.bzw 64 (List.replicate 8 1)) = true ∧
    reaches0 up headTo0 (.regrd (caOf (tileCa t0 2 0x300))) = true ∧ reaches0 up headTo0 (.regwr (caOf (tileCa t0 2 0x300)) 5) = true ∧
    readLenOk 8 = true ∧ writeLenOk (List.replicate 8 1) = true ∧ breezeLenOk (List.replicate 8 1) = true ∧
    up.padAdmits t0 headTo0 64 8 = true ∧ up.ecc = [] ∧ up.rind.load = none ∧
    reaches0 up { headTo0 with job := 1 } (.rd 64 8) = true ∧ up.tagOk { headTo0 with job := 1 } 0 0 = true ∧ up.padAdmits t0 { headTo0 with job := 1 } 64 8 = false ∧
    reaches0 up { headTo0 with ntag := 1 } (.rd 64 8) = true ∧ up.tagOk { headTo0 with ntag := 1 } 0 0 = false ∧
    reaches0 up headOfMember (.wr 64 [1]) = true ∧ up.tagOk headOfMember 0 0 = true := by decide +kernel

theorem test_requests : (after (.wr headTo0 64 (List.replicate 8 7)) up).byte (padAddr t0 71) = 7 ∧
    (after (.rd headTo0 64 8) (after (.wr headTo0 64 (List.replicate 8 7)) up)).net.map (·.body) =
      [.wack .done, .rdata .done (List.replicate 8 7) false] := by decide +kernel

/-- Tile site 0 holding a place for entry 0 of group 5, and the table of field 0 with tile 0 as that group's member 1. -/
def memberState : State :=
  (up.setReg (mcgCa 0 5 1) 0).modEng t0 0 0 fun x =>
    { x with queue := [.reserved { id := 0, units := 1, missing := 1, size := 16, parts := [], fill := .raw, bad := false, pred := true, multicast := some (5, 0) }] }

theorem wit_ResponsesAndTokens :
    (let s := up.modTile t0 fun x => { x with txns := [(0, some (.entry 0 0 0 0 0))] }
     reaches0 s headTo0 (.rdata .done [1] false) = true ∧ s.tagOk headTo0 0 0 = true ∧ tget none (s.tile t0).txns 0 = some (.entry 0 0 (s.eng t0 0 0).gen.toNat 0 0)) ∧
    (let k := memberState.member 0 5 1
     reaches0 memberState headOfMember (.rdata .done [1] false) = true ∧ memberState.tagOk headOfMember 0 0 = true ∧ (memberState.eng t0 k.eng k.ctx).gen = 0 ∧
     (memberState.eng t0 k.eng k.ctx).queue.any (Place.isFor { group := 5 }) = true) ∧
    (let s := up.modTile t0 fun x => { x with txns := [(0, some (.write 0))] }
     reaches0 s headTo0 (.wack .done) = true ∧ reaches0 s headTo0 (.bzack .addrErr) = true ∧ tget none (s.tile t0).txns 0 = some (.write 0)) ∧
    (let r : StreamRun := { prog := 0, ip := 0, par := 0, cacTag := some 0 }
     let s := (up.modTile t0 fun x => { x with txns := [(0, some (.cac 1 0))] }).modEng t0 1 0 fun x => { x with run := some r }
     reaches0 s headTo0 (.cacr .done 0 7) = true ∧ (s.eng t0 1 0).run = some r ∧ r.cacTag = some headTo0.tag ∧ tget none (s.tile t0).txns 0 = some (.cac 1 0)) ∧
    reaches0 (inState 0 .stopped) headTo0 (.tok 0 65) = true ∧ ((inState 0 .stopped).ctx t0 0).state ≠ .empty ∧
    ((inState 0 .stopped).jobOf t0 0 = headTo0.job ∧ ((inState 0 .stopped).ctx t0 0).tokens = []) ∧
    (up.ctx t0 0).state = .empty ∧
    (let s := up.modCtx t0 0 fun _ => { state := .stopped, tokens := List.replicate 16 65 }
     reaches0 s headTo0 (.tok 0 65) = true ∧ (s.ctx t0 0).tokens.length = 16) := by decide +kernel

theorem test_token : ((after (.tokenArrive headTo0 0 0x41) (inState 0 .stopped)).ctx t0 0).tokens = [0x41] ∧
    (after (.tokenArrive headTo0 0 0x41) up).bit (seqFlagsCa t0) 3 = true := by decide +kernel

/-- The first flit move of packet n at place k, and whether it is granted. -/
def grantedMove (s : State) (n k : Nat) : Bool :=
  match s.net[n]? with
  | some p => !isReserved p.body && ((s.moveOf n p k).any fun m => m.k == k && s.nodeRuns m.from_ && s.nodeRuns m.to_ && s.granted m)
  | none => false

theorem wit_PacketsMove :
    grantedMove (flying headTo0 (.rd 64 8) .source) 0 0 = true ∧ headTo0.sfield = t1.field.val ∧ headTo0.ssite = t1.site.val ∧ headTo0.dfield = t1.field.val ∧
    grantedMove { fieldAt 4 with net := [packetAt { headTo0 with dfield := 3 } (.rd 64 8) .source], netSeq := 1 } 0 0 = true ∧ (fieldAt 4).bit (tileCa t1 0x08 0x10) 3 = false ∧
    grantedMove (flying headTo0 (.rd 64 8) (.station 0)) 0 0 = true ∧ (flying headTo0 (.rd 64 8) (.station 0)).siteOf 0 0 = some t0 ∧
    (let s : State := { flying headTo0 (.wr 64 (List.replicate 200 1)) (.station 0) with
       net := [{ packetAt headTo0 (.wr 64 (List.replicate 200 1)) (.station 0) with trail := [⟨.station 0, false, 0, [false]⟩] }] }
     grantedMove s 0 1 = true) ∧
    (let h : Head := { headTo0 with dsite := 40 }
     let s := flying h (.rd 64 8) (.station 0)
     s.net[0]? = some (packetAt h (.rd 64 8) (.station 0)) ∧ (packetAt h (.rd 64 8) (.station 0)).loc = .station 0 ∧ s.nodeRuns (.station 0) = true ∧
     s.behind (packetAt h (.rd 64 8) (.station 0)) = false) ∧
    (let s := (flying { headTo0 with dsite := 39 } (.rd 64 8) (.station 0)).setReg (tilemapCa 0 39) 0
     s.siteOf 0 39 = none) ∧ (answerOf .addrErr (.rd 64 8)).isSome = true ∧
    (let a := packetAt headTo0 (.rd 64 8) (.station 0)
     let b := packetAt headTo0 (.wack .done) (.station 0)
     let s : State := { up with net := [a, b], netSeq := 1 }
     match s.moveOf 0 a 0, s.moveOf 1 b 0 with
     | some m, some o => FlitMove.rival m o && decide (o.vc < m.vc) && s.moves.contains o && (s.credit m.from_ m.to_ m.vc m.detour).isSome &&
        (s.credit o.from_ o.to_ o.vc o.detour).isSome
     | _, _ => false) = true ∧
    up.serves 0 = true ∧ up.net = [] := by decide +kernel

/-- Group 5 at the station of field 0, with tiles 1 and 2 of the field as its members. -/
def groupState : State :=
  ((flying headToGroup (.wr 64 [1]) (.station 0)).setReg (mcgCa 0 5 0) (BitVec.ofNat 64 (2 ^ 63 + 2))).setReg (mcgCa 0 5 1) (BitVec.ofNat 64 (1 + 2 * 65536))

theorem wit_Multicasts :
    (let p := packetAt headToGroup (.wr 64 [1]) (.station 0)
     let s := flying headToGroup (.wr 64 [1]) (.station 0)
     s.net[0]? = some p ∧ p.loc = .station 0 ∧ s.behind p = false ∧ p.head.mcg = some { group := 5 } ∧ p.head.dfield = 0x3E ∧ 0 < Packet.held p 0 ∧ p.copied = 0 ∧
     Packet.cameBy p 0 = none ∧ s.groupOk 0 { group := 5 } 0 = false) ∧
    (let p := packetAt headToGroup (.wr 64 [1]) (.station 0)
     let s := groupState
     let bs := s.branches 0 p { group := 5 }
     s.groupOk 0 { group := 5 } 0 = true ∧ needsTracker p.body = true ∧ (s.fieldSt 0).trackers = [] ∧ p.seq < s.netSeq ∧ bs.length = 2 ∧
     s.fanRoom (.station 0) (vcOf (kindOf p.body)) (bs.map (·.to_)) = true ∧
     (bs.all fun b => s.branchReady 0 (.station 0) (vcOf (kindOf p.body)) b.to_ true) = true) ∧
    (groupState.setReg (mcgCa 0 5 0) (BitVec.ofNat 64 (2 ^ 63))).branches 0 (packetAt headToGroup (.wr 64 [1]) (.station 0)) { group := 5 } = [] ∧
    (let k : Tracker := ⟨headTo0, 5, [some .done, some .addrErr]⟩
     ((up.modField 0 fun x => { x with trackers := [k] }).fieldSt 0).trackers[0]? = some k ∧ k.status.all Option.isSome = true) := by decide +kernel

theorem test_forward :
    ((after (.packetForward 0 0) (flying headTo0 (.rd 64 8) .source)).net.map (·.loc)) = [.station 0] ∧
    ((after (.packetForward 0 0) (flying headTo0 (.rd 64 8) (.station 0))).net.map (·.loc)) = [.site 0] ∧
    ((after (.multicastReplicate 0) groupState).net.map (·.head.dsite)) = [1, 2] := by decide +kernel

theorem wit_Links :
    (let s := up.setFld (jetLinkCa 0 7) 2 0 2
     s.serves 0 = true ∧ s.fld (jetLinkCa 0 7) 2 0 = 2 ∧ s.fld (stationCa 0 0 0) 15 8 ≤ 255 ∧ 1 < s.fld (stationCa 0 0 0) 15 8) ∧
    (exec (.packetForward 0 0) ((flying headTo0 (.rd 64 8) .source).raise (netCa 0 0x34 8) 7) matches .next _) = true ∧
    ownsLink 0 7 = true ∧ linkBundles 7 = 195 ∧ up.spareFree 0 7 false 5 = true ∧ up.fld (stationCa 0 0 0) 31 16 ≤ 65535 ∧
    (up.setFld (stationCa 0 0 0) 0 0 1).bit (stationCa 0 0 0) 0 = true ∧ (up.setFld (stationCa 0 0 0) 0 0 0).bit (stationCa 0 0 0) 0 = false ∧
    up.bit (jetSparecmdCa 0) 63 = false ∧ up.rind.load = none ∧ (up.setFld (jetSparecmdCa 0) 63 63 1).bit (jetSparecmdCa 0) 63 = true := by decide +kernel

theorem test_sparecmd :
    ((after (.sparecmd (caOf (jetSparecmdCa 0)) (BitVec.ofNat 64 (7 <<< 40 + 5 <<< 30 + 3 <<< 26))) up).fieldSt 0).switches = [⟨7, false, 5, 3, true⟩] ∧
    (after (.flitReplay 0 none (some 7) 255 0 0) (up.setFld (jetLinkCa 0 7) 2 0 2)).fld (jetLinkCa 1 6) 2 0 = 3 := by decide +kernel

theorem wit_Trees :
    treeState.serves 0 = true ∧ treeState.trtFind t0 17 = some 3 ∧ (treeState.trtEntry t0 3).job = 0 ∧ treeState.tagOk headTo0 0 0 = true ∧ headTo0.dsite < 42 ∧
    treeState.mayTake headTo0 (.red (redOnes 1)) = true ∧ (treeState.redEntry 0 0 17).isSome = true ∧ up.redEntry 0 0 17 = none ∧
    (treeState.tile t0).redSlots = [] ∧ up.trtFind t0 17 = none ∧ (treeState.trtEntry t0 3).parent = some (0, 0x34) ∧
    (let s := after (.red headTo0 (redOnes 1) []) treeState
     (s.redSlot 0 0 49).map (fun y => (y.chunk, y.body.q)) = some ((redOnes 1).chunk, (redOnes 1).q) ∧ s.trtFind t0 17 = some 3) ∧
    (let s := after (.red headTo0 (redOnes 1) []) (after (.red headTo0 (redOnes 1) []) treeState)
     ((s.redEntry 0 0 17).any fun e => (s.redSlot 0 0 (e.base + 1)).any fun y => decide (e.nin ≤ y.got) && s.redCredit 0 0 e != 0 && e.parent == some (0, 0x34)) = true) ∧
    (let s := (up.modField 0 fun x => { x with rootOut := [(17, 0, redOnes 3)] }).setReg (rtreeCa 0 17 0) (BitVec.ofNat 64 (3 <<< 27 + 2 <<< 19))
     s.fld (rtreeCa 0 17 0) 26 25 = 0 ∧ s.siteOf 0 2 = some ⟨0, 2⟩ ∧ s.fld (rtreeCa 0 17 0) 39 27 = 3 ∧
     s.inBounds ⟨0, 2⟩ 0 (512 * bits (s.reg (rtreeCa 0 17 1)) 63 48 + 128 * (5 % bits (s.reg (rtreeCa 0 17 1)) 47 32)) 128 = true) ∧
    ((up.modField 0 fun x => { x with rootOut := [(17, 0, redOnes 3)] }).setReg (rtreeCa 0 17 0) (BitVec.ofNat 64 (3 <<< 27 + 2 <<< 25))).fld (rtreeCa 0 17 0) 26 25 = 2 ∧
    treeState.fld (trtCa t0 3 1) 4 0 ≠ 0 ∧ (treeState.trtEntry t0 3).nin = 2 ∧
    (let s := (up.modField 0 fun x => { x with rootOut := [(17, 0, redOnes 3)] }).setReg (rtreeCa 0 17 0) (BitVec.ofNat 64 (3 <<< 27 + 1 <<< 25 + 2 <<< 19))
     (s.fieldSt 0).rootOut[0]? = some (17, 0, redOnes 3) ∧ s.fld (rtreeCa 0 17 0) 26 25 = 1 ∧ (s.siteOf 0 (s.fld (rtreeCa 0 17 0) 24 19)).isSome = true ∧
     s.fld (rtreeCa 0 17 0) 39 27 = 3) := by decide +kernel

theorem test_trees :
    (let s := after (.red headTo0 (redOnes 1) []) (after (.red headTo0 (redOnes 1) []) treeState)
     (tget none (s.tile t0).redSlots 49).map (fun x => (x.got, x.body.cnt, x.body.lanes.map (·.n))) = some (2, 2, List.replicate 10 2) ∧
     (after (.reductionResultSend 0 (some 0) 17 1) s).fld (trtCa t0 3 1) 4 0 = 1) := by decide +kernel

theorem wit_AVat_hit :
    (let s := vatState (some (line0 .e))
     s.clocked 0 = true ∧ s.vatTakes 0 8 (.rd 8 8) = true ∧ s.vatTakes 0 504 (.rd 504 8) = true ∧ s.vatTakes 0 8 (.wr 8 [7]) = true ∧
     s.vatTakes 0 8 (.cac 8 1 5 ⟨1, 0, 0⟩) = true ∧ cacOpOf 1 = some .cnt ∧ (s.vat 0).asked = [] ∧ tcGet (s.vat 0).tcache 0 = some pte0 ∧
     pteMapped pte0 = true ∧ pteJob pte0 0 = true ∧ pte0.getLsbD 59 = false ∧ Vat.missOf (s.vat 0) 0 = none ∧ (s.vat 0).pend = [] ∧
     Vat.find (s.vat 0) 0 = some (0, line0 .e) ∧ (line0 .e).errs = [] ∧ (line0 .e).bytes.length = 512) ∧
    Vat.find ((vatState none).vat 0) 0 = none ∧ tcGet (up.vat 0).tcache 0 = none ∧ (up.vat 0).asked = [] ∧ up.vatTakes 0 8 (.rd 8 8) = true ∧
    pteMapped 0 = false ∧ pteJob pte0 1 = false ∧
    (let p : Word := pte0 ||| 1 <<< 59
     pteMapped p = true ∧ p.getLsbD 59 = true) := by decide +kernel

def anAccess (op : VatOp) : VatAccess := ⟨0, 0, 8, op, 0⟩

theorem wit_AVat_miss :
    (let s := withGrants ((vatState none).modVat 0 fun v => { v with pend := [anAccess (.read 8)] }) (arbBase (.vat 0)) [1, 1, 1]
     (s.vat 0).pend = [anAccess (.read 8)] ∧ fillClass (.read 8) = 0 ∧ 0 < (s.arb (arbBase (.vat 0))).grants.getD 0 0 ∧ Vat.missOf (s.vat 0) 0 = none ∧
     tcGet (s.vat 0).tcache 0 = some pte0 ∧ (s.vat 0).miss.length < 256 ∧ Vat.find (s.vat 0) 0 = none) ∧
    (let m : Miss := ⟨0, [anAccess (.read 8)], none, .data, pte0⟩
     let s := (vatState none).modVat 0 fun v => { v with miss := [m] }
     s.mayTake headVat (.cohp .data { line := 0 }) = true ∧ s.tagOk headVat 0 0x31 = true ∧ headVat.dfield ≠ 0x3C ∧
     Vat.missOf (s.vat 0) 0 = some m ∧ Vat.find (s.vat 0) 0 = none ∧ Vat.place (s.vat 0) (vatSet 0) = some 0 ∧ tget none (s.vat 0).lines 0 = none) ∧
    (let m : Miss := ⟨0, [anAccess (.write [7])], none, .upgrade, pte0⟩
     let s := (vatState (some (line0 .s))).modVat 0 fun v => { v with miss := [m] }
     s.mayTake headVat (.cohp .upgAck { line := 0 }) = true ∧ Vat.missOf (s.vat 0) 0 = some m ∧ Vat.find (s.vat 0) 0 = some (0, line0 .s)) ∧
    (let s := vatState (some (line0 .m))
     Vat.find (s.vat 0) 0 = some (0, line0 .m) ∧ Vat.missOf (s.vat 0) 0 = none ∧
     ([CohRsp.fwdS, .fwdX, .inv, .putAck, .tinv].all fun k => s.mayTake headVat (.cohp k { line := 0, rqf := 0x3C })) = true ∧ (s.vat 0).miss = []) := by decide +kernel

theorem test_vat :
    (after (.vatRead 0 headVat 8 8) (vatState (some (line0 .e)))).net.map (·.body) = [.rdata .done (List.replicate 8 1) false] ∧
    ((after (.vatWrite 0 headVat 8 [7] none) (vatState (some (line0 .e)))).vat 0).lines.map (fun p => p.2.map fun l => (l.st, l.dirty, l.bytes.getD 8 0)) =
      [some (.m, 1, 7)] ∧
    ((after (.fwdx 0 headVat { line := 0, rqf := 3 }) (vatState (some (line0 .e)))).net.map (·.head.dfield)) = [3, 0] := by decide +kernel

theorem wit_AVatFlushes :
    (let s := (vatState (some (line0 .m))).modVat 0 fun v => { v with flush := some ⟨none, 0⟩ }
     (s.vat 0).flush = some ⟨none, 0⟩ ∧ Vat.flushKeys (s.vat 0) 0 none = [0] ∧ (s.vat 0).wb = [] ∧ Vat.missOf (s.vat 0) 0 = none) ∧
    (let s := (vatState (some (line0 .m))).modVat 0 fun v => { v with flush := some ⟨some 0, 0⟩ }
     (s.vat 0).flush = some ⟨some 0, 0⟩ ∧ Vat.flushKeys (s.vat 0) 0 (some 0) = [0] ∧ Vat.flushKeys (s.vat 0) 0 (some 1) = []) ∧
    ((up.modVat 0 fun v => { v with flush := some ⟨none, 4096⟩ }).vat 0).flush = some ⟨none, 4096⟩ ∧
    up.tagOk headVat 0 0x31 = true ∧ up.mayTake headVat (.cohp .tinv { line := 3 }) = true ∧ up.mayTake headVat (.cohp .xlatR { line := 3 }) = true ∧
    up.endpoint headVat (.cohp .xlatR { line := 3 }) = some (.spine 0 0x31) ∧ up.takes 0 (.cohp .xlatR { line := 3 }) = true ∧
    up.rind.power.stopped = [] ∧ (up.vat 0).held = [] ∧ (up.vat 0).miss = [] := by decide +kernel

theorem test_flush :
    (let s := (vatState (some (line0 .m))).modVat 0 fun v => { v with flush := some ⟨none, 0⟩ }
     (after (.flushAll 0) s).net.map (fun p => match p.body with | .cohq .putM _ => 1 | _ => 0) = [1]) ∧
    tcGet ((after (.xlatr headVat { line := 3, pte := pte0 }) up).vat 0).tcache 3 = some pte0 := by decide +kernel

/-- A cellar's accesses that wait, with a grant of its port for every requester. -/
def celOps (s : State) (l : List CelOp) : State := withGrants (s.modCellar 0 fun x => { x with ops := l }) (arbBase (.cellar 0)) [1, 1, 1, 1, 1]

/-- The home of field 0 with the memory read of a request of line 5 asked for. -/
def memState (k : CohReq) (st : Option DirSt) : State :=
  celOps ((cel.modHome 0 fun h => Home.setEntry h 5 st pte0).modHome 0 fun h => { h with slots := [⟨5, headHome, .coh k { line := 5 }, pte0, .mem⟩] })
    [⟨0, frameAddr pte0 2560, 512, none, 255, .txn 5⟩]

def celWrite : CelOp := ⟨1, frameAddr pte0 2560, 512, some (List.replicate 512 7), 1, .posted⟩

/-- Whether a message to the home of field 0's READY cellar can be taken. -/
def atHome (s : State) (b : Body) : Bool := s.mayTake headHome b && s.tagOk headHome 0 0x32 && s.cellarReady 0

theorem wit_AHome_requests :
    (headHome.dfield = 0 ∧ headHome.sfield < 48 ∧ ([CohReq.readS, .readX, .upgrade, .prec].all fun k => atHome cel (.cohq k { line := 5 })) = true ∧
      (cel.home 0).queue = [] ∧ (cel.home 0).recalls = []) ∧
    Home.busy (cel.home 0) 5 = false ∧ (cel.home 0).slots = [] ∧ Home.roomFor (cel.home 0) 5 = true ∧ Home.entry (cel.home 0) 5 = none ∧
    ([DirSt.shared 4, .shared 2, .shared 6, .owned 3].all fun d =>
      (Home.entry ((dirState d).home 0) 5).map (·.st) == some d && (dirState d).home 0 == { (dirState d).home 0 with queue := [], recalls := [], slots := [] } &&
      Home.roomFor ((dirState d).home 0) 5 && (dirState d).cellarReady 0) = true ∧
    (vatsOf 4).filter (· != 1) = [2] ∧ (vatsOf 2).filter (· != 1) = [] ∧ (6 : BitVec 48).getLsbD 1 = true ∧ (vatsOf 6).filter (· != 1) = [2] := by decide +kernel

theorem wit_AHome_memory :
    ([memState .readS none, memState .readS (some (.shared 4)), memState .readX none].all fun s =>
      s.cellarReady 0 && Cellar.next (s.fieldSt 0).cellar 0 == some ⟨0, frameAddr pte0 2560, 512, none, 255, .txn 5⟩ &&
      decide (0 < (s.arb (arbBase (.cellar 0))).grants.getD 0 0) && (sectorsOf (frameAddr pte0 2560) 512).all (fun k => s.sectorErr 0 k == 0) &&
      (s.home 0).queue == [] && (s.home 0).recalls == [] && (s.home 0).slots.map (·.wait) == [.mem]) = true ∧
    (let s := celOps cel [celWrite]
     Cellar.next (s.fieldSt 0).cellar 1 = some celWrite ∧ celWrite.off % 512 = 0 ∧ s.cellarReady 0 = true ∧ 0 < (s.arb (arbBase (.cellar 0))).grants.getD 4 0) := by
  decide +kernel

theorem wit_AHome_answers :
    ([CohReq.putM, .putE, .putS].all fun k => atHome cel (.cohq k { line := 5 }) && !Home.putCurrent (cel.home 0) 5 1 k) = true ∧
    Home.stOf ((dirState (.shared 2)).home 0) 5 = some (.shared (one 1)) ∧ Home.stOf ((dirState (.shared 6)).home 0) 5 = some (.shared 6) ∧
    Home.stOf ((dirState (.owned 1)).home 0) 5 = some (.owned 1) ∧ ((dirState (.owned 1)).home 0).slots = [] ∧
    (atHome (dirState (.owned 1)) (.cohq .putM { line := 5, smask := 1, bytes := some (List.replicate 512 7) }) = true) ∧
    ([(HomeReq.coh .readX { line := 5 }, TxnWait.acks [2]), (.coh .readX { line := 5 }, .acks [2, 3]), (.coh .upgrade { line := 5 }, .acks [2]),
      (.coh .readS { line := 5 }, .fwd 2 false), (.coh .readX { line := 5 }, .fwd 2 true)].all fun x =>
      let s := txnState x.1 x.2
      (s.home 0).slots.map (fun t => (t.line, t.req, t.wait)) == [(5, x.1, x.2)] && (s.home 0).queue == [] && (s.home 0).recalls == [] &&
      atHome s (.cohp .invAck { line := 5, rqf := 2 }) && atHome s (.cohp .fwdAck { line := 5 })) = true ∧
    Home.stOf ((txnState (.coh .upgrade { line := 5 }) (.acks [2])).home 0) 5 = some (.shared 4) ∧
    Home.pageEntries (cel.home 0) 0 = [] ∧ atHome cel (.cohq .prec { line := 0, fin := true }) = true := by decide +kernel

/-- A home whose directory set of line 5 is full, with a request for line 5 waiting. -/
def fullSet : State :=
  (List.range 16).foldl (fun s i => s.modHome 0 fun h => Home.setEntry h (5 + 8192 * (i + 1)) (some (.shared 4)) pte0)
    (cel.modHome 0 fun h => { h with queue := [(headHome, 5, .coh .readS { line := 5 })] })

theorem wit_AHome_recalls :
    (let s := (dirState (.shared 4)).setFld (rindCa 1 0x108) 3 0 5
     s.fieldState 0 = 5 ∧ (s.home 0).recalls = [] ∧ (s.home 0).slots = [] ∧ (s.home 0).queue = [] ∧
     (((s.home 0).dir.flatMap fun p => p.2).find? fun e => !Home.busy (s.home 0) e.line) = Home.entry (s.home 0) 5) ∧
    (let s := fullSet
     s.fieldState 0 ≠ 5 ∧ (s.home 0).queue.length = 1 ∧ HomeReq.wantsEntry (.coh .readS { line := 5 }) = true ∧ Home.roomFor (s.home 0) 5 = false ∧
     Home.busy (s.home 0) 5 = false ∧ ((tget [] (s.home 0).dir (dirSet 5)).find? fun e => !Home.busy (s.home 0) e.line) = Home.entry (s.home 0) 8197 ∧
     (Home.entry (s.home 0) 8197).isSome = true ∧ (s.home 0).slots = []) := by decide +kernel

theorem test_home :
    Home.stOf ((after (.cellarAccess 0 0 0 0 []) (memState .readS none)).home 0) 5 = some (.owned 1) ∧
    Home.stOf ((after (.cellarAccess 0 0 0 0 []) (memState .readS (some (.shared 4)))).home 0) 5 = some (.shared 6) ∧
    ((after (.readx headHome { line := 5 }) (dirState (.shared 4))).net.map (·.head.dfield)) = [2] ∧
    Home.stOf ((after (.pute headHome { line := 5 }) (dirState (.owned 1))).home 0) 5 = none ∧
    ((after (.invack headHome { line := 5, rqf := 2 }) (txnState (.coh .readX { line := 5 }) (.acks [2]))).home 0).slots.map (·.wait) = [.mem] ∧
    (after (.cellarAccess 0 1 0 0 []) (celOps cel [celWrite])).byte (cellarAddr 0 (frameAddr pte0 2560 + 63)) = 7 ∧
    (after (.cellarAccess 0 1 0 0 []) (celOps cel [celWrite])).byte (cellarAddr 0 (frameAddr pte0 2560 + 64)) = 0 := by decide +kernel

/-- Whether the entry of a page lies in field 0's READY cellar and is not being read. -/
def entryIn (s : State) (page off : Nat) : Bool := !s.agent.ptes.contains page && decodeAddr (s.pteAddr page) == .cellar 0 off && s.cellarReady 0

/-- The read of page 5's entry granted, with some of the agent's work. -/
def entryRead (g : Agent → Agent) : State := celOps ((caveState false).modAgent g) [⟨0, 40, 8, none, 255, .pte 5⟩]

def ptMove (k : MoveKind) (st : MoveStep) : Move := { page := 5, kind := k, cmd := 0, old := 0, new := pte0, step := st }

theorem wit_TheAgent_table :
    up.pageMapped 5 = false ∧ up.agent = {} ∧ up.mayTake headHome (.cohq .xlat { line := 5 }) = true ∧ up.rind.load = none ∧
    up.rind.pins.standby = true ∧ (caveState false).bit ptCmdCa 63 = false ∧ (caveState false).agent = {} ∧
    (caveState false).pageMapped 5 = true ∧ entryIn (caveState false) 5 40 = true ∧ 5 < (caveState false).fld ptSizeCa 24 0 ∧ (caveState false).fld ptSizeCa 24 0 ≤ 16 ∧
    (let s := entryRead fun a => { a with xlat := [(headHome, 5)] }
     s.agent.xlat = [(headHome, 5)] ∧ s.agent.ptcmd = none ∧ s.agent.move = none ∧ s.agent.asks = [] ∧ s.agent.calls = [] ∧
     Cellar.next (s.fieldSt 0).cellar 0 = some ⟨0, 40, 8, none, 255, .pte 5⟩ ∧ s.cellarReady 0 = true ∧ 0 < (s.arb (arbBase (.cellar 0))).grants.getD 0 0 ∧
     (sectorsOf 40 8).all (fun k => s.sectorErr 0 k == 0) = true ∧ wordRead s 0 ⟨0, 40, 8, none, 255, .pte 5⟩ = 0) ∧
    ([MoveKind.ptRead, .ptWrite].all fun k =>
      let s := entryRead fun a => { a with ptcmd := some (ptMove k .ask) }
      s.agent.xlat.isEmpty && s.agent.ptcmd == some (ptMove k .ask) && decodeAddr (s.pteAddr 5) == .cellar 0 40) = true ∧ pteMapped 0 = false ∧
    ((up.modAgent fun a => { a with ptcmd := some (ptMove .ptRead .done) }).agent.ptcmd = some (ptMove .ptRead .done)) := by decide +kernel

theorem wit_TheAgent_moves :
    (let s := up.modAgent fun a => { a with move := some (aMove (.tinv [0])) }
     s.agent.ptcmd = none ∧ s.agent.move = some (aMove (.tinv [0])) ∧ s.mayTake headHome (.cohp .tinvAck { line := 3, rqf := 0 }) = true) ∧
    (let s := up.modAgent fun a => { a with move := some (aMove .prec) }
     s.agent.ptcmd = none ∧ s.agent.move = some (aMove .prec) ∧ s.mayTake headHome (.cohp .precAck { line := 3 }) = true) ∧
    (let s := (caveState false).modAgent fun a => { a with moves := [⟨5, false⟩] }
     s.agent.move = none ∧ s.agent.moves = [⟨5, false⟩] ∧ s.pageMapped (bits (5 : Word) 23 0) = true ∧ entryIn s (bits (5 : Word) 23 0) 40 = true) ∧
    (let s := cel.modAgent fun a => { a with move := some (aMove (.copy 7 [] 7)) }
     s.agent.move = some (aMove (.copy 7 [] 7)) ∧ bits (aMove .prec).old 62 61 = 0 ∧ bits (aMove .prec).new 62 61 = 0 ∧ bits (aMove .prec).new 53 48 = 0 ∧
     bits (aMove .prec).old 53 48 = 0 ∧ s.cellarReady 0 = true) ∧
    (let s := celOps (cel.modAgent fun a => { a with move := some (aMove (.copy 8 [7] 7)) })
       [⟨2, frameAddr pte0 3584, 512, none, 255, .copy 7⟩]
     Cellar.next (s.fieldSt 0).cellar 2 = some ⟨2, frameAddr pte0 3584, 512, none, 255, .copy 7⟩ ∧ 0 < (s.arb (arbBase (.cellar 0))).grants.getD 2 0 ∧
     (sectorsOf (frameAddr pte0 3584) 512).all (fun k => s.sectorErr 0 k == 0) = true) ∧
    (let o : CelOp := ⟨2, frameAddr pte0 3584, 512, some (List.replicate 512 7), 255, .copied 7⟩
     let s := celOps (cel.modAgent fun a => { a with move := some (aMove (.copy 8 [7] 7)) }) [o]
     Cellar.next (s.fieldSt 0).cellar 2 = some o ∧ o.off % 512 = 0 ∧ s.cellarReady 0 = true) := by decide +kernel

theorem wit_TheAgent_rest :
    (let v : Word := BitVec.ofNat 64 (1 <<< 62 + 1 <<< 60 + 5)
     bits v 63 62 = 1 ∧ bits v 26 24 = 0 ∧ bits v 59 54 < 48 ∧ v.getLsbD 60 = true ∧ v.getLsbD 61 = false ∧ (caveState false).pageMapped (bits v 23 0) = true ∧
     entryIn (caveState false) (bits v 23 0) 40 = true ∧
     ((caveState false).modAgent fun a => { a with moves := List.replicate 16 ⟨7, false⟩ }).agent.moves.length = 16) ∧
    (let v : Word := BitVec.ofNat 64 (1 <<< 62 + 12287 <<< 27 + 5)
     bits v 63 62 = 1 ∧ bits v 26 24 = 0 ∧ bits v 59 54 < 48 ∧ v.getLsbD 61 = false ∧ v.getLsbD 60 = false ∧ bits v 53 27 = 12287) ∧
    (up.fieldSt 0).free = [] ∧ (up.setFld migCtlCa 7 0 3).fld migCtlCa 7 0 = 3 ∧
    (let s := (up.setFld migCtlCa 63 63 1).setFld migCtlCa 47 32 9
     s.bit migCtlCa 63 = true ∧ s.fld (hostAgentCa 1 (0x10000 + 8 * 5)) 15 0 < s.fld migCtlCa 47 32) ∧
    (let s := ((caveState false).setFld migCtlCa 63 63 1).setFld migCtlCa 47 32 0
     s.bit migCtlCa 63 = true ∧ s.fld migCtlCa 47 32 ≤ s.fld (hostAgentCa 1 (0x10000 + 8 * 5)) 15 0 ∧ s.pageMapped 5 = true ∧ s.moveKnown 5 = false ∧
     entryIn s 5 40 = true) := by decide +kernel

theorem test_agent :
    (let s := (after (.ptRead (caOf ptCmdCa) (BitVec.ofNat 64 (2 <<< 24 + 5))) (State.setBytes (caveState false) (cellarAddr 0 40) [7]))
     let s := after (.cellarAccess 0 (0) 0 0 []) (withGrants s (arbBase (.cellar 0)) [1, 1, 1, 1, 1])
     s.reg ptDataCa = 7 ∧ (after .ptCommandDone s).bit ptCmdCa 63 = false) ∧
    ((after (.freeRingPush (caOf (cellarCa 0 3 0)) 11) up).fieldSt 0).free = [11] ∧
    ((after (.xlat headHome { line := 5 }) up).net.map fun p => (p.head.dfield, p.head.dsite)) = [(1, 0x31)] := by decide +kernel

theorem wit_TheFetchEngine :
    up.serves 0 = true ∧ up.rind.load = none ∧
    (let s := (up.setReg (fetchCtlCa 0) (BitVec.ofNat 64 (4 + 1 <<< 16))).modFetch 0 fun x => { x with running := true, fresh := false }
     (s.fetch 0).running = true ∧ (s.fetch 0).touches.length < s.fld (fetchCtlCa 0) 8 0 ∧ s.vatAccepts 0 1 = true ∧ s.clocked 0 = true ∧
     (s.fetch 0).open_.length < s.fld (fetchCtlCa 0) 19 16) ∧
    (let s := up.modFetch 0 fun x => { x with done := [⟨3, 4⟩] }
     (s.fetch 0).done = [⟨3, 4⟩] ∧ (s.fetch 0).gen = 0) := by decide +kernel

theorem test_fetch :
    ((after (.fetchStart (caOf (fcCa 0 0 0x2008)) (BitVec.ofNat 64 (1 <<< 16 + 5))) up).fetch 0).cursor = 5 ∧
    ((after (.cancel (caOf (fcCa 0 0 0x2008)) (BitVec.ofNat 64 (3 <<< 16 + 5))) up).fetch 0).gen = 1 ∧
    (after (.touchComplete 0) (up.modFetch 0 fun x => { x with done := [⟨3, 4⟩] })).fld (fetchStatCa 0) 63 48 = 1 := by decide +kernel

theorem wit_FieldsThaw :
    up.rind.pins.standby = true ∧ (fieldAt 0).fieldState 3 = 0 ∧ up.rind.power.queue = [] ∧ up.domState 49 = 7 ∧ up.rampFree = true ∧
    (up.modPower fun p => { p with rampAt := some 5 }).rampFree = false ∧
    ((up.modPower fun p => { p with queue := [3] }).rind.power.queue = [3] ∧ (up.modPower fun p => { p with queue := [3] }).rampFree = true) ∧
    ((fieldAt 0).modPower fun p => { p with rampAt := some 5 }).rampFree = false ∧ (fieldAt 0).serves 4 = true ∧
    (fieldAt 1).fieldState 3 = 1 ∧ (fieldAt 2).fieldState 3 = 2 ∧ countBits 1 = 1 ∧ countBits (BitVec.allOnes 42) = 42 ∧
    (let s := (fieldAt 3).setFld (jetLinkCa 3 8) 2 0 1
     s.serves 3 = true ∧ s.fld (jetLinkCa 3 8) 2 0 = 1) ∧
    (let s := (fieldAt 3).setFld (celStatusCa 3) 2 0 1
     s.fld (celStatusCa 3) 2 0 = 1) ∧
    (let s := (fieldAt 3).setFld (domCa 4) 25 24 3
     s.fieldState 3 = 3 ∧ s.bit (domCa 4) 26 = false ∧ s.bit (domCa 4) 25 = true ∧ s.bit (domCa 4) 24 = true) ∧
    ((fieldAt 4).modPower fun p => { p with stopped := [3] }).rind.power.stopped.contains 3 = true ∧
    ((fieldAt 3).setFld (domCa 4) 26 26 1).bit (domCa 4) 26 = true ∧
    ((fieldAt 4).serves 3 = true ∧ (fieldAt 4).serves 4 = true ∧ (fieldAt 4).tiles = []) ∧
    ((fieldAt 5).fieldState 3 = 5 ∧ (fieldAt 5).freezeSettled 3 = true) ∧
    (fieldAt 3).fld (jetLinkCa 3 13) 2 0 ≠ 2 ∧ (up.setFld pwrCtlCa 63 63 1).bit pwrCtlCa 63 = true ∧ (fieldAt 3).bit (domCa 4) 26 = false ∧
    (let s := (fieldAt 4).modCtx ⟨3, 0⟩ 1 fun _ => { state := .running }
     s.serves 3 = true ∧ s.bit (domCa 4) 26 = false ∧ (s.ctx ⟨3, 0⟩ 1).state ≠ .empty) ∧
    (let s := (State.reset.setFld (domCa 49) 3 0 7).modPins fun p => { p with standby := true }
     s.rind.pins.standby = true ∧ s.domState 49 = 7 ∧ ((List.range 48).all fun g => s.fieldState g == 0) = true ∧ s.fld optgateCa 47 0 = 0) := by decide +kernel

theorem test_fields :
    (after (.thaw (domOf 3) false) (fieldAt 0)).fieldState 3 = 1 ∧ (after (.rampEnd 3) (fieldAt 1)).fieldState 3 = 2 ∧
    (after (.setfreq (domOf 3) 1) (fieldAt 4)).rind.power.stopped = [3] ∧ (after (.freezeOverrun 3) (fieldAt 5)).fieldState 3 = 6 := by decide +kernel

theorem test_freeze : (after (.freeze (domOf 3)) (fieldAt 4)).fieldState 3 = 5 ∧ (after (.fieldFull 3) ((fieldAt 3).setFld (domCa 4) 25 24 3)).fieldState 3 = 4 := by
  decide +kernel

theorem test_service : ((fieldAt 4).modPins fun p => { p with link0 := true }).givesService = true ∧ (fieldAt 4).givesService = false := by decide +kernel

theorem wit_PowerIsMeasured :
    up.rind.pins.standby = true ∧ (45999 : BitVec 16).toNat < 46000 ∧ 59000 < (59001 : BitVec 16).toNat ∧ (up.setFld pwrMeasCa 31 16 900).capWatts < (up.setFld pwrMeasCa 31 16 900).fld pwrMeasCa 31 16 ∧
    (let s := (up.setFld pwrMeasCa 63 48 54000).setFld pwrMeasCa 3 0 2
     s.rind.pins.standby = true ∧ s.fld pwrMeasCa 31 16 + 100 * s.fld pwrCtlCa 23 16 < s.capWatts ∧ 100 ≤ s.rind.power.capAge ∧ 0 < s.capLevel) ∧
    up.fieldState 0 = 4 ∧ up.hottest 0 = 0 ∧ 105 ≤ (up.setFld (fcCa 0 3 0x400) 15 0 (105 * 16)).hottest 0 ∧
    (State.reset.rind.pins.reset = false ∧ State.reset.rind.pins.main = false ∧ State.reset.rind.pins.standby = true ∧ State.reset.rind.power.frozen = false) ∧
    (up.modPins fun p => { p with reset := true }).rind.pins.reset = true ∧ (up.modPins fun p => { p with standby := false }).rind.pins.standby = false ∧
    up.rind.load = none ∧ up.domState 49 = 7 ∧ up.reg optgateCa = 0 ∧
    (let s := (up.setReg optgateCa 3).setFld (hpCa 0 0) 1 0 1
     s.reg optgateCa &&& ~~~(BitVec.ofNat 64 (bits 1 47 0)) ≠ 0 ∧ s.hpRole 0 ≠ 0) ∧
    (let s := (up.setReg optgateCa 1).modPower fun p => { p with training := [0] }
     s.rind.power.training.contains 0 = true ∧ s.engineOn 0 = true ∧ s.answers (gsparecmdCa 0) = true ∧ s.bit (gsparecmdCa 0) 63 = false ∧
     (linkPeer 0 7).isSome = true ∧ (s.engine 0).spared = [] ∧ (s.engine 0).switches = [] ∧ (linkPeer 0 31).isNone = true) ∧
    ((up.modField 0 fun x => { x with switches := [⟨7, false, 5, 3, true⟩] }).fieldSt 0).switches[0]? = some ⟨7, false, 5, 3, true⟩ ∧
    (((up.modEngine 0 fun x => { x with switches := [⟨7, false, 5, 3, true⟩] }).engine 0).switches[0]? = some ⟨7, false, 5, 3, true⟩) ∧
    ((List.finRange 96).all fun h => up.hpRole h == 0) = true ∧ (State.reset.modPins fun p => { p with standby := false }).rind.pins.standby = false ∧
    up.serves 0 = true ∧ ((List.finRange 4).all fun c => up.bit (tileCa t0 0x0A (0x100 + 8 * c.val)) 63 == false) = true ∧
    ((List.finRange 16).all fun k => up.bit (srcCa t0 k 0) 63 == false) = true ∧
    (up.tile t0).ctxs = [] ∧ ((List.finRange 16).all fun k => up.bit (shardCa t0 k 0) 63 == false) = true := by decide +kernel

theorem test_power :
    (after (.powerSample 54000 8001 0) up).capLevel = 4 ∧ (after (.powerSample 54000 100 7) up).reg energyCa = 5407 ∧
    (after .mainPowerInRange State.reset).domState 49 = 7 ∧ (after (.spareSwitchComplete 0 false 0) (up.modField 0 fun x => { x with switches := [⟨7, false, 5, 3, true⟩] })).jetSpare 0 7 false 5 = 3 ∧
    (after (.optgateWrite (caOf optgateCa) 1) up).rind.power.training = [0] := by decide +kernel

theorem wit_Resets :
    ([1, 2, 3, 4, 5].all fun k => ((resetState k).nextReset k).isSome) = true ∧ (resetState 3).rind.load = none ∧
    (let s := (inState 2 .stopped).modRind fun x => { x with resets := [{ word := BitVec.ofNat 64 (4 <<< 53 + 63 <<< 32) }, { word := BitVec.ofNat 64 (3 <<< 53 + 63 <<< 32) }] }
     (s.nextReset 4).isSome = true ∧ s.siteOf 0 63 = none) ∧
    (let s := up.modRind fun x => { x with resets := [{ word := BitVec.ofNat 64 (3 <<< 53 + 63 <<< 32) }] }
     (s.nextReset 3).isSome = true ∧ s.siteOf 0 63 = none) ∧
    (resetState 3).siteOf 0 0 = some t0 ∧ (resetState 3).logicalOf t0 = some 0 ∧
    (let s := up.modRind fun x => { x with resets := [{ word := BitVec.ofNat 64 (3 <<< 53), did := true }] }
     s.resetSettled (BitVec.ofNat 64 (3 <<< 53)) = true ∧ s.rind.resets.map (·.did) = [true]) := by decide +kernel

theorem test_resets :
    ((after .contextReset (resetState 4)).ctx t0 2).state = .empty ∧ ((after .contextReset (resetState 4)).rind.resets.map (·.did)) = [true] ∧
    (after .tileReset (resetState 3)).fld (spdEpochCa t0) 15 0 = 1 ∧
    (after .resetDone (up.modRind fun x => { x with resets := [{ word := 0, did := true }] })).events.map (·.code) = [0x1B] := by decide +kernel

theorem wit_Scrubbers :
    (let s := up.setFld (scrubCa (.tile t0)) 63 63 1
     s.scrubClocked (.tile t0) = true ∧ s.scrubRuns (.tile t0) = true ∧ (s.scrubber (.tile t0)).fix = none ∧ s.fld (scrubCa (.tile t0)) 25 0 = 0 ∧ s.ecc = []) ∧
    (let s := (up.setFld (scrubCa (.tile t0)) 63 63 1).setFld (scrubCa (.tile t0)) 25 0 49663
     s.scrubClocked (.tile t0) = true ∧ scrubLines (.tile t0) ≤ s.fld (scrubCa (.tile t0)) 25 0 + 1) ∧
    (let s := withGrants (cel.setFld (scrubCa (.cellar 0)) 63 63 1) (arbBase (.cellar 0)) [0, 0, 0, 1, 0]
     s.scrubClocked (.cellar 0) = true ∧ 0 < (s.arb (arbBase (.cellar 0))).grants.getD 3 0 ∧ s.bit (scrubCa (.cellar 0)) 63 = true ∧ (s.scrubber (.cellar 0)).fix = none) ∧
    ((up.modTile t0 fun x => { x with scrub := ⟨some (3, [5])⟩ }).tile t0).scrub.fix = some (3, [5]) ∧
    tget 0 (up.setErr (8 * (scrubKeys (.tile t0) 3).getD 5 0) 1).ecc ((scrubKeys (.tile t0) 3).getD 5 0) = 1 ∧
    (let s := (vatState (some { line0 .s with errs := [(2, 1)] })).modField 0 fun x => { x with vatScrub := ⟨some (0, [2])⟩ }
     s.scrubClocked (.vat 0) = true ∧ (s.scrubber (.vat 0)).fix = some (0, [2]) ∧ (s.scrubVatLine 0 0).isSome = true) := by decide +kernel

theorem test_scrub :
    (let s := (up.setFld (scrubCa (.tile t0)) 63 63 1)
     let s := after (.scrubLine (.tile t0) [(5, false)]) s
     (s.scrubber (.tile t0)).fix = some (0, [5]) ∧ s.bit (spdFlagsCa t0) 1 = true ∧ (after (.scrubWriteback (.tile t0)) s).ecc = []) := by decide +kernel

theorem wit_Press :
    up.answers (pressCa t0) = true ∧ ((inState 0 .running).ctx t0 0).state = .running ∧ StreamCtx.fits (up.eng t0 0 0) 1 = true ∧ (up.eng t0 0 0).waiting = [] ∧
    StreamCtx.fits ((up.modEng t0 0 0 fun x => { x with queue := List.replicate 32 (.ready (.token 1)) }).eng t0 0 0) 1 = false ∧
    (up.ctx t0 0).state ≠ .running ∧
    (let s := (inState 0 .ended).setFld (pressCa t0) 52 52 1
     s.bit (pressCa t0) 52 = true ∧ s.pressDone t0 0 = true) ∧
    (let s := (inState 0 .running).setFld (pressCa t0) 52 52 1
     s.bit (pressCa t0) 52 = true ∧ s.pressDone t0 0 = false) ∧
    up.bit rindPressCa 63 = false ∧ (up.setFld rindPressCa 63 63 1).bit rindPressCa 63 = true ∧ (inState 0 .running).jobOf t0 0 = 0 ∧ up.serves 0 = true ∧
    (let s := (up.setFld rindPressCa 63 63 1).modRind fun x => { x with press := some ([0], false) }
     s.rind.press = some ([0], false) ∧ s.bit (pressCa (tileOfKey 0)) 52 = false) := by
  decide +kernel

theorem wit_Remap :
    up.answers (remapcmdCa 0) = true ∧ up.siteOf 0 0 = some t0 ∧ up.remapRefused 0 0 40 t0 = false ∧ up.remapRefused 0 0 1 t0 = true ∧
    (up.fieldSt 0).remap = none ∧ (((remapState .copy 0).fieldSt 0).remap.map (·.stage)) = some .copy ∧ (remapState .copy 0).serves 0 = true ∧ up.mem = [] ∧ up.ecc = [] ∧
    ((remapState .catchup 0).tile ⟨0, 0⟩).marks.length + 64 ≤ 64 ∧ ((remapState .cutover 0).fieldSt 0).remap = some ⟨0, 0, 40, .cutover, 0⟩ ∧
    up.bit (tilemapCa 0 0) 7 = true ∧
    (let s := (remapState .catchup 15).modTile t0 fun x => { x with marks := (List.range 65).map fun i => (i, true) }
     64 < (s.tile ⟨0, 0⟩).marks.length) := by decide +kernel

theorem test_press_and_remap :
    ((after (.press t0 1) (inState 0 .running)).eng t0 0 0).queue = [.ready (.token 6)] ∧
    ((after (.pressComplete t0 0) ((inState 0 .ended).setFld (pressCa t0) 52 52 1)).bit (pressCa t0) 60) = true ∧
    ((after (.remap 0 0 40) up).fieldSt 0).remap.map (·.stage) = some .copy := by decide +kernel

theorem wit_Unlock :
    up.rind.pins.standby = true ∧ up.bit dbgUnlockCa 63 = false ∧ up.rind.unlock.locked = false ∧
    ((up.setFld dbgUnlockCa 63 63 1).bit dbgUnlockCa 63 = true) ∧
    ((up.modUnlock fun u => { u with verify := some (true, 2) }).rind.unlock.verify = some (true, 2)) ∧
    (up.modUnlock fun u => { u with locked := true }).rind.unlock.locked = true ∧ up.rind.ticks < up.rind.unlock.lockedAt + 60000000000 ∧
    (let s := up.modRind fun x => { x with ticks := 60000000000 }
     s.rind.unlock.lockedAt + 60000000000 ≤ s.rind.ticks) ∧
    ((up.modUnlock fun u => { u with verify := some (false, 1) }).rind.unlock.verify = some (false, 1)) := by decide +kernel

/-- The fuses are opaque; either every slot but k refuses firmware or one accepts it, so one of the clauses about REVOKE applies. -/
theorem wit_Revoke (k : Fin 4) : (∃ j < 4, j ≠ k.val ∧ up.keyOk j 61 = true) ∨ ∀ j < 4, j ≠ k.val → up.keyOk j 61 = false := by
  by_cases h : ∃ j < 4, j ≠ k.val ∧ up.keyOk j 61 = true
  · exact .inl h
  · refine .inr fun j hj hk => ?_
    cases hx : up.keyOk j 61
    · rfl
    · exact absurd ⟨j, hj, hk, hx⟩ h

theorem test_unlock :
    (after .unlockVerifyDone (up.modUnlock fun u => { u with verify := some (true, 2) })).level = 2 ∧
    (let s := up.modUnlock fun u => { u with locked := true }
     (after .unlockLockoutEnd s).rind.unlock.locked = true ∧ (after .unlockLockoutEnd (s.modRind fun x => { x with ticks := 60000000000 })).rind.unlock.locked = false) ∧
    (let s := (up.setFld dbgUnlockCa 60 56 2).modUnlock fun u => { u with verify := some (false, 1) }
     (after .unlockVerifyDone s).rind.unlock.locked = true ∧ (after .unlockVerifyDone s).fld dbgUnlockCa 60 56 = 3) := by decide +kernel

theorem wit_Halting :
    (dbgState 1 {}).answers (dbgTctlCa t0) = true ∧ (dbgState 1 {}).level = 1 ∧ up.level = 0 ∧ up.answers (dbgTctlCa t0) = true ∧
    (dbgState 1 {}).answers (dbgFhaltCa 0) = true ∧ up.answers (dbgFhaltCa 0) = true ∧
    ((dbgState 1 { halted := true }).tile t0).dbg.halted = true ∧ ((dbgState 1 { due := true }).tile t0).dbg.due = true ∧ up.clocked 0 = true ∧
    (let s := run0.setReg (tileCa t0 0x0C 0x100) (1 <<< 63)
     s.actor t0 = some 0 ∧ (s.ctx t0 0).state = .running ∧ (s.ctx t0 0).wait = .no ∧ s.breakHit t0 0 = true ∧ s.clocked 0 = true) := by decide +kernel

theorem test_halting :
    ((after (.halt t0) (dbgState 1 {})).tile t0).dbg.cause = 1 ∧ ((after (.halt t0) up).tile t0).dbg.halted = false ∧
    ((after (.debugResume t0 2 7) (dbgState 2 { halted := true })).tile t0).dbg.left = 7 ∧
    ((after (.breakpoint t0) (run0.setReg (tileCa t0 0x0C 0x100) (1 <<< 63))).tile t0).dbg.cause = 2 ∧
    ((after (.fieldHalt 0 2) (dbgState 1 {})).tile t1).dbg.halted = true := by decide +kernel

theorem wit_TestPort :
    up.jtagOn = true ∧ up.rind.pins.main = true ∧ (up.modPins fun p => { p with main := false }).rind.pins.main = false ∧
    (up.modPins fun p => { p with main := false }).jtagOn = true ∧ (up.modPins fun p => { p with reset := true }).jtagOn = false ∧
    (caParts (caOf (tileCa t0 2 0x300)).toNat).field ≠ 0x3C ∧ up.level = 0 ∧
    landsOn (dbgState 2 {}) (tileCa t0 2 0x300) .plain 5 (fun _ _ => true) = true ∧ (dbgState 2 {}).jtagOn = true ∧
    (decodeCa (caOf (tileCa t0 2 0xFFFF8)).toNat).isNone = true := by decide +kernel

theorem test_port :
    (after (.dbgacc 2 (caOf (tileCa t0 2 0x300)) 5) (dbgState 2 {})).reg (tileCa t0 2 0x300) = 5 ∧
    (after (.dbgacc 2 (caOf (tileCa t0 2 0x300)) 5) (dbgState 1 {})).reg (tileCa t0 2 0x300) = up.reg (tileCa t0 2 0x300) ∧
    (after (.extest [true]) (up.modPins fun p => { p with main := false })).rind.jtag.latch = [true] := by decide +kernel

theorem wit_Telemetry :
    landsOn up (tileCa t0 0x0B 0) .telSnap 1 (fun _ _ => true) = true ∧ up.rind.pins.standby = true ∧
    (let s := up.modRind fun x => { x with armed := [rindCa 2 0] }
     s.rind.armed.contains (blockBase (caOf (rindCa 2 0)).toNat) = true ∧ s.reg snapatCa = 0 ∧ s.telClocked (blockBase (caOf (rindCa 2 0)).toNat) = true ∧
     (s.modPower fun p => { p with stopped := [3] }).telClocked (blockBase (fcCa 3 3 0)) = false ∧
     ((s.setReg snapatCa 5).timeCopy (caParts (blockBase (caOf (rindCa 2 0)).toNat)).field).toNat < ((s.setReg snapatCa 5).reg snapatCa).toNat) ∧
    up.answers (laneselCa 0) = true ∧ up.claims (laneselCa 0) = false ∧ ownsLink 0 1 = true ∧ 3 < linkBundles 1 ∧ ownsLink 0 31 = false ∧ ownsLink 0 14 = true ∧ linkBundles 14 ≤ 6 ∧
    up.powered (sensCa none 5) = true ∧ up.powered (sensCa (some 0) 11) = true ∧
    0 < ((withGrants up (arbBase (.cellar 0)) [0, 0, 0, 0, 1]).arb (arbBase (.cellar 0))).grants.getD 4 0 ∧ up.bit snapatCa 63 = false ∧ up.fieldState 0 = 4 ∧ up.fieldState 1 = 0 := by decide +kernel

theorem wit_Scan :
    landsOn (dbgState 2 {}) (tileCa t0 0x0C 0x2010) .scan 5 (fun _ _ => (dbgState 2 {}).scanOk t0 0x2010) = true ∧ (inState 1 .running).scanOk t0 0x2010 = false ∧
    tileOfCa (caParts (caOf (tileCa t0 0x0C 0x2010)).toNat) = t0 := by decide +kernel

theorem test_telemetry :
    (let s := after (.sensorUpdate none 0 7) (after (.sensorUpdate none 0 9) up)
     s.fld (sensCa none 0) 15 0 = 7 ∧ s.fld (sensCa none 0) 47 32 = 9) ∧
    (after .timeCopySet (up.setReg (fabricCa 0x10) 77)).timeCopy 0 = 77 ∧
    ((after (.scanWrite (caOf (tileCa t0 0x0C 0x2010)) 6) (dbgState 2 {})).eng t0 0 1).gen = 6 := by decide +kernel

theorem test_snapshot :
    (let s := up.setReg (tileCa t0 0x0B 0x108) 33
     (after (.snapshot (caOf (tileCa t0 0x0B 0))) s).reg (tileCa t0 0x0B 0x908) = 33) := by decide +kernel

theorem wit_Sideband :
    up.sideOn = true ∧ (up.modPins fun p => { p with reset := true }).sideOn = false ∧
    ((up.modSide fun x => { x with events := [(1, 2, 0)] }).rind.side.events = [(1, 2, 0)]) ∧ (up.modSide fun x => { x with events := [(1, 2, 0)] }).sideOn = true ∧
    ((up.modSide fun x => { x with events := [(1, 2, 3)] }).rind.side.events = [(1, 2, 2 + 1)]) := by decide +kernel

theorem test_sideband :
    (after (.getpdr 108) up).rind.side.sent = [.pdr 0x231 1 0] ∧ (after (.getpdr 11) up).rind.side.sent = [.pdr 0x100 0 12] ∧
    (after (.setEndpointId 9) up).rind.side.eid = 9 ∧
    (after (.eventMessageRetry false) (up.modSide fun x => { x with events := [(1, 2, 3)] })).rind.side.events = [] := by decide +kernel

/-- Half-port 0 UP with a symbol error of lane 7 and a threshold of none. -/
def dueLane : State := ((hpUp0 5).setFld (engineCa 0 0 0) 47 32 0).modHp 0 fun x => { x with errs := [(7, 0)] }

theorem wit_HalfPorts :
    (hpUp0 1).engineOn (hpField 0) = true ∧ (hpUp0 1).hpState 0 = 1 ∧ (hpUp0 2).hpState 0 = 2 ∧ (hpUp0 2).minLanes 0 ≤ laneCount 0xFFFF ∧
    laneCount 0 < (hpUp0 2).minLanes 0 ∧ (hpUp0 3).hpState 0 = 3 ∧
    ((hpUp0 3).hport 0).intact < 3 ∧ (((hpUp0 3).modHp 0 fun x => { x with intact := 3 }).hport 0).intact = 3 ∧ (hpUp0 4).hpState 0 = 4 ∧ identState.identOk 0 = true ∧ (hpUp0 4).identOk 0 = false ∧
    (hpUp0 1).answers (hpCa 0 0) = true ∧ (hpUp0 1).claims (hpCa 0 0) = false ∧ (hpUp0 5).bit (hpstatCa 0) (32 + 7) = true ∧
    (hpUp0 3).bit (hpstatCa 0) (32 + 7) = true ∧ ((hpUp0 5).hport 0).recalQ = [] ∧ ((hpUp0 5).hport 0).recal = none ∧ (hpUp0 5).engineOn 1 = true ∧
    (dueLane.laneDue 0 7 = true ∧ dueLane.bit (hpstatCa 0) (32 + 7) = true ∧ (dueLane.hport 0).recalQ = [] ∧ (hpUp0 5).laneDue 0 7 = false) := by decide +kernel

/-- Half-port 0 UP with lanes that wait for recalibration, perhaps one under it, and a grant of the lane-time arbiter. -/
def recalState (q : List (Fin 16)) (r : Option (Fin 16 × Nat × Nat)) : State :=
  withGrants ((hpUp0 5).modHp 0 fun x => { x with recalQ := q, recal := r }) (arbBase (.optical (hpField 0))) [0, 1]

theorem wit_Lanes :
    (hpUp0 5).minLanes 0 < laneCount (BitVec.ofNat 16 ((hpUp0 5).fld (hpstatCa 0) 47 32)) ∧
    (let s := (hpUp0 5).setFld (hpstatCa 0) 47 32 0x80
     laneCount (BitVec.ofNat 16 (s.fld (hpstatCa 0) 47 32)) ≤ s.minLanes 0 ∧ s.hpState 0 = 5 ∧ s.bit (hpstatCa 0) (32 + 7) = true) ∧
    (((recalState [3] none).hport 0).recalQ = [3] ∧ ((recalState [3] none).hport 0).recal = none ∧
      0 < ((recalState [3] none).arb (arbBase (.optical (hpField 0)))).grants.getD 1 0 ∧ (recalState [3] none).engineOn (hpField 0) = true) ∧
    ([(3, 22, 0), (3, 23, 1), (3, 23, 2)].all fun r => ((recalState [] (some r)).hport 0).recal == some r &&
      decide (0 < ((recalState [] (some r)).arb (arbBase (.optical (hpField 0)))).grants.getD 1 0)) = true := by decide +kernel

theorem test_halfports :
    (after (.laneLock 0 0x0FFF) (hpUp0 2)).fld (hpstatCa 0) 47 32 = 0x0FFF ∧ (after (.identToUp 0) identState).hpState 0 = 5 ∧
    (after (.lockedLaneLoss 0 7) ((hpUp0 5).setFld (hpstatCa 0) 47 32 0x80)).hpState 0 = 6 ∧
    (after (.recalibration 0 17) (recalState [] (some (3, 23, 2)))).events.map (·.code) = [0x0D] := by decide +kernel

/-- A control slot of module 6's half-port 7 for FSEQ 0 with a VALID byte and flags, under its CRC. -/
def ctlSlot (valid flags : Byte) : Nat :=
  let bs := ofBytes ([0, 0, valid, 0, 0, 0, 0, flags, 0, 0] ++ List.replicate 20 0 ++ [0xFF, 0xFF, 0, 0, 31, 1] ++ List.replicate 24 0 ++
    [9, 0, 0, 0, 0, 0, 0, 0, 6, 0, 7])
  bs + (crc32 (toBytes 156 bs)).toNat <<< 1248

/-- The head flit of a read for module 5. -/
def flit5 : FabFlit := (fabFlits (fabTok 5)).headD 0

/-- Half-port 0 with a frame of which one codeword is missing, which carries zeros. -/
def frameState (bits lost failed : Nat) (seq : BitVec 16) : State :=
  (fabState (fabTok 6)).modHp 0 fun x => { x with rxBits := bits, rxLost := lost, rxLen := 4222, failed := failed, rxSeq := seq }
def lastWord : Codeword := ⟨0, []⟩

/-- The flits that the frame brings. -/
def frameOf (s : State) : List (FabFlit × Bool) := frameFlits (ctlOf (slotBits (frameWith s 0 lastWord).1 0)) (frameWith s 0 lastWord).1 (frameWith s 0 lastWord).2

theorem wit_Codewords :
    (fabState (fabTok 6)).engineOn (hpField 0) = true ∧ (fabState (fabTok 6)).hpState 0 = 5 ∧ ((fabState (fabTok 6)).hport 0).rxLen + 514 < 4736 ∧
    lastWord.bad = [] ∧ ((List.finRange 544).take 15).eraseDups.length = 15 ∧ ((List.finRange 544).take 16).eraseDups.length = 16 := by decide +kernel

theorem wit_Frames :
    (let s := frameState 0 0 2 0
     s.engineOn (hpField 0) = true ∧ s.hpState 0 = 5 ∧ 4736 ≤ (s.hport 0).rxLen + 514 ∧ ctlGood (slotBits (frameWith s 0 lastWord).1 0) = false ∧ (s.hport 0).failed < 3) ∧
    (let s := frameState (ctlSlot 0 0) 1 3 0
     slotLost (frameWith s 0 lastWord).2 0 = true ∧ 3 ≤ (s.hport 0).failed) ∧
    (let s := frameState (ctlSlot 0 3) 0 0 0
     let f := frameWith s 0 lastWord
     let k := ctlOf (slotBits f.1 0)
     slotLost f.2 0 = false ∧ ctlGood (slotBits f.1 0) = true ∧ s.reg (hpCa 0 0x10) = k.serial ∧ s.fld (hpCa 0 0x18) 47 32 = k.modid.toNat ∧
     k.ackv = true ∧ k.nak = true ∧ frameOf s = []) ∧
    (ctlOf (slotBits (ctlSlot 0 0) 0)).ackv = false := by decide +kernel

theorem wit_FrameFlits :
    (let s := frameState (ctlSlot 1 0 + flit5.toNat <<< 1280) 0 0 0
     frameOf s = [(flit5, true)] ∧ (ctlOf (slotBits (frameWith s 0 lastWord).1 0)).fseq = (s.hport 0).rxSeq ∧
     (s.engine 0).inbox.map (Arriving 0 flit5) = [false] ∧
     Arriving 0 flit5 { from_ := .port 0, ch := 0, head := flit5, n := 2, got := 1, flits := [] } = true) ∧
    (let s := frameState (ctlSlot 1 0 + flit5.toNat <<< 1280) 0 0 0xFFFF
     frameOf s = [(flit5, true)] ∧ (ctlOf (slotBits (frameWith s 0 lastWord).1 0)).fseq ≠ (s.hport 0).rxSeq ∧
     ((ctlOf (slotBits (frameWith s 0 lastWord).1 0)).fseq - (s.hport 0).rxSeq).toNat < 32768) ∧
    (let s := frameState (ctlSlot 1 0 + flit5.toNat <<< 1280) (1 <<< 128) 0 0
     frameOf s = [(flit5, false)]) := by decide +kernel

theorem wit_Resends :
    (let s := (fabState (fabTok 6)).modHp 0 fun x => { x with resend := some 4, replay := [(5, flit5)], again := 0 }
     s.engineOn (hpField 0) = true ∧ s.hpState 0 = 5 ∧ (s.hport 0).resend = some 4 ∧ (s.hport 0).replay = [(5, flit5)] ∧ 1 < s.fld (engineCa (hpField 0) 0 0) 55 48) ∧
    (let s := (fabState (fabTok 6)).modHp 0 fun x => { x with resend := some 4, replay := [(5, flit5)], again := 100 }
     s.fld (engineCa (hpField 0) 0 0) 55 48 ≤ 101 ∧ (s.hport 0).again = 100) := by decide +kernel

/-- R437's trunk joins transmit fibre i to receive fibre i + 4; R442's example is laid out as the rule says. -/
theorem test_lanes_and_serial :
    (∀ l : Fin 16, laneRx 1 l = laneTx 1 l + 4) ∧ laneTx 1 5 = 9 ∧ laneWavelength 5 = 1291 ∧
    (0x0048 <<< 48 + 3 <<< 40 + 2 <<< 36 + 5 <<< 32 + 1 <<< 28 + 7 <<< 24 + 0xA5C1 = 0x004803251700A5C1) ∧
    (State.reset.modPins fun p => { p with straps := 5 }).smbusAddress = 0x65 := by decide +kernel

/-- The control slot of a half-port's next frame, and the flits that the frame carries as one comes in. -/
theorem test_frameSent :
    (let s := (frameState (ctlSlot 0 0) 0 0 3).modHp 0 fun x => { x with replay := [(8, flit5), (9, flit5)], toSend := 1 }
     let c := s.ctlOut 0 9 1
     let x := (after (.frame 0 [lastWord]) s).hport 0
     c.valid = 1 ∧ c.ackseq = 2 ∧ c.ackv = true ∧ c.tsv = false ∧ c.txmap = 0xFFFF ∧ c.modid = 5 ∧
     x.sent.length = 37 ∧ x.sent[1]? = some flit5 ∧ x.toSend = 0 ∧ x.echo.isSome = true) := by decide +kernel

/-- A control slot read back from its bits (Table 14-1). -/
theorem test_ctlSlot :
    (let c : CtlSlot := ⟨9, 3, true, false, 2, true, true, List.replicate 20 7, 0xFFF0, 0xF, some 5, 2, 1, 2, 3, 4, 5, 6⟩
     ctlOf (ctlBits c) = c ∧ ctlGood (ctlBits c) = true) := by decide +kernel

/-- The packet at engine 0 changed. -/
def inbox0 (s : State) (g : FabIn → FabIn) : State := s.modEngine 0 fun y => { y with inbox := y.inbox.map g }

/-- The packet at engine 0, if any. -/
def held0 (s : State) : FabIn := (s.engine 0).inbox.headD { from_ := .here, ch := 0, head := 0, n := 0, got := 0, flits := [] }

/-- A write of two flits for a module. -/
def fabWr (m : Nat) : FabPkt := fabForm { headTo6 with dmod := m, xm := false } (.wr 0 (List.replicate 256 1))

/-- A packet's flit at engine 0 that is to leave by half-port 0, and may. -/
def mayLeave (s : State) : Bool :=
  let x := held0 s
  x.out == .port 0 && x.flits != [] && (!FabIn.hasHead x || s.hpUp 0 0) && s.fabFree 0 0 (FabIn.chan x) && !EngSt.preceded (s.engine 0) 0 x &&
    s.fabGrants 0 ⟨0, 0, FabIn.chan x, FabIn.input x 0 (hpField 0), FabIn.begun x⟩

theorem wit_Routes :
    (let s := { fabState (fabTok 6) with net := [packetAt headTo6 (.rd 0 64) (.spine 0 0x33)] }
     s.engineOn 0 = true ∧ s.moduleValid = true ∧ (s.atSpine 0 0).isSome = true ∧ headTo6.xm = true ∧ headTo6.mcg = none ∧ fabKind (.rd 0 64) = true) ∧
    (let s := fabState (fabTok 6)
     (s.engine 0).inbox[0]? = some (held0 s) ∧ EngSt.preceded (s.engine 0) 0 (held0 s) = false ∧ (held0 s).out = .open_ ∧ FabIn.hasHead (held0 s) = true ∧
     s.moduleValid = true ∧ fabKind (FabIn.pkt (held0 s)).body = true ∧ (FabIn.pkt (held0 s)).head.dmod ≠ s.moduleId ∧ (FabIn.pkt (held0 s)).hop < 5 ∧
     (FabIn.pkt (held0 s)).val = false ∧ (FabIn.pkt (held0 s)).head.dmod / 64 = s.ownGroup ∧ s.memberCand 0 ((FabIn.pkt (held0 s)).head.dmod % 64) = [0]) ∧
    (FabIn.pkt (held0 (fabState { fabTok 6 with hop := 5 }))).hop = 5 := by decide +kernel

theorem wit_Leaves_by :
    mayLeave (inbox0 (fabState (fabTok 6)) fun x => { x with out := .port 0 }) = true ∧ FabIn.pop (held0 (fabState (fabTok 6))) 1 = none ∧
    (let s := inbox0 (fabState (fabWr 6)) fun x => { x with out := .port 0 }
     mayLeave s = true ∧ (FabIn.pop (held0 s) 1).isSome = true ∧ FabIn.hasHead (held0 s) = true) ∧
    (let s := inbox0 (fabState (fabWr 6)) fun x => { x with out := .port 0, flits := x.flits.drop 1 }
     mayLeave s = true ∧ FabIn.hasHead (held0 s) = false) := by decide +kernel

theorem wit_Deliveries :
    (let s := fabState (fabTok 5)
     s.forHere 0 0 = some (held0 s, 0) ∧ flitKind (held0 s).head ≠ 10 ∧ FabIn.whole (collected (held0 s)) = true ∧ FabIn.ecrc (collected (held0 s)) = true ∧ s.serves 0 = true) ∧
    (let s := inbox0 (fabState (fabTok 5)) fun x => { x with head := x.head ^^^ 1 <<< 300 }
     s.forHere 0 0 = some (held0 s, 0) ∧ FabIn.whole (collected (held0 s)) = true ∧ FabIn.ecrc (collected (held0 s)) = false) ∧
    (let s := inbox0 (fabState (fabWr 5)) fun x => { x with got := 1, flits := x.flits.take 1 }
     s.forHere 0 0 = some (held0 s, 0) ∧ FabIn.whole (collected (held0 s)) = false) := by decide +kernel

/-- Engine 0 with the module-tree entry of `xtState 0` and a RED packet of its tree from the parent or a child. -/
def xtIn (down : Bool) : State :=
  (fabState { fabForm { headTo6 with dmod := 5, xm := false } (.red (redOnes 0)) with down := down }).setReg (xtreeCa 0 2 0)
    (BitVec.ofNat 64 (1 <<< 63 + 2 <<< 50 + 3 <<< 48 + 17 <<< 16))

theorem wit_ModuleTrees :
    ((xtState 0).atSpine 0 0).isSome = true ∧ (xtState 0).xtreeFind 0 17 0 = some 2 ∧ (xtState 0).xslot 0 ((xtState 0).xkey 0 2 5) = none ∧
    (fabState (fabTok 6)).xtreeFind 0 17 0 = none ∧ 1 < (xtState 0).fld (xtreeCa 0 2 0) 55 50 ∧
    ((xtState 0).setReg (xtreeCa 0 2 0) 0).xtreeFind 0 17 0 = none ∧
    (let s := (xtState 1).setXslot 0 ((xtState 1).xkey 0 2 0) (some ⟨0, 1, redOnes 0, 1, 0, .result⟩)
     s.xslot 0 (s.xkey 0 2 (s.fld (xtreeCa 0 2 3) 63 40)) = some ⟨0, 1, redOnes 0, 1, 0, .result⟩ ∧ s.fld (xtreeCa 0 2 3) 63 40 = 0 ∧ s.bit (xtreeCa 0 2 0) 63 = true) ∧
    ([0, 1].all fun root => let s := (xtState root).setXslot 0 ((xtState root).xkey 0 2 5) (some ⟨5, 1, redOnes 0, 1, 0, .gather⟩)
     s.xslot 0 (s.xkey 0 2 5) == some ⟨5, 1, redOnes 0, 1, 0, .gather⟩ && s.bit (xtreeCa 0 2 0) 60 == (root == 1) && decide (s.fld (xtreeCa 0 2 0) 55 50 ≤ 2)) = true ∧
    (let s := ((xtState 0).setReg (xtreeCa 0 2 0) (BitVec.ofNat 64 (1 <<< 63 + 3 <<< 50 + 3 <<< 48 + 17 <<< 16))).setXslot 0 ((xtState 0).xkey 0 2 5) (some ⟨5, 1, redOnes 0, 1, 0, .gather⟩)
     (s.xslot 0 (s.xkey 0 2 5)).isSome = true ∧ s.xtreeFind 0 17 0 = some 2 ∧ 2 < s.fld (xtreeCa 0 2 0) 55 50) ∧
    (let s := (xtState 0).setXslot 0 ((xtState 0).xkey 0 2 5) (some ⟨5, 2, redOnes 0, 1, 0, .sent⟩)
     s.xslot 0 (s.xkey 0 2 5) = some ⟨5, 2, redOnes 0, 1, 0, .sent⟩) := by decide +kernel

theorem wit_ChildTrees :
    (let s := xtIn false
     s.forHere 0 0 = some (held0 s, 0) ∧ (FabIn.pkt (held0 s)).body = .red (redOnes 0) ∧ (FabIn.pkt (held0 s)).down = false ∧ FabIn.ecrc (collected (held0 s)) = true ∧
     s.xtreeFind 0 17 0 = some 2 ∧ s.xslot 0 (s.xkey 0 2 5) = none ∧ 1 < s.fld (xtreeCa 0 2 0) 55 50) ∧
    (let s := (xtIn true).setXslot 0 ((xtIn true).xkey 0 2 5) (some ⟨5, 1, redOnes 0, 1, 0, .sent⟩)
     s.forHere 0 0 = some (held0 s, 0) ∧ (FabIn.pkt (held0 s)).body = .red (redOnes 0) ∧ (FabIn.pkt (held0 s)).down = true ∧ FabIn.ecrc (collected (held0 s)) = true ∧
     s.xslot 0 (s.xkey 0 2 5) = some ⟨5, 1, redOnes 0, 1, 0, .sent⟩) := by decide +kernel

theorem test_fabric :
    ((after (.fabricRoute 0 (.inbox 0)) (inbox0 (fabState (fabTok 6)) fun x => { x with out := .port 0 })).hport 0).replay.length = 1 ∧
    (after (.fabricRoute 0 (.inbox 0)) (fabState { fabTok 6 with hop := 5 })).events.map (·.code) = [0x18] ∧
    (after (.fabricDelivery 0 0) (fabState (fabTok 5))).net.map (·.body) = [.rd 0 64] ∧
    (after (.fabricDelivery 0 0) (inbox0 (fabState (fabTok 5)) fun x => { x with head := x.head ^^^ 1 <<< 300 })).events.map (·.code) = [0x17] ∧
    ((after (.frame 0 [lastWord]) (frameState (ctlSlot 1 0 + flit5.toNat <<< 1280) 0 0 0)).engine 0).inbox.length = 2 := by decide +kernel


/-- A head with a value of its own in every field (Table 8-2). -/
def headAll : Head :=
  { job := 2, ntag := 5, dfield := 17, dsite := 9, dlog := true, sfield := 33, ssite := 41, xm := false, tag := 700, mcg := none, smod := 77, dmod := 1234 }

theorem test_flits :
    headHeader headAll (.wr 0x1234567 (List.replicate 200 1)) = 1 <<< 108 + 2 <<< 106 + 5 <<< 102 + 17 <<< 96 + 9 <<< 90 + 1 <<< 89 + 33 <<< 83 + 41 <<< 77 +
      700 <<< 66 + 1 <<< 62 + 72 <<< 55 + 0x1234567 ∧
    headHeader headAll (.red { redOnes 3 with chunk := 0x123456 }) = 10 <<< 108 + 2 <<< 106 + 5 <<< 102 + 17 <<< 90 + 3 <<< 77 + 0x123456 <<< 53 ∧
    fabExt { fabForm headAll (.rd 0 8) with hop := 3, val := true, igrp := 513, mcnt := 99, down := true } =
      1234 <<< 80 + 77 <<< 64 + 99 <<< 40 + 1 <<< 39 + 3 <<< 13 + 1 <<< 12 + 513 <<< 2 ∧
    (let p := fabForm headAll (.wr 0x1234567 (List.replicate 200 1))
     let fs := fabFlits p
     fabParse (fs.headD 0) (fs.drop 1) = { p with head := { p.head with xm := true } } ∧ fs.length = 2 ∧ fs.all fabFlitGood = true) ∧
    crc32 (ascii "123456789") = 0xCBF43926 := by decide +kernel

theorem wit_FabricTime :
    landsOn up (fabricCa 0x18) .isoTimeset 5 (fun _ _ => true) = true ∧ (up.setReg (fabricCa 0x20) 0x100).bit (fabricCa 0x20) 8 = true ∧
    landsOn up (fabricCa 0x20) .isoTimectl 7 (fun g _ => storeFields g.fields (up.reg (fabricCa 0x20)) 7 != up.reg (fabricCa 0x20)) = true ∧
    (let s := (up.setReg (fabricCa 0x20) 7)
     landsOn s (fabricCa 0x20) .isoTimectl 7 (fun g _ => storeFields g.fields (s.reg (fabricCa 0x20)) 7 == s.reg (fabricCa 0x20)) = true ∧ s.bit (fabricCa 0x20) 8 = false) ∧
    (let s : State := { up.setReg (fabricCa 0x20) 7 with sync := { sum := 12, count := 3 } }
     s.bit (fabricCa 0x20) 8 = false ∧ s.sync.count ≠ 0 ∧ s.bit (fabricCa 0x28) 63 = false ∧ (s.setFld (fabricCa 0x28) 63 63 1).bit (fabricCa 0x28) 63 = true) ∧
    up.bit (fabricCa 0x20) 8 = false ∧ up.sync.count = 0 := by decide +kernel

theorem test_fabric_time :
    (let s : State := { up.setReg (fabricCa 0x20) 7 with sync := { sum := 12, count := 3 } }
     (after .timeAdjust s).now = 2) ∧
    (after (.timeset (caOf (fabricCa 0x18)) 99) (up.setReg (fabricCa 0x20) 0x100)).now = 99 := by decide +kernel

theorem wit_Descriptors :
    (queueUp 1 []).queueState 0 = 1 ∧ (queueUp 1 []).fld (queueCa 0 3) 63 48 ≠ ((queueUp 1 []).queue 0).tail ∧ (queueUp 1 []).livePort 0 = some 0 ∧ QueueSt.incomplete ((queueUp 1 []).queue 0) < 32 ∧
    ((queueUp 1 []).modPins fun p => { p with link0 := false }).livePort 0 = none ∧
    ([0, 3, 4, 7].all fun op => ((queueUp 1 [descWith op 0 0 .wait]).startOp 0 op).isSome) = true ∧
    (let s := queueUp 1 [descWith 3 (tileCa t0 2 0x300) 5 .wait]
     landsOn s (tileCa t0 2 0x300) .plain 5 (fun _ _ => true) = true ∧ (caOf (tileCa t0 2 0x300)).toNat = tileCa t0 2 0x300 ∧
     Desc.daddr (descWith 3 (tileCa t0 2 0x300) 5 .wait) = tileCa t0 2 0x300) ∧
    Desc.daddr (descWith 3 4 0 .wait) % 8 ≠ 0 ∧ resetOk (BitVec.ofNat 64 (1 <<< 53)) = true ∧ 5 < bits (BitVec.ofNat 64 (6 <<< 53)) 55 53 ∧
    (queueUp 1 []).rind.resets = [] ∧ (queueUp 1 []).rind.fw.restart = false := by decide +kernel

theorem wit_Completions :
    (queueUp 1 [descWith 0 0 0 (.done 0 0 0)]).cqFull 0 = false ∧ ((queueUp 1 []).setFld (queueCa 0 3) 47 32 15).cqFull 0 = true ∧
    (queueUp 2 []).queueState 0 = 2 ∧ ((queueUp 2 []).queue 0).descs = [] ∧ (queueUp 1 [descWith 0 0 0 (.done 0 0 0)]).livePort 0 = some 0 ∧ (queueUp 1 []).linkOf 0 = true ∧ (queueUp 1 []).queueFunc 0 = 0 ∧ 15 < (queueUp 1 []).sqSize 0 ∧ (queueUp 1 []).sqSize 0 ≤ 16 ∧
    (let s := queueUp 1 []
     (0 : Nat) < s.cqSize 0 ∧ (0 + s.cqSize 0 - s.fld (queueCa 0 3) 31 16) % s.cqSize 0 ≤ (s.fld (queueCa 0 3) 47 32 + s.cqSize 0 - s.fld (queueCa 0 3) 31 16) % s.cqSize 0 ∧
     ¬ ((3 + s.cqSize 0 - s.fld (queueCa 0 3) 31 16) % s.cqSize 0 ≤ (s.fld (queueCa 0 3) 47 32 + s.cqSize 0 - s.fld (queueCa 0 3) 31 16) % s.cqSize 0)) ∧
    (let s := (queueUp 1 []).modQueue 0 fun x => { x with now := true }
     s.msixDue 0 = true ∧ (s.msixWord (msixKey 0 0 0 + 3)).getLsbD 0 = true ∧
     ((s.modPcie fun x => { x with msix := [(3, 1)] }).msixWord (msixKey 0 0 0 + 3)).getLsbD 0 = false) ∧
    (up.postRind 0x1B none 5).events.length = 1 ∧ up.eventQueue ⟨0x1B, none, none, 0, 0, 0, 0⟩ = none := by decide +kernel

theorem test_descriptors :
    (after (.completionWrite 0) (queueUp 1 [descWith 0 0 0 (.done 0 0 0)])).rind.tlps.length = 1 ∧
    ((after (.descriptorFetch 0) (queueUp 1 [])).rind.tlps.map fun p => p.1) = [0] ∧
    (after (.sqDoorbell 0 0 4 16) (queueUp 1 [])).queueState 0 = 3 ∧ ((after (.sqDoorbell 0 0 4 15) (queueUp 1 [])).queue 0).tail = 15 ∧
    (after .timeAdjust up).now = 0 ∧ (after .eventRecord (up.postRind 0x1B none 5)).reg (logCa 0 1) = 5 := by decide +kernel

theorem wit_Copies :
    (queueUp 1 [copyDesc 1 padOf0 .wait]).rindRoom 1 = true ∧ (queueUp 1 [copyDesc 2 padOf0 .wait]).rindRoom 1 = true ∧
    ((queueUp 1 [copyDesc 1 padOf0 .wait]).startOp 0 1).isSome = true ∧ ((queueUp 1 [copyDesc 2 padOf0 .wait]).startOp 0 2).isSome = true ∧
    Desc.haddr (copyDesc 1 padOf0 .wait) % 8 = 0 ∧ Desc.len (copyDesc 1 padOf0 .wait) = 1024 ∧ Desc.daddr (copyDesc 1 padOf0 .wait) % 8 = 0 ∧
    ([1, 2].all fun op => ((queueUp 1 [copyDesc op 4 .wait]).startOp 0 op).map Desc.daddr == some 4) = true ∧
    ((queueUp 1 [copyDesc 2 (4 <<< 52 + 0x1800000) .wait]).startOp 0 2).map Desc.daddr = some (4 <<< 52 + 0x1800000) ∧
    Desc.haddr (⟨7, [0, 4], 1, .wait⟩ : Desc) % 8 ≠ 0 ∧
    decodeAddr padOf0 = .padLogical 0 0 0 ∧ decodeAddr (4 <<< 52 + 0x1800000) = .unmapped := by decide +kernel

/-- A posted byte is one TLP, whatever the port's payload. -/
theorem wit_PostedTlps (s : State) : (s.opTlps ⟨0x40, 64, some [1], .posted, 0⟩).length ≤ 1 := by
  simp only [State.opTlps, payloadOf]
  split
  · simp
  · split <;> simp

theorem wit_HostOperations :
    (let s := withGrants ((queueUp 1 []).hostOp ⟨0x40, 64, none, .desc 0 7, 0⟩) (arbBase .host) [1]
     s.agent.ops[0]? = some ⟨0x40, 64, none, .desc 0 7, 0⟩ ∧ (s.opTlps ⟨0x40, 64, none, .desc 0 7, 0⟩).length ≤ (s.arb (arbBase .host)).grants.getD 0 0 ∧ s.livePort (s.opPort ⟨0x40, 64, none, .desc 0 7, 0⟩) = some 0) ∧
    (let s := withGrants ((queueUp 1 []).hostOp ⟨0x40, 64, some [1], .posted, 0⟩) (arbBase .host) [1]
     s.agent.ops[0]? = some ⟨0x40, 64, some [1], .posted, 0⟩ ∧ s.livePort (s.opPort ⟨0x40, 64, some [1], .posted, 0⟩) = some 0 ∧
       (s.arb (arbBase .host)).grants.getD 0 0 = 1) ∧
    (let s := withGrants (up.hostOp ⟨0x40, 64, some [1], .posted, 0⟩) (arbBase .host) [1]
     s.agent.ops[0]? = some ⟨0x40, 64, some [1], .posted, 0⟩ ∧ s.livePort (s.opPort ⟨0x40, 64, some [1], .posted, 0⟩) = none ∧
       (s.arb (arbBase .host)).grants.getD 0 0 = 1) ∧
    ((readOut (.desc 0 7) 64 [copyDesc 1 padOf0 .fetch]).readOf 0 3).isSome = true ∧ ((readOut (.desc 0 7) 64 [copyDesc 1 padOf0 .fetch]).desc 0 7).isSome = true ∧
    (readOut (.desc 0 7) 64 []).linkOf 0 = true ∧ ((readOut (.h2d 0 7) 256 [copyDesc 1 padOf0 (.copy { line := 256 })]).copyOf 0 7).isSome = true ∧
    up.readOf 0 3 = none := by decide +kernel

theorem test_copies :
    (after (.h2d 0) (queueUp 1 [copyDesc 1 padOf0 .wait])).agent.ops.map (·.len) = [256] ∧
    (after (.d2h 0) (queueUp 1 [copyDesc 2 padOf0 .wait])).net.length = 1 ∧
    (after (.pcieCompletion 0 3 (some (List.replicate 256 1))) (readOut (.h2d 0 7) 256 [copyDesc 1 padOf0 (.copy { line := 256 })])).net.length = 1 ∧
    ((after (.completionTimeout 0 3) (readOut (.desc 0 7) 64 [copyDesc 1 padOf0 .fetch])).queue 0).descs.map (·.st) = [.done 4 0 0] := by decide +kernel

theorem wit_HostFunctions :
    hostUp.linkOf (portOf 0).val = true ∧ hostUp.rindRoom 9 = true ∧ (hostUp.modRind fun x => { x with bars := List.replicate 64 ⟨0, 0, 0, 8, 9, [], false⟩ }).linkOf 0 = true ∧ hostUp.funcOn 0 = true ∧ hostUp.barSpot 0 0x20 = .ca (rindCa 0 0x20) ∧
    landsOn hostUp (rindCa 0 0x18) .plain 5 (fun _ _ => true) = true ∧ (caOf (rindCa 0 0x18)).toNat = rindCa 0 0x18 ∧ rindCa 0 0x18 ≠ tlpCountCa 0 ∧
    hostUp.barSpot 0 0x18 = .ca (rindCa 0 0x18) ∧ hostUp.barSpot 1 0x40 = .none ∧ hostUp.funcOn 1 = true ∧
    (let w := hostUp.reg (dwinCa 0 0)
     w.getLsbD 63 = true ∧ decodeAddr (bits w 55 32 <<< 32 + 64) = .padLogical 0 0 64) ∧
    (hostUp.reg (dwinCa 0 1)).getLsbD 63 = false ∧ (hostUp.modPcie fun x => { x with d3hot := [0] }).funcOn 0 = false ∧
    (hostUp.setFld (queueCa 64 0) 62 60 2).queueFunc 64 = 2 ∧ hostUp.rind.pcie.vfEnable = true ∧ hostUp.queueFunc 0 = 0 ∧
    (hostUp.modPins fun p => { p with link1 := true }).linkOf (portOf 5).val = true ∧ hostUp.domState 49 = 7 ∧ State.reset.domState 49 ≠ 7 := by decide +kernel

theorem wit_D3hot : up.queuesOn 5 = false ∧ hostUp.queuesOn 0 = true := by decide +kernel

theorem test_bars :
    (after (.bar0Write 0 0x18 [1, 12, 0, 0, 0, 0, 0, 0]) hostUp).reg (rindCa 0 0x18) = 0xC01 ∧
    (after (.bar0Write 0 0x18 [5, 0, 0, 0]) hostUp).events.map (·.code) = [4] ∧
    ((after (.bar2Access 0 3 64 none 8) hostUp).net.map fun p => p.head.dsite) = [0] ∧
    (after (.bar0Read 0 3 0x19 8) hostUp).rind.tlps = [(0, .cplCa 0 3)] := by decide +kernel

theorem wit_Load :
    ((queueUp 1 [descWith 5 0 0 .wait]).startOp 0 5).isSome = true ∧ (queueUp 1 []).rind.load = none ∧ (queueUp 1 []).rind.fw.restart = false ∧
    (loadState none).rind.load.isSome = true ∧ (loadState (some [1])).rind.load.isSome = true ∧ ([1] : List Byte) ≠ [2] ∧
    ((queueUp 1 [descWith 5 0 0 .wait]).passOne 0 []).isOk = false := by decide +kernel

/-- An image that pass 1 refuses: a LOAD of LEN 0 is not TOTAL + 256 bytes. -/
theorem wit_Load_refused : (((queueUp 1 [descWith 5 0 0 .wait]).putDesc 0 7 .load).passOne 0 (given (descWith 5 0 0 .wait) [])).toOption = none := by decide +kernel

/-- An image of one empty CONTEXT section, with a signature of zeros. -/
def img0 : List Byte :=
  ascii "CHEORSER" ++ [1, 0, 0, 1, 1, 0, 0, 0, 0x40, 1, 0, 0, 0, 0, 0, 0] ++ List.replicate 232 0 ++ [1, 0, 0, 0, 0, 0, 0, 0, 0x40, 1] ++ List.replicate 310 0

/-- A LOAD of 576 bytes on queue 0. -/
def loadDesc (st : DescSt) : Desc := ⟨7, [BitVec.ofNat 64 (5 <<< 56), 0, 0, 576, 0, 0, 0, 0], 1, st⟩

/-- Where its signature is accepted (ECDSA is opaque), pass 1 accepts the image. -/
theorem wit_Load_accepted :
    let s := fwState 3 (queueUp 1 [loadDesc .wait])
    let s1 := s.putDesc 0 7 .load
    s.rind.load = none ∧ s.rind.fw.restart = false ∧ s.startOp 0 5 = some (loadDesc .wait) ∧ s.queueFunc 0 = 0 ∧
    (s1.sigOk 60 ((given (loadDesc .wait) img0).drop 320) ((given (loadDesc .wait) img0).take 320) = true → (s1.passOne 0 (given (loadDesc .wait) img0)).toOption = some []) := by
  refine ⟨by decide +kernel, by decide +kernel, by decide +kernel, by decide +kernel, fun h => ?_⟩
  have e : (imgHead (given (loadDesc .wait) img0)).total = 320 := by decide +kernel
  unfold State.passOne
  simp only [e, h]
  decide +kernel

/-- Whatever the verdict on its signature, a clause about FWLOAD applies. -/
theorem wit_Fwload : packageOk pkg0 = true ∧ ((fwState 3 up).sigOk 61 (pkg0.drop 68) (pkg0.take 68) = true ∨ (fwState 3 up).sigOk 61 (pkg0.drop 68) (pkg0.take 68) = false) :=
  ⟨by decide +kernel, by cases (fwState 3 up).sigOk 61 (pkg0.drop 68) (pkg0.take 68) <;> simp⟩

theorem wit_Firmware :
    ((queueUp 1 [fwDesc .wait]).startOp 0 6).isSome = true ∧ ((queueUp 1 [fwDesc .fwload]).queue 0).descs.find? (fun d => d.st == .fwload) = some (fwDesc .fwload) ∧
    packageOk (given (fwDesc .fwload) pkg0) = true ∧ packageOk (given (fwDesc .fwload) []) = false ∧
    (fwState 8 up).fwStat.getLsbD 63 = true ∧ (fwState 8 up).rind.fw.ready = false ∧ (fwState 8 up).rind.ticks - (fwState 8 up).rind.fw.since < 2000000000 ∧
    (let s := (fwState 8 up).modRind fun x => { x with ticks := 2000000000 }
     2000000000 ≤ s.rind.ticks - s.rind.fw.since) ∧
    ((queueUp 1 [fwDesc .wait]).rind.fw.restart = false) ∧ (((queueUp 1 [fwDesc .wait]).queue 0).descs.all fun x => x.st != .fwload) = true ∧ (fwState 3 up).fwStat.getLsbD 63 = false ∧ (fwState 3 up).fwStat.getLsbD (spareBit (fwState 3 up)) = true ∧
    (fwState 3 up).coreBusy = false ∧ (fwState 1 up).fwStat.getLsbD (spareBit (fwState 1 up)) = false ∧ bits (fwState 3 up).fwStat 47 40 ≤ imgNum pkg0 10 1 ∧
    (up.modFw fun x => { x with restart := true }).rind.fw.restart = true ∧
    imgNum pkg0 10 1 < bits (up.setFwStat (BitVec.ofNat 64 (2 <<< 40))).fwStat 47 40 := by decide +kernel

theorem test_images :
    ((after (.load 0 [] none) (queueUp 1 [descWith 5 0 0 .wait])).fld loadstatCa 55 48) = 6 ∧
    ((after (.load 0 [] (some (77, false))) (queueUp 1 [descWith 5 0 0 .wait])).reg loadstatCa) = BitVec.ofNat 64 (4 <<< 48 + 77) ∧
    ((after (.load 0 [] none) (loadState (some [1]))).ctx t0 2).state = .stopped ∧ ((after (.load 0 [] none) (loadState (some [2]))).ctx t0 2).state = .empty ∧
    (after .switch (fwState 3 up)).fwStat.getLsbD 62 = true ∧ (after .firmwareRevert (fwState 12 up)).fwStat.getLsbD 62 = true ∧
    (after .firmwareRevert ((fwState 12 up).modRind fun x => { x with ticks := 2000000000 })).fwStat.getLsbD 62 = false := by decide +kernel

/-- A word of tile site 0 given. -/
def withPadWord (s : State) (off v : Nat) : State := s.setBytes (padAddr t0 off) (toBytes 8 v)

theorem wit_Leaves :
    ([0, 1, 2].all fun st => (srcState st).unitRuns t0 && (srcState st).bit (srcCa t0 0 0) 63 && (srcState st).fld (srcCa t0 0 3) 63 62 == st) = true ∧
    (srcState 0).inBounds t0 0 0 8 = true ∧ (srcState 0).inBounds t0 0 8 8 = true ∧ (srcState 0).ecc = [] ∧ (srcState 0).rind.load = none ∧
    bits ((srcState 0).reg (srcCa t0 0 0)) 62 61 = 0 ∧ (srcState 0).fld (srcCa t0 0 1) 56 32 = 0 ∧ (srcState 0).fld (srcCa t0 0 2) 56 32 = 8 ∧
    bits ((srcState 0).padWordAt t0 0) 31 0 = 0 ∧ bits ((withPadWord (srcState 0) 0 1).padWordAt t0 0) 31 0 ≠ 0 ∧ (srcState 0).fld (srcCa t0 0 2) 31 0 = 1 ∧
    bits ((withPadWord (srcState 0) 8 1).padWordAt t0 8) 31 0 = 1 ∧ bits ((withPadWord (srcState 1) 8 2).padWordAt t0 8) 31 0 ≠ 1 := by decide +kernel

theorem wit_Chunks :
    (((srcState 2).nextChunk t0 0).2.2.2.inject t0 0 ((srcState 2).nextChunk t0 0).1 []).isNone = true ∧
    (let s := (srcState 2).setReg (trtCa t0 0 0) (BitVec.ofNat 64 (1 <<< 63 + 2 <<< 43))
     let c := s.nextChunk t0 0
     (c.2.2.2.inject t0 0 c.1 []).isSome = true ∧ c.2.2.1.pos < roundChunks (s.fld (srcCa t0 0 0) 16 0) (s.bit (srcCa t0 0 0) 60)) ∧
    (let s := ((srcState 2).setReg (trtCa t0 0 0) (BitVec.ofNat 64 (1 <<< 63 + 2 <<< 43))).modTile t0 fun x => { x with srcs := tset {} x.srcs 0 { pos := 999999 } }
     let c := s.nextChunk t0 0
     (c.2.2.2.inject t0 0 c.1 []).isSome = true ∧ roundChunks (s.fld (srcCa t0 0 0) 16 0) (s.bit (srcCa t0 0 0) 60) ≤ c.2.2.1.pos) := by decide +kernel

/-- A shard entry of two rounds. -/
def twoRounds (y : SinkSt) : State := (shardState 0 y).setFld (shardCa t0 0 0) 54 52 2

theorem wit_Sinks :
    (let s := (shardState 0 {}).modTile t0 fun x => { x with sinkIn := [(0, { redOnes 1 with chunk := 0 })] }
     s.unitRuns t0 = true ∧ s.bit (shardCa t0 0 0) 63 = true ∧ (s.sink t0 0).round = 0 ∧ (s.shard t0 0).tree = 17 ∧ (s.shard t0 0).rounds = 1 ∧ (s.sink t0 0).pos < dataChunks (s.shard t0 0).nel ∧ tget 0 (s.tile t0).sinkNext 17 = 0) ∧
    (shardState 0 {}).inBounds t0 0 0 128 = true ∧ ((twoRounds {}).shard t0 0).rounds = 2 ∧ (twoRounds {}).fld (shardCa t0 0 2) 24 0 = 0 ∧ (twoRounds {}).inBounds t0 ((twoRounds {}).shard t0 0).job 0 128 = true ∧
    ((up.bit (shardCa t0 0 0) 63 = false) ∧ ((List.finRange 16).all fun k => !up.bit (shardCa t0 k 0) 63) = true ∧ up.unitRuns t0 = true) ∧ ((shardState 0 {}).tile t0).sinkIn = [] ∧
    (shardState 0 { lanes := lanes64 8, block := 1, asked := true, got := parts 1 }).tagsFree t0 16 = true ∧
    SinkSt.badBlock { lanes := lanes64 8 } 1 = true ∧ SinkSt.badBlock { lanes := lanes64 0 } 1 = false ∧ SinkSt.badShard { lanes := lanes64 0 } = false ∧
    (shardState 1 {}).bit (shardCa t0 0 0) 63 = true ∧ ((shardState 2 {}).shard t0 0).blocks = 2 ∧ ((shardState 2 {}).shard t0 0).fam = 2 ∧ (shardState 2 {}).arrayFree t0 = true ∧
    (SinkSt.grads { lanes := lanes64 0 } 0 0).length = 32 ∧ ((shardState 1 {}).shard t0 0).nel ≤ 64 ∧ 1 < ((shardState 1 {}).shard t0 0).blocks ∧ (shardState 2 {}).inBounds t0 ((shardState 2 {}).shard t0 0).job 0 256 = true ∧ (shardState 2 {}).fld (shardCa t0 0 3) 24 0 = 0 ∧
    ((shardState 1 { lanes := lanes64 0, phase := .apply }).unitRuns t0 = true ∧ SinkSt.badShard ((shardState 1 { lanes := lanes64 0, phase := .apply }).sink t0 0) = false ∧
      (shardState 1 { lanes := lanes64 0, phase := .apply }).arrayFree t0 = true) ∧
    (let s := shardState 0 { round := 1, master := [(0, []), (0, [])] }
     s.tagsFree t0 2 = true ∧ (s.sink t0 0).tag = none ∧ (s.shard t0 0).rounds ≤ (s.sink t0 0).round ∧ (s.shard t0 0).blocks ≤ (s.sink t0 0).master.length ∧ (s.tile t0).txns = []) ∧
    (let s := (shardState 0 { tag := some 3 }).modTile t0 fun x => { x with txns := tset none x.txns 3 (some (.updWrite 0)) }
     (tget none (s.tile t0).txns 3).isSome = true ∧ s.tagsFree t0 2 = true) ∧ (((shardState 2 {}).modTile t0 fun x => { x with mxe := { x.mxe with halted := true } }).arrayFree t0) = false ∧
    (((shardState 1 { tag := some 3 }).tile t0).txns = []) := by decide +kernel

/-- The hypotheses of BlockDue, as a test. -/
def blockDue (s : State) (want : List Nat) : Bool :=
  s.unitRuns t0 && s.bit (shardCa t0 0 0) 63 && s.tagsFree t0 16 && ((s.sink t0 0).asked || want.isEmpty) && decide ((s.sink t0 0).block < (s.shard t0 0).blocks) &&
    want.all fun i => ((s.sink t0 0).got.any fun g => g.1 == 2 * i) && (s.sink t0 0).got.any fun g => g.1 == 2 * i + 1

theorem wit_Blocks :
    blockDue (shardState 0 { lanes := lanes64 8, asked := true, got := parts 1 }) [0] = true ∧
    blockDue (shardState 0 { lanes := lanes64 0, asked := true, got := parts 3 }) [0, 1, 2] = true ∧
    blockDue (shardState 1 { lanes := lanes64 0, asked := true, got := parts 2 }) [1] = true ∧ blockDue (shardState 2 { lanes := lanes64 0 }) [] = true ∧
    (let s := shardState 2 { lanes := lanes64 0, asked := true, got := parts 3, phase := .factors }
     blockDue s [1, 2] = true ∧ SinkSt.badShard (s.sink t0 0) = false) ∧
    (let s := shardState 2 { lanes := lanes64 0, phase := .factors, block := 2 }
     (s.shard t0 0).blocks ≤ (s.sink t0 0).block ∧ s.arrayFree t0 = true) ∧
    ([1, 2].all fun fam => blockDue (shardState fam { lanes := lanes64 0, asked := true, got := parts 1, phase := .apply, result := some [] }) [0]) = true := by decide +kernel

theorem test_update :
    ((after (.blockUpdate t0 0) (shardState 0 { lanes := lanes64 8, block := 1, asked := true, got := parts 1 })).sink t0 0).block = 2 ∧
    ((after (.sinkChunk t0 0 []) (up.modTile t0 fun x => { x with sinkIn := [(0, redOnes 1)] })).tile t0).returned.length = 10 ∧
    (after (.shardSettle t0 0) (shardState 1 { tag := some 3, next := 5 })).fld (shardCa t0 0 12) 63 48 = 5 ∧
    (after (.sourcePoll t0 0) (withPadWord (withPadWord (srcState 0) 0 1) 8 1)).fld (srcCa t0 0 3) 63 62 = 2 ∧
    (let s := (shardState 0 {}).modTile t0 fun x => { x with sinkIn := [(0, { redOnes 1 with chunk := 0 })] }
     ((after (.sinkChunk t0 0 []) s).sink t0 0).lanes.length = 10) := by decide +kernel

/-- Context 0 of tile site 0 RUNNING with a ring whose head record, at 0x400, holds some words. -/
def ringState (ws : List Word) : State :=
  let s := ((inState 0 .running).setReg (spxRingCa t0 0) (BitVec.ofNat 64 (1 <<< 63 + 0x400 <<< 32))).setReg (spdBoundCa t0 0) (BitVec.ofNat 64 (0xBFFF <<< 32))
  s.setBytes (padAddr t0 0x400) (ws.flatMap fun w => toBytes 8 w.toNat)

theorem wit_Polls :
    ([spxRec 3 0, spxRec 3 3, List.replicate 16 0].all fun ws =>
      let s := ringState ws
      s.unitRuns t0 && (s.spx t0).cmd.isNone && s.ringLive t0 0 && decide ((s.spx t0).last + 1 = 0 ∧ headAt s t0 0 = 0x400) && s.inBounds t0 (s.jobOf t0 0).val 0x400 128 &&
        s.ecc.isEmpty && s.rind.load.isNone && !([1, 2, 3].any fun c => s.ringLive t0 c) && wordsAt s t0 0x400 16 == ws) = true ∧
    recordOk { ctx := 0, words := spxRec 3 0, rec_ := 0x400 } = true ∧ recordOk { ctx := 0, words := spxRec 3 3, rec_ := 0x400 } = false ∧
    SpxCmd.op { ctx := 0, words := spxRec 3 3, rec_ := 0x400 } = 3 ∧
    ((ringState (spxRec 3 0)).recordOverlaps t0 { ctx := 0, words := spxRec 3 0, rec_ := 0x400 } [] = false) ∧
    ((ringState (spxRec 3 0)).recordOverlaps t0 { ctx := 0, words := (spxRec 3 0).set 4 (BitVec.ofNat 64 (0x1000 <<< 32 + 2)), rec_ := 0x400 } [] = true) ∧
    ([0, 1, 2, 3].any fun c => up.ringLive t0 c) = false ∧ up.unitRuns t0 = true ∧ ((spxState { ctx := 0, words := spxRec 3 1, rec_ := 0x400 }).spx t0).cmd.isSome = true := by
  decide +kernel

/-- A command with everything it reads at hand. -/
def readyCmd (op mode : Nat) : SpxCmd := { ctx := 0, words := spxDescs op mode, rec_ := 0x400, planned := true }

theorem wit_SparseSources :
    (spxState (readyCmd 1 0)).unitRuns t0 = true ∧ ((spxState (readyCmd 1 0)).spx t0).cmd = some (readyCmd 1 0) ∧ SpxCmd.op (readyCmd 1 0) = 1 ∧
    ((SpxCmd.srcD (readyCmd 1 0)).map fun d => d.fmt.isSome) = some true ∧
    ([0, 1].all fun m => SpxCmd.op (readyCmd 2 m) == 2 && SpxCmd.mode (readyCmd 2 m) == m && (SpxCmd.dstD (readyCmd 2 m)).isSome &&
      ((SpxCmd.srcD (readyCmd 2 m)).map fun d => d.fmt.isSome) == some true) = true ∧
    ([0, 1, 2].all fun m => SpxCmd.op (readyCmd 3 m) == 3 && SpxCmd.mode (readyCmd 3 m) == m) = true := by decide +kernel

theorem wit_Buckets :
    SpxCmd.op (readyCmd 4 0) = 4 ∧ (readyCmd 4 0).missed = false ∧ (readyCmd 4 0).owned = false ∧ bits (SpxCmd.word (readyCmd 4 0) 2) 56 32 + 8 * 0 = 0x1000 ∧
    (let s := spxState (readyCmd 4 0)
     s.inBounds t0 (s.jobOf t0 0).val 0x1000 8 = true ∧ bucketOk (s.padWordAt t0 0x1000) = false ∧ bucketOk ((withPadWord s 0x1000 0x0101).padWordAt t0 0x1000) = true ∧
       s.inBounds t0 (s.jobOf t0 0).val (bits (SpxCmd.word (readyCmd 4 0) 1) 56 32) 8 = true) ∧
    bits (SpxCmd.word (readyCmd 4 0) 1) 56 32 % 8 = 0 ∧ bits (SpxCmd.word (readyCmd 4 0) 2) 23 0 ≤ 0 + 1 ∧
    (let c : SpxCmd := { readyCmd 4 0 with words := (spxDescs 4 0).set 2 (BitVec.ofNat 64 (0x1000 <<< 32 + 2)), owned := true }
     c.bucket + 1 < bits (SpxCmd.word c 2) 23 0 ∧ ((SpxCmd.srcD c).map fun d => d.fmt.isSome) = some true ∧ (SpxCmd.dstD c).isSome = true) := by decide +kernel

theorem wit_Completes :
    let c : SpxCmd := { ctx := 0, words := spxRec 3 0, rec_ := 0x400, ready := true, out := [(0x800, [1, 2])] }
    let s := spxState c
    let rs := [(0x800, 2), (bits (SpxCmd.word c 0) 24 0, 8), (bits (SpxCmd.word c 1) 56 32, 8), (0x400, 8)]
    (rs.all fun r => s.inBounds t0 (s.jobOf t0 0).val r.1 r.2) = true ∧ rs.Pairwise (fun x y => regionsMeet x y = false) ∧ bits (SpxCmd.word c 0) 24 0 % 8 = 0 ∧
      bits (SpxCmd.word c 1) 56 32 % 8 = 0 ∧ s.ecc = [] ∧ s.rind.load = none := by decide +kernel

theorem test_sparse :
    (((after (.union t0) ((spxState { ctx := 0, words := spxRec 3 1, rec_ := 0x400 }).setByte (padAddr t0 0x1000) 5)).spx t0).cmd.map (·.nout)) = some 2 ∧
    (((after (.intersect t0) (spxState { ctx := 0, words := spxRec 3 0, rec_ := 0x400 })).spx t0).cmd.map (·.nout)) = some 1 ∧
    (((after (.bucket t0) (spxState { ctx := 0, words := spxDescs 4 0, rec_ := 0x400 })).spx t0).cmd.map (·.cmdErr)) = some true ∧
    ((after (.commandComplete t0) (spxState { ctx := 0, words := spxRec 3 0, rec_ := 0x400, nout := 7, ready := true })).padWordAt t0 0x100) = 7 := by decide +kernel

theorem wit_Arbiters :
    (arbState false).runs (arbBase (.sfu t0)) = true ∧ ((arbState false).arb (arbBase (.sfu t0))).due = false ∧ (arbState false).arbOwner (arbBase (.sfu t0)) = none ∧ 2 < (arbDims (arbBase (.sfu t0))).2.1 ∧
    (let s := (after (.commit (.sfu t0) false) ((arbState false).setReg (arbReqCa (arbBase (.sfu t0)) 0 0) (BitVec.ofNat 64 (1 <<< 24 + 256)))).arbGrant (arbBase (.sfu t0)) (some 0)
     s.arbOwner (arbBase (.sfu t0)) = some 0 ∧ (s.arb (arbBase (.sfu t0))).due = false ∧ s.arbRank (arbBase (.sfu t0)) (fun m => m == 0) = [0] ∧
       s.arbBurst (arbBase (.sfu t0)) 0 = 0 ∧ s.arbPre (arbBase (.sfu t0)) 0 = true) ∧
    ArbAsk.kept ⟨true, 3, 2, true, false⟩ 3 = false ∧ ArbAsk.kept ⟨true, 3, 2, true, false⟩ 2 = true ∧
    3 ≤ (arbDims (arbBase (.sfu t0))).1 ∧ State.reset.runs (arbBase (.sfu t0)) = false ∧
    ((arbState true).arb (arbBase (.sfu t0))).due = true ∧
    up.answers (arbBase (.sfu t0)) = true ∧ up.fld (arbBase (.sfu t0)) 15 0 ≠ 0 ∧ (up.setFld (arbBase (.sfu t0)) 15 0 0).fld (arbBase (.sfu t0)) 15 0 = 0 ∧
    State.reset.answers (arbBase (.sfu t0)) = false ∧ up.fld (arbBase (.optical 0)) 15 0 % (arbDims (arbBase (.optical 0))).2.2 = 0 := by decide +kernel

theorem test_arbiters :
    (let s := after (.windowStart (.sfu t0)) (arbState true)
     s.arbCredit (arbBase (.sfu t0)) 0 = 256) ∧
    (let s := after (.arbiterPeriod (.sfu t0) [⟨true, 3, 2, true, false⟩]) ((arbState false).setFld (arbReqCa (arbBase (.sfu t0)) 0 1) 11 0 10)
     s.arbCredit (arbBase (.sfu t0)) 0 = 7) ∧
    ((after (.refill (.sfu t0)) (arbState false)).arb (arbBase (.sfu t0))).due = true := by decide +kernel

theorem wit_OfTile : OfTile (.jmp t0 5) t0 ∧ (∃ u, exec (.jmp t0 5) run0 = .next u) ∧ OfTile (.ringPoll t0) t0 := ⟨rfl, ⟨_, rfl⟩, rfl⟩

theorem wit_OfNetwork : OfNetwork (.flushAll 0) ∧ ∃ u, exec (.flushAll 0) up = .next u := ⟨trivial, _, rfl⟩

theorem wit_OfRind : OfRind .gettid ∧ ∃ u, exec .gettid up = .next u := ⟨trivial, _, rfl⟩

theorem wit_OfFabric : OfFabric (.signalDetect 0) ∧ StoresNothing (.functionLevelReset 0) ∧ (∃ u, exec (.signalDetect 0) up = .next u) ∧ ∃ u, exec (.functionLevelReset 0) up = .next u := by
  refine ⟨trivial, trivial, ?_, ?_⟩
  · exact ⟨after (.signalDetect 0) up, rfl⟩
  · exact ⟨after (.functionLevelReset 0) up, rfl⟩

end Sys2Proof.Tests
end

/-! ## What a tile's own commands leave alone (O57)

The part of a state that a tile's commands must not touch is itself a value, `State.offTile`. Each operation of a tile then has one
equation, that it keeps this value, and a command's frame follows by rewriting with the equations of the operations it is made of. -/

namespace Sys2Proof.Machine

/-- A state without registers, residue marks, packets and events, and without one tile and that tile's SFU arbiter. -/
def State.offTile (s : State) (t : Tile) : State × (Tile → TileSt) × (Nat → ArbSt) :=
  ({ s with regs := [], resBad := [], tiles := [], arbs := [], net := [], netSeq := 0, vcb := [], events := [] },
   fun x => if x = t then {} else s.tile x, fun b => if b = arbBase (.sfu t) then {} else s.arb b)

theorem funExcept_eq_iff {α β : Type} [DecidableEq α] (a : α) (d : β) (f g : α → β) :
    ((fun x => if x = a then d else f x) = fun x => if x = a then d else g x) ↔ ∀ x, x ≠ a → f x = g x := by
  rw [funext_iff]
  exact forall_congr' fun x => by by_cases hx : x = a <;> simp [hx]

theorem State.offTile_eq_iff {s u : State} {t : Tile} : u.offTile t = s.offTile t ↔
    u = { s with regs := u.regs, resBad := u.resBad, tiles := u.tiles, arbs := u.arbs, net := u.net, netSeq := u.netSeq, vcb := u.vcb,
                 events := u.events } ∧
    (∀ x, x ≠ t → u.tile x = s.tile x) ∧ ∀ b, b ≠ arbBase (.sfu t) → u.arb b = s.arb b := by
  simp only [State.offTile, Prod.mk.injEq, funExcept_eq_iff]
  refine and_congr_left fun _ => ⟨fun h => ?_, fun h => by rw [h]⟩
  obtain ⟨⟩ := u
  obtain ⟨⟩ := s
  simpa using h

section
variable (s : State) (t : Tile)

/-! ### Through branches and folds -/

@[simp] theorem State.ite_offTile (p : Prop) [Decidable p] (u v : State) :
    (if p then u else v).offTile t = if p then u.offTile t else v.offTile t := apply_ite (·.offTile t) p u v

@[simp] theorem State.ite_snd_offTile {α : Type} (p : Prop) [Decidable p] (u v : α × State) :
    (if p then u else v).2.offTile t = if p then u.2.offTile t else v.2.offTile t := apply_ite (·.2.offTile t) p u v

@[simp] theorem State.foldl_offTile {α : Type} (f : State → α → State) (l : List α) (h : ∀ s a, (f s a).offTile t = s.offTile t) :
    (l.foldl f s).offTile t = s.offTile t := by
  induction l generalizing s with
  | nil => rfl
  | cons a l ih => rw [List.foldl_cons, ih, h]

@[simp] theorem State.foldl_snd_offTile {α β : Type} (f : β × State → α → β × State) (l : List α) (p : β × State)
    (h : ∀ p a, (f p a).2.offTile t = p.2.offTile t) : (l.foldl f p).2.offTile t = p.2.offTile t := by
  induction l generalizing p with
  | nil => rfl
  | cons a l ih => rw [List.foldl_cons, ih, h]

/-! ### The primitive updates -/

@[simp] theorem State.setReg_offTile (ca v) : (s.setReg ca v).offTile t = s.offTile t :=
  State.offTile_eq_iff.2 ⟨rfl, fun _ _ => rfl, fun _ _ => rfl⟩

@[simp] theorem State.setFld_offTile (ca hi lo v) : (s.setFld ca hi lo v).offTile t = s.offTile t := s.setReg_offTile t _ _

@[simp] theorem State.orReg_offTile (ca m) : (s.orReg ca m).offTile t = s.offTile t := s.setReg_offTile t _ _

@[simp] theorem State.raise_offTile (ca n) : (s.raise ca n).offTile t = s.offTile t := s.orReg_offTile t _ _

@[simp] theorem State.bumpSat_offTile (ca hi lo n) : (s.bumpSat ca hi lo n).offTile t = s.offTile t := s.setFld_offTile t _ _ _ _

@[simp] theorem State.count_offTile (ca n) : (s.count ca n).offTile t = s.offTile t := by
  obtain ⟨v, h⟩ := s.count_eq_setReg ca n
  rw [h, State.setReg_offTile]

@[simp] theorem State.post_offTile (code job ctx field site detail) : (s.post code job ctx field site detail).offTile t = s.offTile t :=
  State.offTile_eq_iff.2 ⟨rfl, fun _ _ => rfl, fun _ _ => rfl⟩

@[simp] theorem State.postCtx_offTile (code x c detail) : (s.postCtx code x c detail).offTile t = s.offTile t :=
  s.post_offTile t _ _ _ _ _ _

@[simp] theorem State.postTile_offTile (code x detail) : (s.postTile code x detail).offTile t = s.offTile t :=
  s.post_offTile t _ _ _ _ _ _

@[simp] theorem State.configError_offTile (ca) : (s.configError ca).offTile t = s.offTile t := s.post_offTile t _ _ _ _ _ _

@[simp] theorem State.caError_offTile (ca) : (s.caError ca).offTile t = s.offTile t := s.post_offTile t _ _ _ _ _ _

@[simp] theorem State.send_offTile (h b) : (s.send h b).offTile t = s.offTile t :=
  State.offTile_eq_iff.2 ⟨rfl, fun _ _ => rfl, fun _ _ => rfl⟩

@[simp] theorem State.takePacket_offTile (h b) : (s.takePacket h b).offTile t = s.offTile t :=
  State.offTile_eq_iff.2 ⟨rfl, fun _ _ => rfl, fun _ _ => rfl⟩

@[simp] theorem State.vcbAge_offTile (x since) : (s.vcbAge x since).offTile t = s.offTile t :=
  State.offTile_eq_iff.2 ⟨rfl, fun _ _ => rfl, fun _ _ => rfl⟩

@[simp] theorem State.resBad_offTile (m : Table Bool) : { s with resBad := m }.offTile t = s.offTile t :=
  State.offTile_eq_iff.2 ⟨rfl, fun _ _ => rfl, fun _ _ => rfl⟩

@[simp] theorem State.modTile_offTile (f) : (s.modTile t f).offTile t = s.offTile t :=
  State.offTile_eq_iff.2 ⟨rfl, fun _ hx => State.tile_modTile_ne s f hx, fun _ _ => rfl⟩

@[simp] theorem State.modCtx_offTile (c f) : (s.modCtx t c f).offTile t = s.offTile t := s.modTile_offTile t _

@[simp] theorem State.modEng_offTile (e c f) : (s.modEng t e c f).offTile t = s.offTile t := s.modTile_offTile t _

@[simp] theorem State.modSpx_offTile (f) : (s.modSpx t f).offTile t = s.offTile t := s.modTile_offTile t _

@[simp] theorem State.setSrc_offTile (k y) : (s.setSrc t k y).offTile t = s.offTile t := s.modTile_offTile t _

@[simp] theorem State.setArb_offTile {base : Nat} (hb : base = arbBase (.sfu t)) (x) : (s.setArb base x).offTile t = s.offTile t :=
  State.offTile_eq_iff.2 ⟨rfl, fun _ _ => rfl, fun _ hne => tget_tset_ne _ _ _ _ (hb ▸ hne)⟩

/-! ### Counters, flags and the scratchpad's reads -/

@[simp] theorem State.tel_offTile (k n) : (s.tel t k n).offTile t = s.offTile t := s.count_offTile t _ _

@[simp] theorem State.slotNet_offTile (off len) : (s.slotNet t off len).offTile t = s.offTile t := s.count_offTile t _ _

@[simp] theorem State.countUnits_offTile : (s.countUnits t).offTile t = s.offTile t := by simp [State.countUnits]

@[simp] theorem State.laneFlags_offTile (ca0 per fls) : (s.laneFlags ca0 per fls).offTile t = s.offTile t := by simp [State.laneFlags]

@[simp] theorem State.padCe_offTile (n) : (s.padCe t n).offTile t = s.offTile t := by simp [State.padCe]

@[simp] theorem State.padUe_offTile (off) : (s.padUe t off).offTile t = s.offTile t := by simp [State.padUe]

@[simp] theorem State.padRead_offTile (off len) : (s.padRead t off len).2.offTile t = s.offTile t := by
  unfold State.padRead
  dsimp only
  split <;> simp

@[simp] theorem State.padRefuse_offTile (job off) : (s.padRefuse t job off).offTile t = s.offTile t := by simp [State.padRefuse, State.padRefuseAt]

/-! ### Contexts and tokens -/

@[simp] theorem State.tokenArrive_offTile (c ty job) : (s.tokenArrive t c ty job).offTile t = s.offTile t := by simp [State.tokenArrive]

@[simp] theorem State.ownDeliver_offTile (toks) : (s.ownDeliver t toks).offTile t = s.offTile t := by simp [State.ownDeliver]

@[simp] theorem State.countStall_offTile (c k) : (s.countStall t c k).offTile t = s.offTile t := by simp [State.countStall]

@[simp] theorem State.countOthers_offTile (cur) : (s.countOthers t cur).offTile t = s.offTile t := by simp [State.countOthers]

@[simp] theorem State.countAdvance_offTile (c issued idle) : (s.countAdvance t c issued idle).offTile t = s.offTile t := by
  simp [State.countAdvance]

@[simp] theorem State.hold_offTile (c k) : (s.hold t c k).offTile t = s.offTile t := by simp [State.hold]

@[simp] theorem State.deadCycle_offTile : (s.deadCycle t).offTile t = s.offTile t := by
  simp only [State.deadCycle, State.modTile_offTile, State.ite_offTile, State.count_offTile, State.countOthers_offTile, ite_self]
  split
  · split <;> simp
  · rfl

@[simp] theorem State.waitOver_offTile (c) : (s.waitOver t c).offTile t = s.offTile t := by
  unfold State.waitOver
  split <;> simp

@[simp] theorem State.headNote_offTile (c e p) : (s.headNote t c e p).offTile t = s.offTile t := by simp [State.headNote]

@[simp] theorem State.dueNotes_offTile (c blocks) : (s.dueNotes t c blocks).offTile t = s.offTile t :=
  State.foldl_offTile s t _ _ fun s b => by split <;> simp

@[simp] theorem State.ctxFault_offTile (c flag) : (s.ctxFault t c flag).offTile t = s.offTile t := by simp [State.ctxFault]

@[simp] theorem State.goTo_offTile (c i) : (s.goTo t c i).offTile t = s.offTile t := by simp [State.goTo]

@[simp] theorem State.fallOn_offTile (c) : (s.fallOn t c).offTile t = s.offTile t := by simp [State.fallOn]

@[simp] theorem State.brtokGo_offTile (c target h) : (s.brtokGo t c target h).offTile t = s.offTile t := by simp [State.brtokGo]

@[simp] theorem State.brtokTake_offTile (c src h) : (s.brtokTake t c src h).offTile t = s.offTile t := by simp [State.brtokTake]

@[simp] theorem State.waitCycle_offTile (c s0) : (s.waitCycle t c s0).offTile t = s.offTile t := by
  unfold State.waitCycle
  split <;> simp

@[simp] theorem State.freshHeld_offTile (old new) : (s.freshHeld t old new).offTile t = s.offTile t := by
  unfold State.freshHeld
  split <;> simp

/-! ### The matrix engine -/

@[simp] theorem State.upsetAcc_offTile (g lanes) : (s.upsetAcc t g lanes).offTile t = s.offTile t :=
  State.foldl_offTile s t _ _ fun s _ => s.resBad_offTile t _

@[simp] theorem State.residueFail_offTile (g) : (s.residueFail t g).offTile t = s.offTile t := by simp [State.residueFail]

@[simp] theorem State.accHazard_offTile (g) : (s.accHazard t g).offTile t = s.offTile t := by simp [State.accHazard]

@[simp] theorem State.readAcc_offTile (g j) : (s.readAcc t g j).2.offTile t = s.offTile t := by simp [State.readAcc]

@[simp] theorem State.writeAcc_offTile (g j v) : (s.writeAcc t g j v).offTile t = s.offTile t := by
  unfold State.writeAcc
  exact (State.resBad_offTile _ t _).trans (s.setReg_offTile t _ _)

@[simp] theorem State.accWindowWrite_offTile (g j v collide) : (s.accWindowWrite t g j v collide).offTile t = s.offTile t := by
  simp [State.accWindowWrite]

@[simp] theorem State.lanePass_offTile (g j acc r fl) : (s.lanePass t g j acc r fl).2.offTile t = s.offTile t := by simp [State.lanePass]

@[simp] theorem State.lanesPass_offTile (g acc j rs) : (s.lanesPass t g acc j rs).2.offTile t = s.offTile t := by
  induction rs generalizing s j with
  | nil => rfl
  | cons r rs ih =>
    cases r with
    | none => exact ih s (j + 1)
    | some r => simp [State.lanesPass, ih]

@[simp] theorem State.mxeFlags_offTile (fls) : (s.mxeFlags t fls).offTile t = s.offTile t := by simp [State.mxeFlags]

@[simp] theorem State.swapDo_offTile (r) : (s.swapDo t r).offTile t = s.offTile t := by simp [State.swapDo]

theorem State.nextRow_offTile {s u : State} {t : Tile} {d : RunDesc} {row : List Byte × Bool} (h : s.nextRow t d = some (row, u)) :
    u.offTile t = s.offTile t := by
  unfold State.nextRow at h
  dsimp only at h
  split at h
  · obtain ⟨_, _, h⟩ := Option.map_eq_some_iff.1 h
    cases h
    simp
  · split at h <;> cases h
    simp

@[simp] theorem State.takeBehind_offTile (d n) : (s.takeBehind t d n).2.offTile t = s.offTile t := by
  induction n generalizing s with
  | zero => rfl
  | succ n ih =>
    unfold State.takeBehind
    split
    · split <;> simp [ih]
    · rfl

@[simp] theorem State.discardBehind_offTile (r behind) : (s.discardBehind t r behind).2.offTile t = s.offTile t := by simp [State.discardBehind]

@[simp] theorem State.rowWrite_offTile (r bytes fault) : (s.rowWrite t r bytes fault).offTile t = s.offTile t := by simp [State.rowWrite]

@[simp] theorem State.rowDo_offTile (r fault) : (s.rowDo t r fault).offTile t = s.offTile t := by
  unfold State.rowDo
  split
  · next h => simp [State.nextRow_offTile h]
  · rfl

/-! ### The SFU arbiter -/

section
variable {base : Nat} (hb : base = arbBase (.sfu t))
include hb

theorem State.arbWaited_offTile (i) : (s.arbWaited base i).offTile t = s.offTile t := by simp [State.arbWaited, hb]

theorem State.arbWindowStart_offTile : (s.arbWindowStart base).offTile t = s.offTile t := by
  simp [State.arbWindowStart, State.arbWaited_offTile _ t hb, State.setArb_offTile _ t hb]

omit hb in
@[simp] theorem State.arbGrant_offTile (o) : (s.arbGrant base o).offTile t = s.offTile t := by
  unfold State.arbGrant
  dsimp only
  split <;> simp

theorem State.arbServe_offTile (i n cost) : (s.arbServe base i n cost).offTile t = s.offTile t := by
  simp [State.arbServe, State.setArb_offTile _ t hb]

theorem State.arbLower_offTile (i kept again) : (s.arbLower base i kept again).offTile t = s.offTile t := by
  simp [State.arbLower, State.setArb_offTile _ t hb]

theorem State.arbRun_offTile (asks) : (s.arbRun base asks).2.offTile t = s.offTile t := by
  unfold State.arbRun
  split
  extract_lets ask s1 s2 rank s3 shares kept s4 s5 s6 s7 x full units
  have h1 : s1.offTile t = s.offTile t := by simp [s1, State.arbWindowStart_offTile _ t hb]
  have h2 : s2.offTile t = s1.offTile t := by unfold s2; split <;> simp
  have h3 : s3.offTile t = s2.offTile t := by unfold s3; split <;> simp
  have h4 : s4.offTile t = s3.offTile t := by simp [s4, State.arbServe_offTile _ t hb]
  have h5 : s5.offTile t = s4.offTile t := by simp [s5, State.arbLower_offTile _ t hb]
  have h6 : s6.offTile t = s5.offTile t := by unfold s6; split <;> simp
  rw [State.setArb_offTile _ t hb, State.setFld_offTile, h6, h5, h4, h3, h2, h1]
end

/-- A period of the arbiter is a parameter of the proof: the kernel would otherwise unfold it on the tile's address. -/
@[simp] theorem State.sfuCycles_offTile (n) : (s.sfuCycles t n).2.offTile t = s.offTile t := by
  have h : ∀ s asks, (State.arbRun s (arbBase (.sfu t)) asks).2.offTile t = s.offTile t := fun s => State.arbRun_offTile s t rfl
  delta State.sfuCycles State.sfuCycles._f
  obtain ⟨run, hrun⟩ : ∃ run, run = State.arbRun := ⟨_, rfl⟩
  rw [← hrun] at h ⊢
  clear hrun
  induction n generalizing s with
  | zero => rfl
  | succ n ih => exact (ih (run s _ _).2).trans (h s _)

@[simp] theorem State.sfuRanks_offTile (ss) : (s.sfuRanks t ss).2.offTile t = s.offTile t := by
  induction ss generalizing s with
  | nil => rfl
  | cons st ss ih => simp [State.sfuRanks, ih]

/-! ### The vector chain -/

@[simp] theorem State.startInvocation_offTile (v) : (s.startInvocation t v).offTile t = s.offTile t := by simp [State.startInvocation]

@[simp] theorem State.startQueuedInvocation_offTile (q) : (s.startQueuedInvocation t q).offTile t = s.offTile t := by
  simp [State.startQueuedInvocation]

@[simp] theorem State.preloadDo_offTile (v) : (s.preloadDo t v).offTile t = s.offTile t := by
  unfold State.preloadDo
  dsimp only
  split <;> simp

@[simp] theorem State.readAccRow_offTile (g) : (s.readAccRow t g).2.offTile t = s.offTile t := by simp [State.readAccRow]

@[simp] theorem State.chainRead_offTile (c g upsets) : (s.chainRead t c g upsets).2.2.offTile t = s.offTile t := by
  unfold State.chainRead
  extract_lets s1
  have h1 : s1.offTile t = s.offTile t := s.tel_offTile t 3 1
  split <;> simp [h1]

@[simp] theorem State.reportUnsup_offTile (v n ss) : (s.reportUnsup t v n ss).offTile t = s.offTile t := by
  delta State.reportUnsup State.reportUnsup._f
  induction ss generalizing s n with
  | nil => rfl
  | cons st ss ih =>
    refine (ih _ (n + 1)).trans ?_
    simp only [State.ite_offTile, State.modTile_offTile, State.postCtx_offTile, State.raise_offTile, ite_self]

@[simp] theorem State.reportParity_offTile (c ss ranks errs) : (s.reportParity t c ss ranks errs).offTile t = s.offTile t := by
  simp [State.reportParity]

@[simp] theorem State.setRowM_offTile (g v) : (s.setRowM t g v).offTile t = s.offTile t := by simp [State.setRowM]

@[simp] theorem State.setRowSum_offTile (g r) : (s.setRowSum t g r).offTile t = s.offTile t := by simp [State.setRowSum]

@[simp] theorem State.refStage_offTile (e mode b) : (s.refStage t e mode b).2.offTile t = s.offTile t := by
  unfold State.refStage
  dsimp only
  split
  · rfl
  · split <;> simp

@[simp] theorem State.chainStage_offTile (e errs n st r) : (s.chainStage t e errs n st r).2.offTile t = s.offTile t := by
  unfold State.chainStage
  dsimp only
  split <;> simp

@[simp] theorem State.chainStages_offTile (e errs n ss r) : (s.chainStages t e errs n ss r).2.offTile t = s.offTile t := by
  induction ss generalizing s n r with
  | nil => rfl
  | cons st ss ih => exact (ih _ _ _).trans (s.chainStage_offTile t e errs n st r)

@[simp] theorem State.chainRowDo_offTile (v upsets errs) : (s.chainRowDo t v upsets errs).offTile t = s.offTile t := by
  unfold State.chainRowDo
  extract_lets i h o ss g e s1
  clear_value i h o ss g e
  have h1 : s1.offTile t = s.offTile t := by unfold s1; split <;> simp
  split
  simp only [State.modTile_offTile, State.tel_offTile]
  split <;> simp [h1]

@[simp] theorem State.placeDo_offTile : (s.placeDo t).offTile t = s.offTile t := by
  unfold State.placeDo
  split <;> simp

/-! ### Bundles -/

@[simp] theorem State.dueDo_offTile (c d) : (s.dueDo t c d).offTile t = s.offTile t := by
  unfold State.dueDo
  dsimp only
  cases d <;> dsimp only <;> split <;> simp

@[simp] theorem State.runIssue_offTile (c k lcv) : (s.runIssue t c k lcv).offTile t = s.offTile t := by
  unfold State.runIssue
  dsimp only
  split <;> simp

@[simp] theorem State.chainIssue_offTile (c k lcv) : (s.chainIssue t c k lcv).offTile t = s.offTile t := by simp [State.chainIssue]

@[simp] theorem State.streamIssue_offTile (e c k lcv) : (s.streamIssue t e c k lcv).offTile t = s.offTile t := by
  unfold State.streamIssue
  split <;> simp

@[simp] theorem State.tokSend_offTile (c k n) : (s.tokSend t c k n).offTile t = s.offTile t := by
  have own : (State.tokSend.own s t c k).offTile t = s.offTile t := s.modTile_offTile t _
  unfold State.tokSend
  dsimp only
  split
  · exact own
  · simp
  · split <;> simp [own]

@[simp] theorem State.setLc_offTile (c n v) : (s.setLc t c n v).offTile t = s.offTile t := s.setReg_offTile t _ _

@[simp] theorem State.ldlc_offTile (c n word) : (s.ldlc t c n word).offTile t = s.offTile t := by
  unfold State.ldlc
  dsimp only
  split
  · simp
  · split <;> simp

@[simp] theorem State.seqIssue_offTile (c k s0) : (s.seqIssue t c k s0).offTile t = s.offTile t := by
  unfold State.seqIssue
  cases k <;> simp
  split <;> simp

@[simp] theorem State.slots_offTile (c b s0) : (s.slots t c b s0).offTile t = s.offTile t := by
  unfold State.slots
  split
  extract_lets s1 s2 s3 s4 s5 s6 s7
  have h2 : s2.offTile t = s1.offTile t := by unfold s2; split <;> simp
  have h3 : s3.offTile t = s2.offTile t := by unfold s3; split <;> simp
  have h7 : s7.offTile t = s6.offTile t := by unfold s7; split <;> simp
  simp [h7, s6, s5, s4, h3, h2, s1]

@[simp] theorem State.dbgIssued_offTile (c) : (s.dbgIssued t c).offTile t = s.offTile t := by simp [State.dbgIssued]

@[simp] theorem State.actorCycle_offTile (c due credit mk) : (s.actorCycle t c due credit mk).offTile t = s.offTile t := by
  unfold State.actorCycle
  dsimp only
  split
  · simp
  · split
    · simp
    · split
      · simp
      · split <;> simp

@[simp] theorem State.cycle_offTile (due credit mk) : (s.cycle t due credit mk).offTile t = s.offTile t := by
  unfold State.cycle
  dsimp only
  split
  · rfl
  · rw [State.ownDeliver_offTile]
    split <;> simp

/-! ### Context commands and the debug port -/

@[simp] theorem State.unpress_offTile (c) : (s.unpress t c).offTile t = s.offTile t := by simp [State.unpress]

@[simp] theorem State.clearCounts_offTile (c) : (s.clearCounts t c).offTile t = s.offTile t := by simp [State.clearCounts]

@[simp] theorem State.clearLcs_offTile (c) : (s.clearLcs t c).offTile t = s.offTile t := by simp [State.clearLcs]

@[simp] theorem State.clearStreams_offTile (c) : (s.clearStreams t c).offTile t = s.offTile t := by simp [State.clearStreams]

@[simp] theorem State.spxAbort_offTile (c) : (s.spxAbort t c).offTile t = s.offTile t := by
  unfold State.spxAbort
  split <;> simp

@[simp] theorem State.emptyCtx_offTile (c) : (s.emptyCtx t c).offTile t = s.offTile t := by simp [State.emptyCtx]

@[simp] theorem State.ctxStart_offTile (c pc) : (s.ctxStart t c pc).offTile t = s.offTile t := by simp [State.ctxStart]

@[simp] theorem State.ctxStop_offTile (c) : (s.ctxStop t c).offTile t = s.offTile t := by simp [State.ctxStop]

@[simp] theorem State.ctxResume_offTile (c) : (s.ctxResume t c).offTile t = s.offTile t := by simp [State.ctxResume]

@[simp] theorem State.ctxUnload_offTile (c) : (s.ctxUnload t c).offTile t = s.offTile t := by simp [State.ctxUnload]

@[simp] theorem State.ctxCommand_offTile (c) {f : State → State} (hf : ∀ s, (f s).offTile t = s.offTile t) :
    (s.ctxCommand t c f).offTile t = s.offTile t := by
  simp [State.ctxCommand, hf]

@[simp] theorem State.pressCtx_offTile (c) : (s.pressCtx t c).offTile t = s.offTile t := by simp [State.pressCtx]

@[simp] theorem State.pressMask_offTile (mask) : (s.pressMask t mask).offTile t = s.offTile t := by simp [State.pressMask]

@[simp] theorem State.dbgHalt_offTile (cause) : (s.dbgHalt t cause).offTile t = s.offTile t := s.modTile_offTile t _

@[simp] theorem State.dbgResume_offTile (ctx n) : (s.dbgResume t ctx n).offTile t = s.offTile t := by simp [State.dbgResume]

@[simp] theorem State.dbgTctlWrite_offTile (v) : (s.dbgTctlWrite t v).offTile t = s.offTile t := by simp [State.dbgTctlWrite]

@[simp] theorem State.dbgCommand_offTile (ca level) {f : State → State} (hf : ∀ s, (f s).offTile t = s.offTile t) :
    (s.dbgCommand ca level f).offTile t = s.offTile t := by
  simp [State.dbgCommand, hf]

/-! ### Stream programs -/

@[simp] theorem State.strFault_offTile (e c r flag) : (s.strFault t e c r flag).offTile t = s.offTile t := by simp [State.strFault]

@[simp] theorem State.countServed_offTile (e c w) : (s.countServed t e c w).offTile t = s.offTile t := s.modTile_offTile t _

@[simp] theorem State.strNext_offTile (e c r) : (s.strNext t e c r).offTile t = s.offTile t := by simp [State.strNext]

@[simp] theorem State.strJump_offTile (e c r target) : (s.strJump t e c r target).offTile t = s.offTile t := by simp [State.strJump]

@[simp] theorem State.strUnmapped_offTile (c a) : (s.strUnmapped t c a).offTile t = s.offTile t := by simp [State.strUnmapped]

@[simp] theorem State.strWait_offTile : (s.strWait t).offTile t = s.offTile t := s.tel_offTile t _ _

@[simp] theorem State.ownRead_offTile (e c off len) : (s.ownRead t e c off len).2.offTile t = s.offTile t := by simp [State.ownRead]

@[simp] theorem State.scaleRead_offTile (e c off len) : (s.scaleRead t e c off len).2.offTile t = s.offTile t := by
  unfold State.scaleRead
  dsimp only
  split <;> simp

@[simp] theorem State.accx_offTile (e c r w) {f : State → Nat → Nat → State} (hf : ∀ s g a, (f s g a).offTile t = s.offTile t) :
    (s.accx t e c r w f).offTile t = s.offTile t := by
  unfold State.accx
  split <;> simp [hf]

@[simp] theorem State.takeOut_offTile (c r size) {f : State → List Byte → State} (hf : ∀ s b, (f s b).offTile t = s.offTile t) :
    (s.takeOut t c r size f).offTile t = s.offTile t := by
  unfold State.takeOut
  split <;> simp [hf]

@[simp] theorem State.mrxReserve_offTile (e c group units h b fuel) :
    (s.mrxReserve t e c group units h b fuel).2.offTile t = s.offTile t := by
  induction fuel generalizing s with
  | zero => rfl
  | succ fuel ih =>
    unfold State.mrxReserve
    split <;> simp [ih]

/-! ### Requests and responses on the network -/

@[simp] theorem State.openTxn_offTile (k) : (s.openTxn t k).2.offTile t = s.offTile t := s.modTile_offTile t _

@[simp] theorem State.sendGroup_offTile (job tag g b) : (s.sendGroup t job tag g b).offTile t = s.offTile t := s.send_offTile t _ _

@[simp] theorem State.request_offTile (job w dest tag mcg b) : (s.request t job w dest tag mcg b).offTile t = s.offTile t := by
  unfold State.request
  split <;> simp

@[simp] theorem State.readMulticast_offTile (e c d g sp) : (s.readMulticast t e c d g sp).offTile t = s.offTile t := by
  unfold State.readMulticast
  dsimp only
  split
  · split <;> simp
  all_goals simp

@[simp] theorem State.multicastRead_offTile (e c r d g spans) : (s.multicastRead t e c r d g spans).offTile t = s.offTile t := by
  simp [State.multicastRead]

@[simp] theorem State.writeMulticast_offTile (c d group addr data) : (s.writeMulticast t c d group addr data).offTile t = s.offTile t := by
  simp [State.writeMulticast]

@[simp] theorem State.respond_offTile (tag st data fill cst) : (s.respond t tag st data fill cst).offTile t = s.offTile t := by
  unfold State.respond
  split
  · rfl
  · next k _ => cases k <;> simp

@[simp] theorem State.applyMask_offTile (mask) : (s.applyMask t mask).offTile t = s.offTile t := s.setFld_offTile t _ _ _ _

@[simp] theorem State.refuseWith_offTile (h b field site st) : (s.refuseWith h b field site st).offTile t = s.offTile t := by
  unfold State.refuseWith
  split
  · exact s.send_offTile t _ _
  · rfl

/-- A path notice is no multicast write, so its wrong tag tells no tracker of a shared block. -/
@[simp] theorem State.tagMismatch_pathNotice_offTile (h mask field site) :
    (s.tagMismatch h (.pathNotice mask) field site).offTile t = s.offTile t := by
  unfold State.tagMismatch
  cases h.mcg with
  | none => simp
  | some g => cases hm : g.member <;> simp [hm]

@[simp] theorem State.arriveAt_pathNotice_offTile (field site mask) {f : State → State} (hf : ∀ s, (f s).offTile t = s.offTile t) :
    (s.arriveAt field site (.pathNotice mask) f).offTile t = s.offTile t := by
  unfold State.arriveAt
  split <;> simp [State.arrive, hf]

/-! ### The update unit's sources and the sparse engine -/

@[simp] theorem State.setSrcState_offTile (k v) : (s.setSrcState t k v).offTile t = s.offTile t := s.setFld_offTile t _ _ _ _

@[simp] theorem State.updPad_offTile (job off len) : (s.updPad t job off len).2.offTile t = s.offTile t := by simp [State.updPad]

@[simp] theorem State.setCmd_offTile (c) : (s.setCmd t c).offTile t = s.offTile t := s.modSpx_offTile t _

@[simp] theorem State.spxLine_offTile (job off n) : (s.spxLine t job off n).2.offTile t = s.offTile t := by simp [State.spxLine]

@[simp] theorem State.spxRead_offTile (job off len fuel) : (s.spxRead t job off len fuel).2.2.offTile t = s.offTile t := by
  induction fuel generalizing s off len with
  | zero => rfl
  | succ fuel ih =>
    unfold State.spxRead
    split <;> simp [ih]

@[simp] theorem State.spxWords_offTile (c off n) : (s.spxWords t c off n).2.2.offTile t = s.offTile t := by simp [State.spxWords]

@[simp] theorem State.takeRecord_offTile (k) : (s.takeRecord t k).offTile t = s.offTile t := by
  unfold State.takeRecord
  dsimp only
  split <;> simp

@[simp] theorem State.readHead_offTile (c) : (s.readHead t c).2.offTile t = s.offTile t := by simp [State.readHead]

@[simp] theorem State.readHeads_offTile (cs) : (s.readHeads t cs).2.offTile t = s.offTile t := by
  induction cs generalizing s with
  | nil => rfl
  | cons c cs ih => simp [State.readHeads, ih]

@[simp] theorem State.issuePieces_offTile (d c ps) : (s.issuePieces t d c ps).2.offTile t = s.offTile t := by
  induction ps generalizing s c with
  | nil => rfl
  | cons p ps ih =>
    unfold State.issuePieces
    dsimp only
    split
    · simp [ih]
    · simp [ih]
    · split <;> simp [ih]

@[simp] theorem State.spxFetch_offTile (c) {plan finish : SpxCmd → State → SpxCmd × State}
    (hp : ∀ c s, (plan c s).2.offTile t = s.offTile t) (hf : ∀ c s, (finish c s).2.offTile t = s.offTile t) :
    (s.spxFetch t c plan finish).offTile t = s.offTile t := by
  unfold State.spxFetch
  dsimp only
  split <;> simp [hp, hf]

@[simp] theorem State.readList_offTile (c off n) : (s.readList t c off n).2.2.offTile t = s.offTile t := by simp [State.readList]

@[simp] theorem State.merge_offTile (c f) : (s.merge t c f).offTile t = s.offTile t := by simp [State.merge]

/-! ### Commands -/

/-- A command's outcome, where it is a next state, differs from the state before in what a tile's commands may change alone. -/
def OnTile (o : Out) : Prop := ∀ u, o = .next u → u.offTile t = s.offTile t

@[simp] theorem onTile_next (u) : OnTile s t (.next u) ↔ u.offTile t = s.offTile t :=
  ⟨fun h => h u rfl, fun h _ hu => by cases hu; exact h⟩

@[simp] theorem onTile_ite (p : Prop) [Decidable p] (a b) : OnTile s t (if p then a else b) ↔ if p then OnTile s t a else OnTile s t b := by
  split <;> rfl

@[simp] theorem State.issueSlot_onTile (credit b) : OnTile s t (s.issueSlot t credit b) :=
  (onTile_next s t _).2 (s.cycle_offTile t _ _ _)

@[simp] theorem State.strInstr_onTile (e c op) {f : State → StreamRun → Word → State} (hf : ∀ s r w, (f s r w).offTile t = s.offTile t) :
    OnTile s t (s.strInstr t e c op f) := by
  unfold State.strInstr
  split <;> simp [hf]

@[simp] theorem State.spxStep_onTile (op mode) {f : SpxCmd → State} (hf : ∀ c, (f c).offTile t = s.offTile t) :
    OnTile s t (s.spxStep t op mode f) := by
  unfold State.spxStep
  split <;> simp [hf]

theorem execBrtokRetest_onTile : OnTile s t (execBrtokRetest t s) := by
  unfold execBrtokRetest
  split
  · simp
  · split <;> simp

theorem execWait_onTile (cond n) : OnTile s t (execWait t cond n s) := by simp [execWait]

theorem execWaitConditionMet_onTile : OnTile s t (execWaitConditionMet t s) := by
  unfold execWaitConditionMet
  split <;> simp

theorem execBundleIssue_onTile (due since) : OnTile s t (execBundleIssue t due since s) := by simp [execBundleIssue]

theorem execContextChoice_onTile (adv) : OnTile s t (execContextChoice t adv s) := by simp [execContextChoice]

theorem execStart_onTile (c pc) : OnTile s t (execStart t c pc s) := by simp [execStart]

theorem execStop_onTile (c) : OnTile s t (execStop t c s) := by simp [execStop]

theorem execResume_onTile (c) : OnTile s t (execResume t c s) := by simp [execResume]

theorem execUnload_onTile (c) : OnTile s t (execUnload t c s) := by simp [execUnload]

theorem execContextStopComplete_onTile (c) : OnTile s t (execContextStopComplete t c s) := by simp [execContextStopComplete]

theorem execRunStart_onTile : OnTile s t (execRunStart t s) := by
  unfold execRunStart
  split <;> simp

theorem execWeightLoad_onTile : OnTile s t (execWeightLoad t s) := by
  unfold execWeightLoad
  split
  · simp
  · dsimp only
    split
    · simp
    · split
      · simp
      · split <;> simp

theorem execWeightSwap_onTile : OnTile s t (execWeightSwap t s) := by
  unfold execWeightSwap
  split
  · simp
  · split
    · simp
    · split <;> simp

theorem execRowPass_onTile (fault) : OnTile s t (execRowPass t fault s) := by
  unfold execRowPass
  split
  · simp
  · split
    · simp
    · split <;> simp

theorem execClrhalt_onTile : OnTile s t (execClrhalt t s) := by simp [execClrhalt]

theorem execAccWindowWrite_onTile (row lane v collide portS) : OnTile s t (execAccWindowWrite t row lane v collide portS s) := by
  simp [execAccWindowWrite]

theorem execAccWindowRead_onTile (row lane upset portS) : OnTile s t (execAccWindowRead t row lane upset portS s) := by
  simp [execAccWindowRead]

theorem execChain_onTile (k) : OnTile s t (execChain t k s) := by simp [execChain]

theorem execInvocationStart_onTile : OnTile s t (execInvocationStart t s) := by
  unfold execInvocationStart
  dsimp only
  split <;> simp

theorem execPreloadRead_onTile : OnTile s t (execPreloadRead t s) := by
  unfold execPreloadRead
  split
  · simp
  · split
    · simp
    · split <;> simp

theorem execChainRow_onTile (upsets errs) : OnTile s t (execChainRow t upsets errs s) := by
  unfold execChainRow
  split
  · simp
  · dsimp only
    split
    · simp
    · split <;> simp

theorem execChainEntryPlace_onTile : OnTile s t (execChainEntryPlace t s) := by
  unfold execChainEntryPlace
  split <;> simp

theorem execTok_onTile (k since) : OnTile s t (execTok t k since s) := by
  unfold execTok
  dsimp only
  split
  · simp
  · rw [OnTile, ← s.vcbAge_offTile t t since]
    exact State.issueSlot_onTile _ t _ _

theorem execQueuedProgramStart_onTile (e c) : OnTile s t (execQueuedProgramStart t e c s) := by simp [execQueuedProgramStart]

theorem execStreamEnd_onTile (e c) : OnTile s t (execStreamEnd t e c s) := by simp [execStreamEnd]

theorem execIxset_onTile (e c) : OnTile s t (execIxset t e c s) := by simp [execIxset]

theorem execIxadd_onTile (e c) : OnTile s t (execIxadd t e c s) := by simp [execIxadd]

theorem execIxld_onTile (e c) : OnTile s t (execIxld t e c s) := by simp [execIxld]

theorem execSetc_onTile (e c) : OnTile s t (execSetc t e c s) := by simp [execSetc]

theorem execStreamDjnz_onTile (e c) : OnTile s t (execStreamDjnz t e c s) := by simp [execStreamDjnz]

theorem execStreamJmp_onTile (e c) : OnTile s t (execStreamJmp t e c s) := by simp [execStreamJmp]

theorem execBrs_onTile (e c) : OnTile s t (execBrs t e c s) := by simp [execBrs]

theorem execAccxFill_onTile (e c lost portS) : OnTile s t (execAccxFill t e c lost portS s) := by
  unfold execAccxFill
  dsimp only
  split
  · simp
  · refine s.strInstr_onTile t _ _ _ fun s r w => s.accx_offTile t _ _ _ _ fun s g a => ?_
    simp

theorem execPlim_onTile (e c) : OnTile s t (execPlim t e c s) := by
  refine s.strInstr_onTile t _ _ _ fun s r w => ?_
  split <;> simp

theorem execMaskn_onTile (e c) : OnTile s t (execMaskn t e c s) := by simp [execMaskn]

theorem execStreamTok_onTile (e c) : OnTile s t (execStreamTok t e c s) := by simp [execStreamTok]

theorem execWaitn_onTile (e c) : OnTile s t (execWaitn t e c s) := by simp [execWaitn]

theorem execWaitnExpire_onTile (e c) : OnTile s t (execWaitnExpire t e c s) := by simp [execWaitnExpire]

theorem execMrx_onTile (e c src srcEng srcCtx group) : OnTile s t (execMrx t e c src srcEng srcCtx group s) := by simp [execMrx]

theorem execSetm_onTile (e c) : OnTile s t (execSetm t e c s) := by simp [execSetm]

theorem execMulticastRead_onTile (e c) : OnTile s t (execMulticastRead t e c s) := by
  unfold execMulticastRead
  dsimp only
  split
  · simp
  · split
    · refine s.strInstr_onTile t _ _ _ fun s r w => ?_
      split <;> simp
    · split
      · refine s.strInstr_onTile t _ _ _ fun s r w => ?_
        split <;> simp
      · simp

theorem execMulticastWrite_onTile (c) : OnTile s t (execMulticastWrite t c s) := by
  unfold execMulticastWrite
  split
  · simp
  · split
    · refine s.strInstr_onTile t _ _ _ fun s r w => ?_
      split <;> simp
    · split
      · refine s.strInstr_onTile t _ _ _ fun s r w => ?_
        split <;> simp
      · simp

theorem execStreamResponse_onTile (tag st data fill) : OnTile s t (execStreamResponse t tag st data fill s) := by
  unfold execStreamResponse
  split <;> simp

theorem execEngineTokenPlace_onTile (e c) : OnTile s t (execEngineTokenPlace t e c s) := by simp [execEngineTokenPlace]

theorem execPathNotice_onTile (mask) : OnTile s t (execPathNotice t mask s) := by simp [execPathNotice]

theorem execSourcePoll_onTile (k) : OnTile s t (execSourcePoll t k s) := by simp [execSourcePoll]

theorem execRingPoll_onTile : OnTile s t (execRingPoll t s) := by
  unfold execRingPoll
  split
  · simp
  · dsimp only
    split <;> simp

theorem execSelect_onTile : OnTile s t (execSelect t s) := by
  refine s.spxStep_onTile t _ _ fun c => ?_
  dsimp only
  split <;> simp

theorem execGatherRows_onTile : OnTile s t (execGatherRows t s) := by
  refine s.spxStep_onTile t _ _ fun c => ?_
  dsimp only
  split <;> simp

theorem execGatherBlocks_onTile : OnTile s t (execGatherBlocks t s) := by
  refine s.spxStep_onTile t _ _ fun c => ?_
  dsimp only
  split <;> simp

theorem execIntersect_onTile : OnTile s t (execIntersect t s) := by simp [execIntersect]

theorem execUnion_onTile : OnTile s t (execUnion t s) := by simp [execUnion]

theorem execAndnot_onTile : OnTile s t (execAndnot t s) := by simp [execAndnot]

theorem execSiteGate_onTile : OnTile s t (execSiteGate t s) := by simp [execSiteGate]

theorem execPress_onTile (mask) : OnTile s t (execPress t mask s) := by simp [execPress]

theorem execHalt_onTile : OnTile s t (execHalt t s) := by simp [execHalt]

theorem execDebugResume_onTile (ctx step) : OnTile s t (execDebugResume t ctx step s) := by simp [execDebugResume]

theorem execStepComplete_onTile : OnTile s t (execStepComplete t s) := by simp [execStepComplete]

theorem execBreakpoint_onTile : OnTile s t (execBreakpoint t s) := by
  unfold execBreakpoint
  split <;> simp

open Sys2Proof.Claims in
/-- The frame of every command of a tile: one case for each. -/
theorem exec_onTile {i : Instr} (h : OfTile i t) : OnTile s t (exec i s) := by
  cases i with
  | nop x => cases h; exact s.issueSlot_onTile t _ _
  | setlc x _ _ => cases h; exact s.issueSlot_onTile t _ _
  | djnz x _ _ => cases h; exact s.issueSlot_onTile t _ _
  | jmp x _ => cases h; exact s.issueSlot_onTile t _ _
  | brz x _ _ => cases h; exact s.issueSlot_onTile t _ _
  | addlc x _ _ => cases h; exact s.issueSlot_onTile t _ _
  | ldlc x _ _ => cases h; exact s.issueSlot_onTile t _ _
  | brtok x _ _ _ => cases h; exact s.issueSlot_onTile t _ _
  | brtokRetest x => cases h; exact execBrtokRetest_onTile s t
  | wait x _ _ => cases h; exact execWait_onTile s t _ _
  | waitConditionMet x => cases h; exact execWaitConditionMet_onTile s t
  | yield x => cases h; exact s.issueSlot_onTile t _ _
  | notify x _ => cases h; exact s.issueSlot_onTile t _ _
  | endCtx x _ => cases h; exact s.issueSlot_onTile t _ _
  | bundleIssue x _ _ => cases h; exact execBundleIssue_onTile s t _ _
  | contextChoice x _ => cases h; exact execContextChoice_onTile s t _
  | start x _ _ => cases h; exact execStart_onTile s t _ _
  | stop x _ => cases h; exact execStop_onTile s t _
  | resume x _ => cases h; exact execResume_onTile s t _
  | unload x _ => cases h; exact execUnload_onTile s t _
  | contextStopComplete x _ => cases h; exact execContextStopComplete_onTile s t _
  | run x _ => cases h; exact s.issueSlot_onTile t _ _
  | runStart x => cases h; exact execRunStart_onTile s t
  | weightLoad x => cases h; exact execWeightLoad_onTile s t
  | weightSwap x => cases h; exact execWeightSwap_onTile s t
  | rowPass x _ => cases h; exact execRowPass_onTile s t _
  | clrhalt x => cases h; exact execClrhalt_onTile s t
  | accWindowWrite x _ _ _ _ _ => cases h; exact execAccWindowWrite_onTile s t _ _ _ _ _
  | accWindowRead x _ _ _ _ => cases h; exact execAccWindowRead_onTile s t _ _ _ _
  | chain x _ => cases h; exact execChain_onTile s t _
  | invocationStart x => cases h; exact execInvocationStart_onTile s t
  | preloadRead x => cases h; exact execPreloadRead_onTile s t
  | chainRow x _ _ => cases h; exact execChainRow_onTile s t _ _
  | chainEntryPlace x => cases h; exact execChainEntryPlace_onTile s t
  | streamStart x _ _ _ _ _ => cases h; exact s.issueSlot_onTile t _ _
  | streamStop x _ => cases h; exact s.issueSlot_onTile t _ _
  | newgen x _ => cases h; exact s.issueSlot_onTile t _ _
  | tok x _ _ => cases h; exact execTok_onTile s t _ _
  | queuedProgramStart x _ _ => cases h; exact execQueuedProgramStart_onTile s t _ _
  | streamEnd x _ _ => cases h; exact execStreamEnd_onTile s t _ _
  | ixset x _ _ => cases h; exact execIxset_onTile s t _ _
  | ixadd x _ _ => cases h; exact execIxadd_onTile s t _ _
  | ixld x _ _ => cases h; exact execIxld_onTile s t _ _
  | setc x _ _ => cases h; exact execSetc_onTile s t _ _
  | streamDjnz x _ _ => cases h; exact execStreamDjnz_onTile s t _ _
  | streamJmp x _ _ => cases h; exact execStreamJmp_onTile s t _ _
  | brs x _ _ => cases h; exact execBrs_onTile s t _ _
  | accxFill x e c lost portS => cases h; exact execAccxFill_onTile s t e c lost portS
  | plim x _ _ => cases h; exact execPlim_onTile s t _ _
  | maskn x _ _ => cases h; exact execMaskn_onTile s t _ _
  | streamTok x _ _ => cases h; exact execStreamTok_onTile s t _ _
  | waitn x _ _ => cases h; exact execWaitn_onTile s t _ _
  | waitnExpire x _ _ => cases h; exact execWaitnExpire_onTile s t _ _
  | mrx x _ _ _ _ _ _ => cases h; exact execMrx_onTile s t _ _ _ _ _ _
  | setm x _ _ => cases h; exact execSetm_onTile s t _ _
  | multicastRead x _ _ => cases h; exact execMulticastRead_onTile s t _ _
  | multicastWrite x _ => cases h; exact execMulticastWrite_onTile s t _
  | streamResponse x _ _ _ _ => cases h; exact execStreamResponse_onTile s t _ _ _ _
  | engineTokenPlace x _ _ => cases h; exact execEngineTokenPlace_onTile s t _ _
  | pathNotice x _ => cases h; exact execPathNotice_onTile s t _
  | sourcePoll x _ => cases h; exact execSourcePoll_onTile s t _
  | ringPoll x => cases h; exact execRingPoll_onTile s t
  | select x => cases h; exact execSelect_onTile s t
  | gatherRows x => cases h; exact execGatherRows_onTile s t
  | gatherBlocks x => cases h; exact execGatherBlocks_onTile s t
  | intersect x => cases h; exact execIntersect_onTile s t
  | union x => cases h; exact execUnion_onTile s t
  | andnot x => cases h; exact execAndnot_onTile s t
  | siteGate x => cases h; exact execSiteGate_onTile s t
  | press x _ => cases h; exact execPress_onTile s t _
  | halt x => cases h; exact execHalt_onTile s t
  | debugResume x _ _ => cases h; exact execDebugResume_onTile s t _ _
  | stepComplete x => cases h; exact execStepComplete_onTile s t
  | breakpoint x => cases h; exact execBreakpoint_onTile s t
  | _ => exact h.elim

end
end Sys2Proof.Machine

namespace Sys2Proof.Proofs

open Sys2Proof Sys2Proof.Machine Sys2Proof.Claims

/-- Settles O57: each of the tile's commands keeps `State.offTile`, and that is what the statement says of the state after. -/
theorem tileCommandsStayOnTheTile : Obligations.TileCommandsStayOnTheTile :=
  fun _ t s u h hu => State.offTile_eq_iff.1 (exec_onTile s t h u hu)

end Sys2Proof.Proofs

/-! ## Writes and reads of control registers (O7, O11)

A write that lands runs the rule of its register's tag on the state with the tile's gate open. For each rule, a lemma says when it
accepts a write, that is, when it is a write by the access codes alone. -/

namespace Sys2Proof.Machine

/-! ### The bits of a stored value -/

theorem getLsbD_of_setBits_bits {w v : Word} {hi lo i : Nat} (h : (setBits w hi lo (bits v hi lo)).getLsbD i = true) :
    w.getLsbD i = true ∨ v.getLsbD i = true := by
  simp only [setBits, BitVec.getLsbD_or, BitVec.getLsbD_and, Bool.or_eq_true, Bool.and_eq_true, BitVec.getLsbD_ofNat] at h
  obtain ⟨hw, -⟩ | ⟨⟨-, hv⟩, -⟩ := h
  · exact .inl hw
  · rw [Nat.testBit_shiftLeft, bits, Nat.one_shiftLeft, Nat.testBit_mod_two_pow, Nat.testBit_shiftRight] at hv
    simp only [Bool.and_eq_true, decide_eq_true_eq] at hv
    obtain ⟨hlo, -, hbit⟩ := hv
    rw [Nat.add_sub_cancel' hlo] at hbit
    exact .inr hbit

theorem getLsbD_of_storeField {old v : Word} {f : RegField} {i : Nat} (h : (storeField old v f).getLsbD i = true) :
    old.getLsbD i = true ∨ v.getLsbD i = true := by
  have set_or_keep (h : (if RegField.ok f (bits v f.hi f.lo) then setBits old f.hi f.lo (bits v f.hi f.lo) else old).getLsbD i = true) :
      old.getLsbD i = true ∨ v.getLsbD i = true := by
    split at h
    · exact getLsbD_of_setBits_bits h
    · exact .inl h
  unfold storeField at h
  cases hacc : f.acc <;> rw [hacc] at h
  case rw => exact set_or_keep h
  case rws => exact set_or_keep h
  case w1c => exact .inl (by simp only [BitVec.getLsbD_and, Bool.and_eq_true] at h; exact h.1)
  all_goals exact .inl h

/-- A write by the access codes sets no bit that is 0 both in the register and in the value. -/
theorem getLsbD_of_storeFields {fs : List RegField} {old v : Word} {i : Nat} (h : (storeFields fs old v).getLsbD i = true) :
    old.getLsbD i = true ∨ v.getLsbD i = true := by
  induction fs generalizing old with
  | nil => exact .inl h
  | cons f fs ih =>
    obtain h | h := ih h
    · exact getLsbD_of_storeField h
    · exact .inr h

theorem clearRc_of_no_rc {fs : List RegField} (h : (fs.any fun f => f.acc == .rc) = false) (w : Word) : clearRc fs w = w := by
  induction fs with
  | nil => rfl
  | cons f fs ih =>
    obtain ⟨hf, hfs⟩ := Bool.or_eq_false_iff.1 (List.any_cons ▸ h)
    rw [clearRc, List.foldl_cons, hf]
    exact ih hfs

/-! ### Where the registers with a rule of their own lie -/

/-- The kinds of site whose blocks may hold a register of a tag, for the tags that name one. -/
def tagLiesAt : RegTag → SiteKind → Bool
  | .seqLc, k | .tilCtxcfg, k | .sfuCtl, k | .vchVec, k | .rowState, k | .spdBound, k | .strProg, k | .netTrt, k | .updSrc, k
  | .spxRing, k => k == .tile
  | .fldSitebad, k => k == .fieldCtl
  | .cavePt, k => k == .rindHost
  | .isoModid, k => k == .fabric
  | .rindDwin, k | .funcjob, k | .queueWord, k | .evq, k | .pwrCtl, k => k == .rindMgmt
  | _, _ => true

theorem blockRegs_tagLiesAt {k : SiteKind} {block : Nat} {gs : List RegGroup} (h : blockRegs k block = some gs) :
    gs.all (fun g => tagLiesAt g.tag k) = true := by
  unfold blockRegs at h
  split at h <;> cases h <;> rfl

theorem mem_of_findGroup {off : Nat} {gs : List RegGroup} {g : RegGroup} {is : List Nat} (h : findGroup off gs = some (g, is)) :
    g ∈ gs := by
  induction gs with
  | nil => cases h
  | cons g' gs ih =>
    unfold findGroup at h
    split at h
    · split at h
      · cases h
        exact List.mem_cons_self
      · exact List.mem_cons_of_mem _ (ih h)
    · exact List.mem_cons_of_mem _ (ih h)

theorem siteKind_and_tag_of_decodeCa {ca : Nat} {k : SiteKind} {g : RegGroup} {is : List Nat} (h : decodeCa ca = some (k, g, is)) :
    siteKind (caParts ca).field (caParts ca).site = some k ∧ tagLiesAt g.tag k = true := by
  simp only [decodeCa, Option.bind_eq_bind, Option.bind_eq_some_iff, Option.pure_def, Option.some.injEq, Prod.mk.injEq] at h
  obtain ⟨k', hk, gs, hgs, ⟨g', is'⟩, hg, rfl, rfl, rfl⟩ := h
  exact ⟨hk, List.all_eq_true.1 (blockRegs_tagLiesAt hgs) _ (mem_of_findGroup hg)⟩

/-- The kinds of site that a field holds; the others are the Rind's and the edge's. -/
def siteInField : SiteKind → Bool
  | .tile | .fieldCtl | .vat | .cellar | .optical | .station => true
  | _ => false

theorem lt_iff_siteInField_of_siteKind {field site : Nat} {k : SiteKind} (h : siteKind field site = some k) (hf : field ≠ 0x3F) :
    field < 48 ↔ siteInField k = true := by
  unfold siteKind at h
  split at h
  · next hfield =>
    have : field < 48 := hfield.resolve_right hf
    split at h
    · cases h; simpa [siteInField]
    · split at h <;> cases h <;> simpa [siteInField]
  · next hfield =>
    have : ¬ field < 48 := fun hlt => hfield (.inl hlt)
    split at h <;> cases h <;> simp [siteInField]

/-! ### The gate of the tile that an access reaches -/

/-- The state in which a register of a site of kind k is accessed: a tile's gate is open (R381). -/
def State.atRegister (s : State) (ca : Nat) (k : SiteKind) : State :=
  if k = .tile then s.modTile (tileOfCa (caParts ca)) fun x => { x with gated := false } else s

section
variable (s : State) (ca : Nat) (k : SiteKind)

@[simp] theorem State.atRegister_regs : (s.atRegister ca k).regs = s.regs := by unfold State.atRegister; split <;> rfl

@[simp] theorem State.atRegister_mem : (s.atRegister ca k).mem = s.mem := by unfold State.atRegister; split <;> rfl

@[simp] theorem State.atRegister_reg (cb) : (s.atRegister ca k).reg cb = s.reg cb := State.reg_congr (s.atRegister_regs ca k) cb

@[simp] theorem State.atRegister_bit (cb n) : (s.atRegister ca k).bit cb n = s.bit cb n := by simp [State.bit]

@[simp] theorem State.atRegister_fld (cb hi lo) : (s.atRegister ca k).fld cb hi lo = s.fld cb hi lo := by simp [State.fld]

@[simp] theorem State.atRegister_level : (s.atRegister ca k).level = s.level := by simp [State.level]

@[simp] theorem State.atRegister_claims (cb) : (s.atRegister ca k).claims cb = s.claims cb := by
  unfold State.atRegister
  split <;> rfl

theorem State.tile_atRegister (t : Tile) :
    (s.atRegister ca k).tile t = s.tile t ∨ (s.atRegister ca k).tile t = { s.tile t with gated := false } := by
  unfold State.atRegister
  split
  · by_cases ht : t = tileOfCa (caParts ca)
    · subst ht
      exact .inr (s.tile_modTile_self _ _)
    · exact .inl (s.tile_modTile_ne _ ht)
  · exact .inl rfl

@[simp] theorem State.atRegister_ctx (t c) : (s.atRegister ca k).ctx t c = s.ctx t c := by
  unfold State.ctx
  obtain h | h := s.tile_atRegister ca k t <;> rw [h]

@[simp] theorem State.atRegister_spxBusyFor (t c) : (s.atRegister ca k).spxBusyFor t c = s.spxBusyFor t c := by
  unfold State.spxBusyFor State.spx
  obtain h | h := s.tile_atRegister ca k t <;> rw [h]

end

/-! ### When the rules of the registers accept a write -/

section
variable {s : State} {t : Tile} {c : CtxNo} {ca : Nat} {g : RegGroup} {v : Word}

theorem ctxcfgWrite_accepted (hidle : Ctx.idle (s.ctx t c) = true) (hle : bits v 28 16 ≤ bits v 44 32)
    (hkeep : s.bit ca 7 = true → v.getLsbD 7 = true) : s.ctxcfgWrite t c ca g v = s.plainWrite ca g v := by
  have hclears : (s.bit ca 7 && !v.getLsbD 7) = false := by
    cases hb : s.bit ca 7
    · rfl
    · simp [hkeep hb]
  simp only [State.ctxcfgWrite, hidle, hclears, Nat.not_lt.2 hle, decide_false, Bool.not_true, Bool.false_and, Bool.or_self, Bool.false_eq_true,
    if_false]

theorem lcWrite_accepted (h : (s.ctx t c).state = .stopped) : s.lcWrite t c ca g v = s.plainWrite ca g v := by
  simp [State.lcWrite, h]

theorem vmodeWrite_accepted (h : ∀ c, Ctx.idle (s.ctx t c) = true) : s.vmodeWrite t ca g v = s.plainWrite ca g v := by
  simp [State.vmodeWrite, h]

/-- A vector of a lane is no stage word, so no stage can clash (R110). -/
theorem vchVecWrite_accepted (h : Ctx.idle (s.ctx t c) = true) : s.vchCfgWrite t c ca g 0 v = s.plainWrite ca g v := by
  simp [State.vchCfgWrite, h]

theorem spdBoundWrite_accepted (j : Nat) (h : ∀ c, Ctx.live (s.ctx t c) = false) : s.spdBoundWrite t j ca g v = s.plainWrite ca g v := by
  simp [State.spdBoundWrite, h]

theorem strProgWrite_accepted (h : Ctx.idle (s.ctx t c) = true) : s.strProgWrite t c ca v = s.setReg ca v := by
  simp [State.strProgWrite, h]

/-- With UP = 0 no direction lacks a neighbour, and an entry that stays invalid commits and frees no slots (R196). -/
theorem trtWrite_accepted (i : Nat) (hv : v.getLsbD 63 = false) (hold : s.bit ca 63 = false) (hup : bits v 42 40 = 0) :
    s.trtWrite t i ca g v = s.plainWrite ca g v := by
  have hnew : (storeFields g.fields (s.reg ca) v).getLsbD 63 = false := Bool.eq_false_iff.2 fun h => by
    obtain h | h := getLsbD_of_storeFields h
    · exact Bool.eq_false_iff.1 hold h
    · exact Bool.eq_false_iff.1 hv h
  have hkept : (s.plainWrite ca g v).bit ca 63 = false := by
    unfold State.plainWrite
    split
    · exact hold
    · split <;> exact (congrArg (·.getLsbD 63) (s.reg_setReg_self ca _)).trans hnew
  have hold' : (s.reg ca).getLsbD 63 = false := hold
  have hnone : ¬ (1 ≤ bits v 42 40 ∧ bits v 42 40 ≤ 4 ∧ (upSite t (bits v 42 40)).isNone = true) := fun h => by omega
  simp only [State.trtWrite, if_neg hnone, hnew, hkept, hold', Bool.false_eq_true, false_and, and_false, if_false]

theorem srcWrite_accepted (k : Fin 16) (w : Nat) (hold : s.bit (srcCa t k 0) 63 = false) (hv : v.getLsbD 63 = false) :
    s.srcWrite t k w ca g v = s.plainWrite ca g v := by
  simp only [State.srcWrite, hold, hv, Bool.false_eq_true, false_and, and_false, if_false]

theorem spxRingWrite_accepted (hbusy : s.spxBusyFor t c = false) (hv : v.getLsbD 63 = false) :
    s.spxRingWrite t c ca g v = s.plainWrite ca g v := by
  simp only [State.spxRingWrite, hbusy, hv, Bool.false_and, Bool.or_self, Bool.false_eq_true, if_false]

theorem sitebadWrite_accepted (f : FieldNo) (h : v &&& s.siteUse f = 0) : s.sitebadWrite f ca g v = s.plainWrite ca g v := by
  simp [State.sitebadWrite, h]

theorem cavePtWrite_accepted (h : s.bit caveCtlCa 0 = false) : s.cavePtWrite ca g v = s.plainWrite ca g v := by
  simp [State.cavePtWrite, h]

theorem modidWrite_accepted (h : ∀ p : Fin 96, s.hpState p ≠ 5) : s.modidWrite ca g v = s.plainWrite ca g v := by
  simp [State.modidWrite, h]

/-- The PF's windows take any value (R344). -/
theorem dwinWrite_accepted (i : Nat) : s.dwinWrite 0 i ca g v = s.plainWrite ca g v := by
  simp [State.dwinWrite]

theorem funcjobWrite_accepted (hvf : s.rind.pcie.vfEnable = false) (hq : ∀ f < 5, s.queuesOn f = false)
    (hone : ∀ a < 4, ∀ b < 4, a ≠ b → funcJobIn v (a + 1) ≠ funcJobIn v (b + 1)) : s.funcjobWrite ca g v = s.plainWrite ca g v := by
  have hchanged : ((List.range 5).filter fun f => funcJobIn v f != funcJobIn (s.reg ca) f).any (fun f => s.queuesOn f) = false := by
    simp only [List.any_eq_false, List.mem_filter, List.mem_range]
    exact fun f hf => Bool.eq_false_iff.1 (hq f hf.1)
  have htwice : ((List.range 4).any fun a => (List.range 4).any fun b =>
      a != b && funcJobIn v (a + 1) == funcJobIn v (b + 1)) = false := by
    simp only [List.any_eq_false, List.mem_range, Bool.and_eq_true, bne_iff_ne, beq_iff_eq, Bool.not_eq_true]
    exact fun a ha b hb hab => hone a ha b hb hab.1 hab.2
  simp only [State.funcjobWrite, hvf, hchanged, htwice, Bool.or_self, Bool.false_eq_true, if_false]

theorem queueWrite_accepted (q w : Nat) (hoff : s.queueState q = 0) (h1 : 1 ≤ w) (h2 : w ≤ 2) :
    s.queueWrite q w ca g v = s.plainWrite ca g v := by
  have h0 : w ≠ 0 := by omega
  have h3 : w ≠ 3 := by omega
  simp [State.queueWrite, hoff, h0, h3]

theorem evqWrite_accepted (h : ∀ j < 4, v.getLsbD (9 * j + 8) = false) : s.evqWrite ca g v = s.plainWrite ca g v := by
  have hbad : ((List.range 4).any fun j => v.getLsbD (9 * j + 8) && s.queueFunc (bits v (9 * j + 7) (9 * j)) != 0 &&
      (s.funcJob (s.queueFunc (bits v (9 * j + 7) (9 * j)))).val != j) = false := by
    simp only [List.any_eq_false, List.mem_range]
    exact fun j hj => by simp only [h j hj, Bool.false_and, Bool.false_eq_true, not_false_eq_true]
  simp only [State.evqWrite, hbad, Bool.false_eq_true, if_false]

theorem pwrCtlWrite_accepted (h : v.getLsbD 63 = true) : s.pwrCtlWrite ca g v = s.plainWrite ca g v := by
  simp only [State.pwrCtlWrite, h, Bool.not_true, Bool.and_false, Bool.false_and, Bool.false_eq_true, if_false]

end

/-! ### What a write that lands does -/

open Sys2Proof.Claims

section
variable {s : State} {ca : Nat} {k : SiteKind} {g : RegGroup} {is : List Nat} {v : Word}

theorem othersKept_setReg {s' : State} (hr : s'.regs = s.regs) (hm : s'.mem = s.mem) : OthersKept s (s'.setReg ca v) ca :=
  ⟨fun cb hcb => (s'.reg_setReg_ne v hcb).trans (State.reg_congr hr cb), hm⟩

theorem plainWrite_stored (hw : woReserved g.fields v = false) : Stored s ((s.atRegister ca k).plainWrite ca g v) ca g v := by
  have hset : Stored s ((s.atRegister ca k).setReg ca (storeFields g.fields (s.reg ca) v)) ca g v :=
    ⟨State.reg_setReg_self _ _ _, othersKept_setReg (s.atRegister_regs ca k) (s.atRegister_mem ca k)⟩
  simp only [State.plainWrite, hw, State.atRegister_reg, Bool.false_eq_true, if_false]
  split
  · exact hset
  · exact hset

/-! The rule that a write runs is the one of its tile, of its field's shared blocks, or of the Rind and the edge. -/

theorem controlWrite_of_lands_tile (h : Lands s ca .tile g is) :
    s.controlWrite ca v = (s.atRegister ca .tile).tileWrite (tileOfCa (caParts ca)) (caParts ca) ca g is v := by
  obtain ⟨hdec, hfield, hans, hclaims, hlevel⟩ := h
  rw [← State.atRegister_claims s ca .tile ca] at hclaims
  rw [← State.atRegister_level s ca .tile] at hlevel
  simp only [State.controlWrite, hdec, hfield, hans, if_false, if_true, State.regWrite]
  exact (if_neg (Bool.eq_false_iff.1 hclaims)).trans (if_neg (Nat.not_lt.2 hlevel))

theorem controlWrite_of_lands_field (h : Lands s ca k g is) (hk : k ≠ .tile) (hin : siteInField k = true) :
    s.controlWrite ca v = (s.atRegister ca k).fieldWrite (fieldNo (caParts ca).field) (caParts ca) ca g is v := by
  obtain ⟨hdec, hfield, hans, hclaims, hlevel⟩ := h
  have hlt := (lt_iff_siteInField_of_siteKind (siteKind_and_tag_of_decodeCa hdec).1 hfield).2 hin
  simp [State.controlWrite, State.regWrite, State.atRegister, hdec, hfield, hans, hk, hclaims, Nat.not_lt.2 hlevel, hlt]

theorem controlWrite_of_lands_rind (h : Lands s ca k g is) (hin : siteInField k = false) :
    s.controlWrite ca v = (s.atRegister ca k).rindWrite (caParts ca) ca g is v := by
  obtain ⟨hdec, hfield, hans, hclaims, hlevel⟩ := h
  have hk : k ≠ .tile := fun hk => by rw [hk] at hin; cases hin
  have hlt := mt (lt_iff_siteInField_of_siteKind (siteKind_and_tag_of_decodeCa hdec).1 hfield).1 (Bool.eq_false_iff.1 hin)
  simp [State.controlWrite, State.regWrite, State.atRegister, hdec, hfield, hans, hk, hclaims, Nat.not_lt.2 hlevel, hlt]

theorem gives_stored {i : Instr} (hi : exec i s = .next (s.controlWrite ca v)) (hw : woReserved g.fields v = false)
    (hr : s.controlWrite ca v = (s.atRegister ca k).plainWrite ca g v) : Gives i s fun t => Stored s t ca g v :=
  ⟨_, hi, hr ▸ plainWrite_stored hw⟩

/-- A register without a rule of its own, wherever it lies, is written by its access codes. -/
theorem controlWrite_eq_plainWrite (h : Lands s ca k g is) (ht : g.tag = .plain ∨ g.tag = .counter) :
    s.controlWrite ca v = (s.atRegister ca k).plainWrite ca g v := by
  by_cases hk : k = .tile
  · subst hk
    rw [controlWrite_of_lands_tile h]
    obtain ht | ht := ht <;> simp only [State.tileWrite, ht]
  · cases hin : siteInField k
    · rw [controlWrite_of_lands_rind h hin]
      obtain ht | ht := ht <;> simp only [State.rindWrite, ht]
    · rw [controlWrite_of_lands_field h hk hin]
      obtain ht | ht := ht <;> simp only [State.fieldWrite, ht]

/-- A register whose tag names one kind of site lies at that kind. -/
theorem kind_of_lands {k0 : SiteKind} (h : Lands s ca k g is) (hat : tagLiesAt g.tag k = (k == k0)) : k = k0 :=
  beq_iff_eq.1 (hat ▸ (siteKind_and_tag_of_decodeCa h.1).2)

theorem tile_gives_stored {i : Instr} (hi : exec i s = .next (s.controlWrite ca v)) (h : Lands s ca k g is)
    (hw : woReserved g.fields v = false) (hat : tagLiesAt g.tag k = (k == .tile))
    (hrule : (s.atRegister ca .tile).tileWrite (tileOfCa (caParts ca)) (caParts ca) ca g is v = (s.atRegister ca .tile).plainWrite ca g v) :
    Gives i s fun t => Stored s t ca g v := by
  obtain rfl := kind_of_lands h hat
  exact gives_stored hi hw ((controlWrite_of_lands_tile h).trans hrule)

theorem rind_gives_stored {i : Instr} {k0 : SiteKind} (hi : exec i s = .next (s.controlWrite ca v)) (h : Lands s ca k g is)
    (hw : woReserved g.fields v = false) (hat : tagLiesAt g.tag k = (k == k0)) (hin : siteInField k0 = false)
    (hrule : s.rindWrite (caParts ca) ca g is v = s.plainWrite ca g v) : Gives i s fun t => Stored s t ca g v := by
  obtain rfl := kind_of_lands h hat
  have hk : s.atRegister ca k = s := if_neg fun hk => by rw [hk] at hin; cases hin
  exact gives_stored (k := k) hi hw ((controlWrite_of_lands_rind h hin).trans (by rw [hk, hrule]))

theorem exec_rowstateWrite_false (ca : Ca) : exec (.rowstateWrite ca v false) s = .next (s.controlWrite ca.toNat v) := by
  simp only [exec, execRowstateWrite, Bool.and_false, Bool.false_and, Bool.false_eq_true, if_false]
  split <;> rfl

end

/-! ### What a full-width read does -/

section
variable {s : State} {ca : Nat} {k : SiteKind} {g : RegGroup} {is : List Nat}

theorem regView_of_plain (ht : g.tag = .plain) : s.regView ca k g is = (s.reg ca, s) := by
  simp only [State.regView, ht]

theorem regRead_of_plain (hsee : readHidden k (caParts ca) = true → s.level ≠ 0) (ht : g.tag = .plain) :
    s.regRead ca k g is true = (maskWo g.fields (s.reg ca),
      if g.fields.any (fun f => f.acc == .rc) then
        ((s.atRegister ca k).setReg ca (clearRc g.fields (s.reg ca))).modRind fun x => { x with peaks := x.peaks.erase ca }
      else s.atRegister ca k) := by
  have hshown : (readHidden k (caParts ca) && s.level == 0) = false := by
    cases hr : readHidden k (caParts ca)
    · rfl
    · simpa using hsee hr
  have hreg := s.atRegister_reg ca k ca
  unfold State.atRegister at hreg ⊢
  simp only [State.regRead, hshown, Bool.false_eq_true, if_false, regView_of_plain ht, Bool.true_and, hreg]

/-- A register without RC fields is left as it is, which is then also what clearing its RC fields gives. -/
theorem regRead_of_plain_clears (hsee : readHidden k (caParts ca) = true → s.level ≠ 0) (ht : g.tag = .plain) :
    (s.regRead ca k g is true).2.reg ca = clearRc g.fields (s.reg ca) ∧ OthersKept s (s.regRead ca k g is true).2 ca := by
  rw [regRead_of_plain hsee ht]
  cases hrc : g.fields.any fun f => f.acc == .rc
  · rw [clearRc_of_no_rc hrc]
    exact ⟨s.atRegister_reg ca k ca, fun cb _ => s.atRegister_reg ca k cb, s.atRegister_mem ca k⟩
  · exact ⟨State.reg_setReg_self _ _ _, othersKept_setReg (s.atRegister_regs ca k) (s.atRegister_mem ca k)⟩

theorem controlRead_of_decodeCa {full : Bool} (hdec : decodeCa ca = some (k, g, is)) (hfield : (caParts ca).field ≠ 0x3F)
    (hans : s.answers ca = true) : s.controlRead ca full = (true, s.regRead ca k g is full) := by
  simp [State.controlRead, hdec, hfield, hans]

end

end Sys2Proof.Machine

namespace Sys2Proof.Proofs

open Sys2Proof Sys2Proof.Machine Sys2Proof.Claims

/-- Settles O7: in each case the register's rule accepts the write, which is then one by the access codes alone. -/
theorem registerWritesStore : Obligations.RegisterWritesStore := by
  intro s ca v k g is h hw
  refine ⟨?plain, ?counter, ?sitebad, ?seqLc, ?ctxcfg, ?sfuCtl, ?vchVec, ?rowState, ?spdBound, ?strProg, ?netTrt, ?cavePt, ?updSrc,
    ?spxRing, ?isoModid, ?dwin, ?funcjob, ?queueWord, ?evq, ?pwrCtl⟩
  case plain => exact fun ht => gives_stored rfl hw (controlWrite_eq_plainWrite h (.inl ht))
  case counter => exact fun ht => gives_stored rfl hw (controlWrite_eq_plainWrite h (.inr ht))
  case sitebad =>
    intro ht hfree
    obtain rfl : k = .fieldCtl := kind_of_lands h (by rw [ht]; rfl)
    refine gives_stored (k := .fieldCtl) rfl hw ((controlWrite_of_lands_field h (by decide) rfl).trans ?_)
    simp only [State.fieldWrite, ht]
    exact sitebadWrite_accepted _ hfree
  case seqLc =>
    intro ht hstopped
    refine tile_gives_stored rfl h hw (by rw [ht]; rfl) ?_
    simp only [State.tileWrite, ht]
    exact lcWrite_accepted (by rwa [State.atRegister_ctx])
  case ctxcfg =>
    intro ht ⟨hidle, hle, hkeep⟩
    refine tile_gives_stored rfl h hw (by rw [ht]; rfl) ?_
    simp only [State.tileWrite, ht]
    exact ctxcfgWrite_accepted (by rwa [State.atRegister_ctx]) hle (by rwa [State.atRegister_bit])
  case sfuCtl =>
    intro ht hidle
    refine tile_gives_stored rfl h hw (by rw [ht]; rfl) ?_
    simp only [State.tileWrite, ht]
    exact vmodeWrite_accepted fun c => by rw [State.atRegister_ctx]; exact hidle c
  case vchVec =>
    intro ht hidle
    refine tile_gives_stored rfl h hw (by rw [ht]; rfl) ?_
    simp only [State.tileWrite, ht]
    exact vchVecWrite_accepted (by rwa [State.atRegister_ctx])
  case rowState =>
    intro ht
    refine tile_gives_stored (exec_rowstateWrite_false ca) h hw (by rw [ht]; rfl) ?_
    simp only [State.tileWrite, ht, State.rowStateWrite, Bool.false_eq_true, if_false]
  case spdBound =>
    intro ht hrest
    refine tile_gives_stored rfl h hw (by rw [ht]; rfl) ?_
    simp only [State.tileWrite, ht]
    exact spdBoundWrite_accepted _ fun c => by rw [State.atRegister_ctx]; exact hrest c
  case strProg =>
    intro ht hidle
    obtain rfl : k = .tile := kind_of_lands h (by rw [ht]; rfl)
    have hset : s.controlWrite ca.toNat v = (s.atRegister ca.toNat .tile).setReg ca.toNat v := by
      rw [controlWrite_of_lands_tile h]
      simp only [State.tileWrite, ht]
      exact strProgWrite_accepted (by rwa [State.atRegister_ctx])
    exact ⟨_, rfl, hset ▸ ⟨State.reg_setReg_self _ _ _, othersKept_setReg (by simp) (by simp)⟩⟩
  case netTrt =>
    intro ht ⟨hv, hold, hup⟩
    refine tile_gives_stored rfl h hw (by rw [ht]; rfl) ?_
    simp only [State.tileWrite, ht]
    exact trtWrite_accepted _ hv (by rwa [State.atRegister_bit]) hup
  case cavePt =>
    intro ht hoff
    refine rind_gives_stored (k0 := .rindHost) rfl h hw (by rw [ht]; rfl) rfl ?_
    simp only [State.rindWrite, ht]
    exact cavePtWrite_accepted hoff
  case updSrc =>
    intro ht ⟨hold, hv⟩
    refine tile_gives_stored rfl h hw (by rw [ht]; rfl) ?_
    simp only [State.tileWrite, ht]
    exact srcWrite_accepted _ _ (by rwa [State.atRegister_bit]) hv
  case spxRing =>
    intro ht ⟨hbusy, hv⟩
    refine tile_gives_stored rfl h hw (by rw [ht]; rfl) ?_
    simp only [State.tileWrite, ht]
    exact spxRingWrite_accepted (by rwa [State.atRegister_spxBusyFor]) hv
  case isoModid =>
    intro ht hdown
    refine rind_gives_stored (k0 := .fabric) rfl h hw (by rw [ht]; rfl) rfl ?_
    simp only [State.rindWrite, ht]
    exact modidWrite_accepted hdown
  case dwin =>
    intro ht hpf
    refine rind_gives_stored (k0 := .rindMgmt) rfl h hw (by rw [ht]; rfl) rfl ?_
    simp only [State.rindWrite, ht, hpf]
    exact dwinWrite_accepted _
  case funcjob =>
    intro ht ⟨hvf, hq, hone⟩
    refine rind_gives_stored (k0 := .rindMgmt) rfl h hw (by rw [ht]; rfl) rfl ?_
    simp only [State.rindWrite, ht]
    exact funcjobWrite_accepted hvf hq hone
  case queueWord =>
    intro ht ⟨hoff, h1, h2⟩
    refine rind_gives_stored (k0 := .rindMgmt) rfl h hw (by rw [ht]; rfl) rfl ?_
    simp only [State.rindWrite, ht]
    exact queueWrite_accepted _ _ hoff h1 h2
  case evq =>
    intro ht hnone
    refine rind_gives_stored (k0 := .rindMgmt) rfl h hw (by rw [ht]; rfl) rfl ?_
    simp only [State.rindWrite, ht]
    exact evqWrite_accepted hnone
  case pwrCtl =>
    intro ht hcap
    refine rind_gives_stored (k0 := .rindMgmt) rfl h hw (by rw [ht]; rfl) rfl ?_
    simp only [State.rindWrite, ht]
    exact pwrCtlWrite_accepted hcap

/-- Settles O11: the answer is the value before the read, and the read stores at most the register with its RC fields cleared. -/
theorem readsClearTheirRcFields : Obligations.ReadsClearTheirRcFields := by
  intro s ca k g is hdec hfield hans hsee ht
  have hread := controlRead_of_decodeCa (full := true) hdec hfield hans
  have hclears := regRead_of_plain_clears (is := is) hsee ht
  refine ⟨(s.regRead ca.toNat k g is true).2.setAnswer (s.regRead ca.toNat k g is true).1, ?_, ?_, hclears⟩
  · simp only [exec, execRegisterReadClear, hread]
  · exact congrArg Prod.fst (regRead_of_plain hsee ht)

end Sys2Proof.Proofs

/-! ## The matrix engine's controls and the accumulator window (O20)

CHECK_INJECT is a write of MXE_CHKINJ from outside: it goes through the decoding of its control address and the debug level that the
register needs. The window's accesses are made of an element's read and write with its residue and of a flag raised with an event. -/

namespace Sys2Proof.Machine

open Sys2Proof.Claims

/-! ### Control addresses of a tile -/

section
variable (t : Tile) {block off : Nat} (hb : block < 256) (ho : off < 1048576)
include hb ho

theorem caParts_tileCa : caParts (tileCa t block off) = ⟨t.field.val, t.site.val, block, off⟩ := by
  have hf := t.field.isLt
  have hs := t.site.isLt
  simp only [caParts, tileCa, mkCa, Nat.shiftLeft_eq, Nat.shiftRight_eq_div_pow, CaParts.mk.injEq]
  omega

theorem tileOfCa_caParts_tileCa : tileOfCa (caParts (tileCa t block off)) = t := by
  rw [caParts_tileCa t hb ho]
  obtain ⟨⟨f, hf⟩, ⟨x, hx⟩⟩ := t
  simp [tileOfCa, fieldNo, Fin.ofNat, Nat.mod_eq_of_lt hf, Nat.mod_eq_of_lt hx]

theorem field_tileCa_ne_broadcast : (caParts (tileCa t block off)).field ≠ 0x3F := by
  rw [caParts_tileCa t hb ho]
  exact Nat.ne_of_lt (Nat.lt_trans t.field.isLt (by decide))

theorem answers_tileCa {s : State} (h : s.serves t.field.val = true) : s.answers (tileCa t block off) = true := by
  have hsite : t.site.val ≠ 0x33 := Nat.ne_of_lt (Nat.lt_trans t.site.isLt (by decide))
  simp [State.answers, State.powered, State.up, caParts_tileCa t hb ho, hsite, h]

end

theorem siteKind_tile (t : Tile) : siteKind t.field.val t.site.val = some .tile := by
  unfold siteKind
  rw [if_pos (.inl t.field.isLt), if_pos t.site.isLt]

/-! ### A write that its register's debug level rejects -/

section
variable {s : State} {ca : Nat} {k : SiteKind} {g : RegGroup} {is : List Nat} {v : Word}

theorem controlWrite_of_decodeCa (hdec : decodeCa ca = some (k, g, is)) (hfield : (caParts ca).field ≠ 0x3F) (hans : s.answers ca = true) :
    s.controlWrite ca v = s.regWrite ca k g is v := by
  simp only [State.controlWrite, hdec, hfield, hans, if_false, if_true]

theorem regWrite_of_level_lt (h : s.level < writeLevel k (caParts ca) g) : s.regWrite ca k g is v = (s.atRegister ca k).configError ca := by
  have hlow : (s.atRegister ca k).level < writeLevel k (caParts ca) g := by rwa [State.atRegister_level]
  unfold State.regWrite
  exact (ite_congr rfl (fun _ => rfl) fun _ => if_pos hlow).trans (ite_self _)

theorem rejected_configError_atRegister (s : State) (ca : Nat) (k : SiteKind) : Rejected s ((s.atRegister ca k).configError ca) ca := by
  refine ⟨s.atRegister_regs ca k, s.atRegister_mem ca k, ?_⟩
  unfold State.atRegister
  split <;> rfl

end

/-! ### The injection register (R73) -/

/-- MXE_CHKINJ in the register map. -/
def chkinjGroup : RegGroup := ⟨0x20, [], .mxeChkinj, [⟨7, 4, .wo, 0, []⟩, ⟨3, 0, .wo, 0, []⟩]⟩

theorem decodeCa_chkinj (t : Tile) : decodeCa (tileCa t 0x02 0x20) = some (.tile, chkinjGroup, []) := by
  simp only [decodeCa, caParts_tileCa t (block := 0x02) (off := 0x20) (by decide) (by decide), siteKind_tile]
  rfl

theorem writeLevel_chkinj (t : Tile) : writeLevel .tile (caParts (tileCa t 0x02 0x20)) chkinjGroup = 2 := by
  rw [caParts_tileCa t (by decide) (by decide)]
  rfl

section
variable {s : State} {t : Tile} {c : Instr} {v : Word} (hserves : s.serves t.field.val = true)
  (hc : exec c s = .next (s.controlWrite (tileCa t 0x02 0x20) v))
include hserves hc

theorem gives_injection (hload : s.rind.load = none) (hlevel : s.level = 2) :
    Gives c s fun u => (u.tile t).mxe.inject = (bits v 7 4, bits v 3 0) ∧ u.regs = s.regs ∧ u.mem = s.mem := by
  have hlands : Lands s (tileCa t 0x02 0x20) .tile chkinjGroup [] :=
    ⟨decodeCa_chkinj t, field_tileCa_ne_broadcast t (by decide) (by decide), answers_tileCa t (by decide) (by decide) hserves,
      by simp only [State.claims, hload], Nat.le_of_eq ((writeLevel_chkinj t).trans hlevel.symm)⟩
  refine ⟨_, hc, ?_⟩
  rw [controlWrite_of_lands_tile hlands, tileOfCa_caParts_tileCa t (by decide) (by decide)]
  simp [State.tileWrite, chkinjGroup, State.chkinjWrite, hlevel]

theorem gives_injection_rejected (hlevel : s.level < 2) : Gives c s fun u => Rejected s u (tileCa t 0x02 0x20) := by
  refine ⟨_, hc, ?_⟩
  rw [controlWrite_of_decodeCa (decodeCa_chkinj t) (field_tileCa_ne_broadcast t (by decide) (by decide))
    (answers_tileCa t (by decide) (by decide) hserves), regWrite_of_level_lt (by rwa [writeLevel_chkinj])]
  exact rejected_configError_atRegister s _ _

end

theorem bits_injection (b n : Fin 16) :
    (bits (BitVec.ofNat 64 (16 * b.val + n.val)) 7 4, bits (BitVec.ofNat 64 (16 * b.val + n.val)) 3 0) = (b.val, n.val) := by
  have hb := b.isLt
  have hn := n.isLt
  simp only [bits, BitVec.toNat_ofNat, Nat.shiftRight_eq_div_pow, Nat.one_shiftLeft, Prod.mk.injEq]
  omega

/-! ### Elements and flags (R64, R72) -/

section
variable (s : State) (t : Tile) (g j : Nat) (v : Word)

@[simp] theorem State.writeAcc_reg_self : (s.writeAcc t g j v).reg (accCa t g j) = setBits v 1 0 0 := s.reg_setReg_self _ _

@[simp] theorem State.writeAcc_resBad_self : tget false (s.writeAcc t g j v).resBad (accCa t g j) = false := by simp [State.writeAcc]

theorem State.writeAcc_othersKept : OthersKept s (s.writeAcc t g j v) (accCa t g j) :=
  ⟨fun _ h => s.reg_setReg_ne _ h, rfl⟩

/-! A flag raised with an event of its tile. -/

theorem State.bit_postTile_raise (ca code : Nat) {n : Nat} (hn : n < 64) : ((s.raise ca n).postTile code t v).bit ca n = true := by
  rw [State.bit, State.postTile_reg, State.raise, State.orReg, State.reg_setReg_self, BitVec.getLsbD_or, Bool.or_eq_true]
  exact .inr (by simp [BitVec.getLsbD_ofNat, hn])

theorem State.othersKept_postTile_raise (ca code n : Nat) : OthersKept s ((s.raise ca n).postTile code t v) ca :=
  ⟨fun _ h => s.reg_setReg_ne _ h, rfl⟩

end

theorem othersKept_modTile {s u : State} {ca : Nat} (h : OthersKept s u ca) (t : Tile) (f : TileSt → TileSt) : OthersKept s (u.modTile t f) ca := h

end Sys2Proof.Machine

namespace Sys2Proof.Proofs

open Sys2Proof Sys2Proof.Machine Sys2Proof.Claims

/-- Settles O20: an injection is a write of MXE_CHKINJ, and the other commands are one update of the engine or of an element each. -/
theorem engineControlsAndTheAccumulatorWindow : Obligations.EngineControlsAndTheAccumulatorWindow := by
  intro s t hserves
  refine ⟨?clrhalt, fun hload => ⟨?inject, ?cancel, ?rejected⟩, fun g j v => ⟨?write, ?hazard, ?waits, ?sound, ?poison⟩⟩
  case clrhalt =>
    refine ⟨s.modTile t fun x => { x with mxe := Matrix.restart x.mxe }, ?_, ?_, rfl, rfl⟩
    · simp [exec, execClrhalt, hserves]
    · simp [Matrix.restart]
  case inject =>
    intro b n hlevel
    have hinj := gives_injection (c := .checkInject t b n) hserves rfl hload hlevel
    rwa [bits_injection] at hinj
  case cancel => exact gives_injection (c := .checkInjectCancel t) hserves rfl hload
  case rejected => exact fun b n hlevel => ⟨gives_injection_rejected hserves rfl hlevel, gives_injection_rejected hserves rfl hlevel⟩
  case write =>
    refine ⟨s.writeAcc t g j v, ?_, s.writeAcc_reg_self t g j v, s.writeAcc_resBad_self t g j v, s.writeAcc_othersKept t g j v⟩
    simp [exec, execAccWindowWrite, hserves, State.accWindowWrite]
  case hazard =>
    refine ⟨s.accHazard t g, ?_, s.bit_postTile_raise t _ _ _ (by decide), s.othersKept_postTile_raise t _ _ _ _⟩
    simp [exec, execAccWindowWrite, hserves, State.accWindowWrite]
  case waits =>
    intro b
    exact ⟨⟨s, by simp [exec, execAccWindowWrite, hserves], rfl⟩, ⟨s, by simp [exec, execAccWindowRead, hserves], rfl⟩⟩
  case sound =>
    intro hres
    refine ⟨s.modTile t fun x => { x with bankOut := toBytes 8 (s.reg (accCa t g j)).toNat }, ?_, by simp, rfl, rfl⟩
    simp [exec, execAccWindowRead, hserves, State.readAcc, hres]
  case poison =>
    intro hres
    refine ⟨(s.residueFail t g).modTile t fun x => { x with bankOut := toBytes 8 residuePoison.toNat }, ?_, by simp, by decide,
      othersKept_modTile (s.othersKept_postTile_raise t _ _ _ _) t _⟩
    simp [exec, execAccWindowRead, hserves, State.readAcc, hres]

end Sys2Proof.Proofs

/-! ## A run whose mask select is no code of its field (O19)

CMSEL has two bits (Table 3-2), and a run descriptor copied from a register holds at most 3. The statement takes a run with any
number there, and the address of the column mask then runs on into other blocks. In the state below it is the address of
TEL_CNT_0, which counts the row before its mask is read: lane 0 is masked before the pass and written by it. -/

namespace Sys2Proof.Proofs

open Sys2Proof Sys2Proof.Machine Sys2Proof.Claims

namespace MaskAlias

def site : Tile := ⟨0, 0⟩

/-- A run of one row of BS8 zeros, with the mask select at which the mask's address is TEL_CNT_0. -/
def run : Run where
  desc := { ctx := 0, fmt := .bs8, acc := false, bank := 0, rowbase := 0, nrow := 1, klen := 32, cmsel := 294664, nprob := 1, pstep := 0,
            rpred := false, cpred := false }
  swapped := true

def row : List Byte := List.replicate 264 0

/-- Field 0 is FULL and context 0 of its site 0 is RUNNING and current with the run's row due; the element that the row meets in lane 0 holds
    the flag NX. -/
def state : State :=
  let s := (State.reset.setFld (rindCa 1 0x108) 3 0 4).setReg (accCa site 0 0) 4
  let s := (s.modCtx site 0 fun _ => { state := .running }).modEng site 0 0 fun x => { x with queue := [.ready (.data row true)] }
  s.modTile site fun x => { x with current := some 0, mxe := { run := some run } }

theorem maskAddress_eq_telCnt0 : tileCa site 0x02 (0x2000 + 0x80 * run.desc.ctx.val + 0x20 * run.desc.cmsel) = tileCa site 0x0B 0x100 := by
  decide

theorem rowReady : RowReady state site run row := by
  refine ⟨rfl, ?_, rfl, rfl, ?_, ?_, ?_, rfl, ?_, fun _ _ => rfl, ?_⟩ <;> decide +kernel

theorem laneOn_zero : state.laneOn site run.desc (Matrix.loaded (state.tile site).mxe).mask 0 = false := by decide +kernel

/-- The value of a register after a command. -/
def regAfter (c : Instr) (s : State) (ca : Nat) : Option Word :=
  match exec c s with
  | .next u => some (u.reg ca)
  | _ => none

theorem regAfter_of_exec {c : Instr} {s u : State} (h : exec c s = .next u) (ca : Nat) : regAfter c s ca = some (u.reg ca) := by
  simp only [regAfter, h]

theorem element_before : state.reg (accCa site (runRow run) 0) = 4 := by decide +kernel

theorem element_after : regAfter (.rowPass site ⟨0, 0, [], 0⟩) state (accCa site (runRow run) 0) = some 0 := by decide +kernel

end MaskAlias

open MaskAlias

/-- Refutes O19: in `MaskAlias.state` a pass overwrites the element of a lane that the run's column mask masks. -/
theorem not_matrixEngineLoadsSwapsAndPasses : ¬ Obligations.MatrixEngineLoadsSwapsAndPasses := by
  intro h
  obtain ⟨-, -, -, -, -, hrow⟩ := h state site
  obtain ⟨⟨u, hu, -, hlanes, -⟩, -⟩ := hrow run row 0 0 rowReady
  have hkept : u.reg (accCa site (runRow run) 0) = 4 := by
    have := hlanes 0 (by decide)
    rwa [if_neg (Bool.eq_false_iff.1 laneOn_zero), element_before] at this
  have hcleared : some (u.reg (accCa site (runRow run) 0)) = some 0 := (regAfter_of_exec hu _).symm.trans element_after
  rw [hkept] at hcleared
  exact absurd hcleared (by decide)

end Sys2Proof.Proofs
